-- ==== Sys2Proof/Word.lean ====
section
/-! DEFINITION. The word types of the device: bytes, 16-, 32- and 64-bit words. Every multi-byte field of the device is little-endian (R4). -/

namespace Sys2Proof

/-- One byte of any of the device's memories. -/
abbrev Byte := BitVec 8
/-- A 16-bit field or entry. -/
abbrev W16 := BitVec 16
/-- A 32-bit field or entry; also the bits of an FP32 value. -/
abbrev W32 := BitVec 32
/-- A 64-bit field, and the value a dictionary slot of BAR0 holds (R416). -/
abbrev W64 := BitVec 64

end Sys2Proof
end

