-- ==== Sys2Proof/Syntax.lean ====
section
/-! DEFINITION. The commands of the device: one constructor for each row of spec/opcode_table.json, with the operands that the outside world or the device's own hardware brings with it. -/

namespace Sys2Proof

/-- The 131 interfaces of the object dictionary (R415). -/
inductive Iface where
  | pf
  | vf (p : Fin 128)
  | can (n : Fin 2)
  deriving DecidableEq, Repr

/-- A dictionary entry: 16-bit index and 8-bit subindex (R412). -/
structure Entry where
  index : W16
  sub : Byte
  deriving DecidableEq, Repr

/-- A descriptor slot at the moment its seal write has landed: the 128 bytes of Table 11-1, byte 0 in bits [7:0] (R299, R4). -/
structure DescImage where
  /-- The partition whose window or mirror the slot lies in. -/
  part : Fin 128
  slot : Fin 64
  /-- Written through the physical function's BAR2 mirror (R300). -/
  mirror : Bool
  raw : BitVec 1024
  /-- An earlier write of the slot could still be reordered behind the seal in the fabric (R389). -/
  reorderable : Bool
  deriving DecidableEq, Repr

/-- The kind of a memory error that an access meets (R113, R114, R116). -/
inductive ErrKind where
  | corrected
  | uncorrectable
  | tag
  deriving DecidableEq, Repr

/-- Where a memory error lies: at a partition-view address (Table 4-1), or at a byte of a frame of the partition's weight cache (R96). -/
inductive MemPlace where
  | view (addr : Nat)
  | frame (n off : Nat)
  deriving DecidableEq, Repr

/-- A memory error that a piece of work met. -/
structure MemErr where
  kind : ErrKind
  place : MemPlace
  deriving DecidableEq, Repr

/-- What the hardware met while the work of one command ran: memory errors and a failed host access. -/
structure Met where
  errs : List MemErr
  hostFault : Bool
  deriving DecidableEq, Repr

/-- How a device host read was answered (R112, Table 15-4). -/
inductive CplStatus where
  | ok
  | poisoned
  | unsupportedRequest
  | completerAbort
  deriving DecidableEq, Repr

/-- A unit of memory that is cleared after a change of owner (R379). -/
inductive ClearUnit where
  | channel (c : Fin 256)
  | granule (g : Fin 256)
  | tile (n : Fin 512)
  deriving DecidableEq, Repr

/-- A unit that a fault record can name (Table 13-3). -/
inductive FaultUnit where
  | package
  | tile (phys : Fin 528)
  | channel (c : Fin 256)
  | pipeline (k : Fin 8)
  | edgeEngine (e : Fin 2)
  | canController (n : Fin 2)
  | roost
  | nandDie (d : Fin 80)
  | control
  deriving DecidableEq, Repr

/-- The unit-fatal sources of Table 13-2. -/
inductive UnitSource where
  | tileCheck | tileClock | tileUeRepeat | gangLink
  | channelUeRepeat | channelLink
  | pipeline | edge | canCtrl
  | thermalTrip | avsLoss | roost | nandDie | selfTest
  deriving DecidableEq, Repr

/-- The device-fatal sources of Table 13-2. -/
inductive FatalSource where
  | cpCrash | controlUe | mesh | stateBank
  deriving DecidableEq, Repr

/-- The link power event that the physical function or the link meets (R396). -/
inductive LinkPowerEvent where
  | d0
  | d3hot (pmeEn : Bool)
  | d3cold (pmeEn : Bool)
  | l0 | l1 | l11 | l12
  deriving DecidableEq, Repr

/-- A weight page or an image page of the library (R124): IMAGE flag and page number, with the model slot. -/
structure PageRef where
  model : Fin 256
  image : Bool
  page : Nat
  deriving DecidableEq, Repr

/-- A CAN frame as the wake controller's matcher sees it (R441). -/
structure CanFrame where
  fd : Bool
  remote : Bool
  crcOk : Bool
  ide : Bool
  ident : BitVec 29
  len : Nat
  data : W64
  deriving DecidableEq, Repr

/-- What a start finds (Table 15-5): the units whose checker fails the self-test (R362), a class 3 failure, the pages of the persistent store that fail their check, and whether the check word fails alone (R427). -/
structure StartFinds where
  failed : List FaultUnit
  class3 : Bool
  badPages : List (Fin 256)
  badWord : Bool
  deriving DecidableEq, Repr

/-- The commands and events of the device, in the order of spec/opcode_table.json. -/
inductive Instr where
  | dictionaryWrite (fn : Iface) (e : Entry) (enables : Byte) (value : W64)
  | rwpWrite (fn : Iface) (e : Entry) (enables : Byte) (value : W64)
  | restoreDefaults (fn : Iface) (value : W32)
  | commit (fn : Iface)
  | discard (fn : Iface)
  | commitEvaluated
  | slotPlacementApply
  | clearDone (u : ClearUnit)
  | domainRead (fn : Iface)
  | domainWrite (fn : Iface)
  | domainAbort (fn : Iface)
  | domainTransferDone (fn : Iface) (data : List Byte) (hostFault : Bool)
  | tileClockRequestWrite (fn : Iface) (tile : Fin 512) (value : W16)
  | planLoad (d : DescImage) (met : Met)
  | planUnload (d : DescImage)
  | invoke (d : DescImage) (met : Met)
  | abort (d : DescImage)
  | descriptorStart (p : Fin 128) (met : Met)
  | descriptorWindowWrite (p : Fin 128) (mirror : Bool) (offset : Fin 8192) (data : List Byte)
  | stagedPlanStart (p : Fin 128) (planId : W64)
  | cheapPointReached (p : Fin 128) (planId : W64)
  | invocationEnd (p : Fin 128) (planId : W64) (met : Met)
  | hintPrefetch (p : Fin 128) (planId : W64) (hint : Nat)
  | hintPin (p : Fin 128) (planId : W64) (hint : Nat)
  | hintUnpin (p : Fin 128) (planId : W64) (hint : Nat)
  | demandMigration (p : Fin 128) (planId : W64) (slot : Fin 512) (page : Nat)
  | migrationComplete (p : Fin 128) (page : Nat)
  | mergeEntryTimeout (c : Fin 256) (line : Nat)
  | barMemoryWrite (c : Fin 256) (offset : Nat) (data : List Byte)
  | hostReadCompletion (fn : Iface) (addr : W64) (status : CplStatus) (data : List Byte)
  | hostCompletionTimeout (fn : Iface) (addr : W64)
  | scrubPass (c : Fin 256) (errs : List (ErrKind × Nat))
  | softRowRepair (c : Fin 256) (bank : Fin 16) (row : Nat) (removed : Nat)
  | wheelSlot (done : Bool)
  | chunkDecodeResult (p : Fin 128) (page : PageRef) (failed : List (Fin 17)) (tagOk : Bool)
  | rebuiltStripeProgrammed (p : Fin 128) (page : PageRef)
  | relocateThreshold (block : Nat)
  | ageTick (hottestDieC : Int)
  | refreshDue (block : Nat)
  | patrolRead (block : Nat) (bitErrors : Nat) (ladderStep : Nat)
  | blockRetire (block : Nat)
  | dieFailed (die : Fin 80)
  | dieRebuildDone (die : Fin 80)
  | journalWrite
  | install (fn : Iface) (header : List Byte) (hostFault : Bool)
  | remove (fn : Iface)
  | installAbort (fn : Iface)
  | installPage (data : List Byte) (tagOk : Bool) (digestOk : Bool) (hostFault : Bool)
  | openStream (d : DescImage)
  | close (d : DescImage)
  | closeComplete (stream : Fin 16384)
  | ticket (d : DescImage) (met : Met)
  | ticketExpiry (ticket : BitVec 128)
  | exportStream (d : DescImage) (record : List Byte) (met : Met)
  | exportDrained (stream : Fin 16384) (met : Met)
  | importStream (d : DescImage) (blob : List Byte) (met : Met)
  | chunkSeal (p : Fin 128) (stream : Fin 16384) (slot : Fin 4) (header : BitVec 512) (payload : List Byte) (reorderable : Bool)
  | chunkWindowWrite (p : Fin 128) (stream : Fin 16384) (slot : Fin 4) (offset : Fin 32768) (data : List Byte)
  | swapInDone (stream : Fin 16384)
  | berthGrant (g : Fin 64)
  | groupTick (g : Fin 64) (met : Met)
  | stepEnd (g : Fin 64) (met : Met)
  | streamStatSnapshot (fn : Iface)
  | streamStatSnapshotClear (fn : Iface)
  | streamStatClear (fn : Iface)
  | tdmFrame (port : Fin 2)
  | statSnapshot (fn : Iface)
  | statSnapshotClear (fn : Iface)
  | statClear (fn : Iface)
  | seqOpen (d : DescImage)
  | seqClose (d : DescImage)
  | seqFork (d : DescImage)
  | seqTruncate (d : DescImage)
  | attend (d : DescImage) (table : List Byte) (met : Met)
  | attendStepEnd (p : Fin 128) (planId : W64) (met : Met)
  | frameStart (port : Fin 4) (vc : Fin 16)
  | longPacket (port : Fin 4) (vc : Fin 16) (dataType : BitVec 6) (wordCount : Nat) (eccOk crcOk fifoFull : Bool) (bytes : List Byte)
  | frameEnd (port : Fin 4) (vc : Fin 16)
  | frameTimeout (sensor : Fin 16)
  | frameNotice (k : Fin 8)
  | sensorSettingsWrite (fn : Iface) (sensor : Fin 16) (record : List Byte)
  | settingsI2cDone (sensor : Fin 16) (ok : Bool)
  | reprocess (d : DescImage) (met : Met)
  | i2cTransfer (fn : Iface) (m : Fin 4) (data : List Byte)
  | i2cTransferDone (m : Fin 4) (status : Fin 4) (data : List Byte)
  | edgeRun (d : DescImage) (met : Met)
  | edgeRunDone (e : Fin 2) (micros : W32) (met : Met)
  | micSilent (m : Fin 32)
  | pdmClockChange (port : Fin 4) (active : Bool)
  | settleEnd
  | roostHop (samples : List (List (BitVec 24)))
  | stage0InvocationEnd
  | stage0RefractoryEnd
  | roostPlanLoad (met : Met)
  | feedStart (fn : Iface) (f : Fin 8)
  | feedStop (fn : Iface) (f : Fin 8)
  | feedChunkSeal (f : Fin 8) (mainPath : List (List (BitVec 24)))
  | stage1WindowEnd
  | stage2WindowEnd
  | cascadeStop (fn : Iface)
  | cascadeTrigger (fn : Iface)
  | completionHeadWrite (fn : Iface) (p : Fin 128) (value : W32)
  | heldRecordWrite (p : Fin 128)
  | preemptStop (p : Fin 128) (planId : W64)
  | preemptResume (p : Fin 128) (planId : W64)
  | timeSliceExpiry (p : Fin 128) (planId : W64)
  | slowRatioUpdate (p : Fin 128) (mesh cap link bedrock shift : Nat)
  | holdExpiry
  | stateStepUp
  | linkL12Exit
  | linkD3coldExit
  | canCall (f : CanFrame)
  | canAny (f : CanFrame)
  | gpioWake (pin : Fin 16)
  | linkPowerChange (ev : LinkPowerEvent)
  | powerWindow (compute memory links fixed : Nat) (coreMilliamps : Nat)
  | thermalSample (hottestDeciC : Int)
  | thermalFactorStep
  | avsRead (ok : Bool) (millivolts : W16) (inputUndervoltage : Bool)
  | avsRetry (ok : Bool)
  | lowSupplyEnd
  | droopCrossing (tile : Fin 512)
  | hostClockLimitWrite (fn : Iface) (value : W16)
  | railTargetWrite (fn : Iface) (watch : Bool) (value : W16)
  | gaugeDue (tile : Fin 512)
  | gaugeReading (tile : Fin 512) (marginMv : Int)
  | unitFatalFault (source : UnitSource) (u : FaultUnit)
  | substitutionShiftStart (row : Fin 8)
  | substitutionShiftDone (row : Fin 8)
  | handlingComplete (record : W32) (micros : W32)
  | quietExit (failed : List FaultUnit)
  | deviceFatalFault (source : FatalSource) (cp component : Byte)
  | fence (fn : Iface) (value : W32)
  | unfence (fn : Iface) (value : W32)
  | release (fn : Iface) (value : W32)
  | unfenceChannel (fn : Iface) (value : W32)
  | channelRetestDone (c : Fin 256) (passed : Bool)
  | leaseRenew (fn : Iface)
  | leaseClaim (fn : Iface)
  | leaseRelease (fn : Iface)
  | leasePeriodExpiry
  | fleetEnrol (fn : Iface) (record : List Byte)
  | fleetRemove (fn : Iface) (fleetId : W64)
  | attestNonce (fn : Iface) (nonce : BitVec 256)
  | attestReportReady (fn : Iface)
  | randomHealthFail (retryFailed : Bool)
  | randomRetry (ok : Bool)
  | aonPwrgdRise (straps : BitVec 7) (found : StartFinds)
  | aonPwrgdFall
  | perstAssert (straps : BitVec 7) (found : StartFinds)
  | vfFlr (p : Fin 128)
  | pfFlr (straps : BitVec 7) (found : StartFinds)
  | busMasterEnableSet (fn : Iface)
  | doeDiscovery (fn : Iface) (index : Byte)
  | virkinLoadStart (imageBytes : W32) (hostAddress : W64) (image : List Byte) (hostFault : Bool)
  | virkinLoadUpdate (imageBytes : W32) (hostAddress : W64) (image : List Byte) (hostFault : Bool)
  | handoffHold
  | handoffAdopt (accepted : Bool)
  | doeAttest (fn : Iface) (nonce : BitVec 256) (scope : Byte)
  | doeCert (fn : Iface)
  | negotiate (fn : Iface)
  | componentTrap (n : Fin 7)
  | componentRestartDone (n : Fin 7)
  | crashDumpClear (fn : Iface)
  | nmtStart (n : Fin 2)
  | nmtStop (n : Fin 2)
  | nmtEnterPreOperational (n : Fin 2)
  | nmtResetNode (n : Fin 2)
  | nmtResetCommunication (n : Fin 2)
  | sdoDownload (n : Fin 2) (e : Entry) (expedited : Bool) (size : Nat) (data : W64)
  | sdoUpload (n : Fin 2) (e : Entry)
  | sdoSegment (n : Fin 2) (toggle last : Bool) (data : List Byte)
  | sdoBlockDownload (n : Fin 2) (e : Entry) (data : List Byte) (crcOk : Bool)
  | sdoBlockUpload (n : Fin 2) (e : Entry)
  | sdoAbortTransfer (n : Fin 2)
  | usdoRequest (n : Fin 2) (e : Entry) (write : Bool) (data : List Byte)
  | sdoTimeout (n : Fin 2)
  | sync (n : Fin 2)
  | rpdo (n : Fin 2) (pdo : Fin 4) (data : List Byte)
  | tpdoChangeCheck
  | tpdoEventTimer (pdo : Fin 8)
  | heartbeatProduce (n : Fin 2)
  | heartbeatReceived (n : Fin 2) (node : BitVec 7)
  | heartbeatConsumerTimeout (consumer : Fin 4)
  | emcyInhibitExpiry (n : Fin 2)
  | errorPassive (n : Fin 2) (tec : Byte)
  | rxOverrun (n : Fin 2)
  | busOff (n : Fin 2)
  | busOffRecovery (n : Fin 2)
  | lssSwitchStateGlobal (n : Fin 2) (configuration : Bool)
  | lssSwitchStateSelective (n : Fin 2) (address : BitVec 128)
  | lssConfigureNodeId (n : Fin 2) (nodeId : Byte)
  | lssConfigureBitTiming (n : Fin 2) (table index : Byte)
  | lssActivateBitTiming (n : Fin 2) (delayMs : W16)
  | lssBitTimingSwitch (n : Fin 2)
  | lssStoreConfiguration (n : Fin 2)
  | lssInquireIdentity (n : Fin 2) (field : Fin 4)
  | lssInquireNodeId (n : Fin 2)
  | lssIdentifyRemoteSlave (n : Fin 2) (low high : BitVec 128)
  | lssIdentifyNonConfigured (n : Fin 2)
  | lssFastscan (n : Fin 2) (idNumber : W32) (bitChecked lssSub lssNext : Byte)
  | tapBypass
  | tapIdcode
  | tapSamplePreload (pins : BitVec 160) (preload : BitVec 160)
  | tapExtest
  | perstDeassert
  | linkTrained (width speed : BitVec 4)
  | linkDown
  | xtal32Start
  | droopStretchEnd (tile : Fin 512) (nanos : W64)
  | canErrorActive (n : Fin 2)
  | vddAonLoss
  deriving DecidableEq, Repr

end Sys2Proof
end

