-- ==== Sys2Proof/Config.lean ====
section
/-! DEFINITION. What an implementation fixes and the spec leaves open: free values and cryptographic functions. None has a body, so no proof can see a value of one. Each is named in the assumption log. -/

namespace Sys2Proof

/-- One pass of a virtual array, as a plan's schedule gives it (R29, R66). -/
structure Pass where
  /-- For each virtual row, or for each lone array, in order: the row of the feeding activation stream that it takes. -/
  rows : List Nat
  /-- The token, that is the row of the POST records, which each of them computes. -/
  tokens : List Nat
  /-- The output column of array column 0, column 0. -/
  col : Nat
  /-- The pass's place in the weight streams. -/
  block : Nat
  deriving DecidableEq, Repr

/-- One step of the schedule that a plan's CONFIG blocks hold. -/
inductive FlowOp where
  /-- A STREAM record of kind COPY runs. -/
  | copy (stream : Nat)
  /-- A gang runs its passes, and each of its slots' POST records takes its arrays' accumulators. -/
  | dense (gang : Nat) (passes : List Pass)
  /-- A POST record without a gang runs over `rows` rows of `cols` elements. -/
  | post (record rows cols : Nat)
  /-- An expansion record expands one output row (R256, R257). -/
  | expand (record row : Nat)
  /-- A MEMORY route lands one map row (R260). -/
  | land (route row : Nat)
  /-- A walker record runs for a lane over `count` tokens from `first` on (R206). -/
  | walk (record lane first count : Nat)
  /-- A layer's step whose first input frame is `frame`: the bytes of carried state that take the initial state when a lane's mark is at that frame (R172). -/
  | restart (frame off bytes : Nat)
  /-- Cheap point `index` is passed. -/
  | cheap (index : Nat)
  deriving DecidableEq, Repr

end Sys2Proof

namespace Sys2Proof.Config

/-- A fresh free value for the `n`-th use: any number (see the assumption log for each use). -/
opaque freeNat : Nat → Nat
/-- A fresh free 32-bit word for the `n`-th use. -/
opaque freeW32 : Nat → W32
/-- Bank, of 16, and row of the bonded-memory line `line` of channel `c`: the manual gives a channel banks of rows, and not which lines lie in which. -/
opaque bankRow : Nat → Nat → Nat × Nat
/-- Use `n` of the value of a corrected site (x, y) of a row beyond those that a short frame has (R226). -/
opaque cutSite : Nat → Nat → Nat → W32
/-- A byte of a memory unit that has been off: the use of free values of that time, and the byte's key. -/
opaque lostByte : Nat → Nat → Byte
/-- Cycles by which a part of a plan, as a use of free values, raises `TileHoldCycles`, `TileWaitCycles` and `RowWaitCycles` of a tile: the manual's timing of holds is not modelled. -/
opaque holdCycles : Nat → Nat → Nat
opaque waitCycles : Nat → Nat → Nat
opaque rowCycles : Nat → Nat → Nat
/-- The byte of host memory at a bus address that neither the device has written nor a completion has delivered. -/
opaque hostByte : Nat → Byte
/-- The byte of a device host read that a command's operands do not carry. -/
opaque freeByte : Nat → Byte

/-- SHAKE256 of a message, with the number of bytes wanted. -/
opaque shake256 : List Byte → Nat → List Byte
/-- ML-DSA-65 verification: public key, message, signature. -/
opaque mlDsaVerify : List Byte → List Byte → List Byte → Bool
/-- ML-DSA-65 deterministic signature: the seed of the signing key and the message; 3 309 bytes. -/
opaque mlDsaSign : List Byte → List Byte → List Byte
/-- ML-KEM-768 decapsulation: the private key's seed and the ciphertext. -/
opaque kemDecaps : List Byte → List Byte → List Byte
/-- ML-KEM-768 encapsulation: the public key and the random bytes; gives ciphertext and shared secret. -/
opaque kemEncaps : List Byte → List Byte → List Byte × List Byte
/-- RFC 3394 unwrap: key and wrapped bytes; none when the integrity check fails. -/
opaque keyUnwrap : List Byte → List Byte → Option (List Byte)
/-- AES-256-GCM decryption: key, nonce, additional data, ciphertext, tag; none when the tag fails. -/
opaque gcmOpen : List Byte → List Byte → List Byte → List Byte → List Byte → Option (List Byte)
/-- AES-256-GCM encryption: key, nonce, additional data, plaintext; gives ciphertext and tag. -/
opaque gcmSeal : List Byte → List Byte → List Byte → List Byte → List Byte × List Byte
/-- AES-256-XTS of one data unit: the two keys, the tweak and the plaintext; and the inverse (R378). -/
opaque xtsSeal : List Byte → List Byte → List Byte → List Byte
opaque xtsOpen : List Byte → List Byte → List Byte → List Byte
/-- The check symbols of a 256-bit code word of bonded memory; and its decoding from the word and its check symbols: the word and whether it was corrected, or none when it is uncorrectable (R97; the manual does not give the code). -/
opaque symbolChecks : List Byte → List Byte
opaque symbolDecode : List Byte → List Byte → Option (List Byte × Bool)
/-- Bytes drawn from the DRBG at the `n`-th draw (R371). -/
opaque drbg : Nat → Nat → List Byte
/-- The 256-bit secret seed S fused into the device (R369). -/
opaque seed : List Byte
/-- The Silaux certification key in the boot ROM (R369). -/
opaque certKey : List Byte
/-- The Silaux firmware key (R400). -/
opaque firmwareKey : List Byte
/-- The identity certificate fused into the device (Table 14-2). -/
opaque identityCert : List Byte
/-- The CRC-64 over the page CRCs of the persistent store, for the store's content as a list of numbers (R427): the page layout is not given. -/
opaque storeWord : List Nat → W64

/-- The post-unit's functions of which the manual gives error bounds, not values (Table 3-10), on FP32 bits. -/
opaque sigmoid : W32 → W32
opaque tanh : W32 → W32
opaque exp : W32 → W32
opaque gelu : W32 → W32
opaque hardSigmoid : W32 → W32
opaque hardSwish : W32 → W32
opaque rsqrt : W32 → W32
/-- log2 of the tone stage, with absolute error at most 2^−20 (R235). -/
opaque log2 : W32 → W32
/-- The stages of a decimation chain whose coefficients and word lengths the manual does not give (Table 10-1): the scaling of a CIC output at ratio R; half-band HB1 of its last 19 inputs, the newest first; half-band HB2 with the droop compensation of its last 63 inputs; and the high-pass, from its state and a sample to its next state and its output. -/
opaque cicScale : Nat → Int → Int
opaque halfBand1 : List Int → Int
opaque halfBand2 : List Int → BitVec 24
opaque highPass : Int → BitVec 24 → Int × BitVec 24
/-- A value that a chain's filters hold when a feed begins to take its samples: the use of free values, and which value. -/
opaque chainValue : Nat → Nat → Int
/-- A choice among the dies or blocks that a chunk of a new stripe may go to, for a use of free values and the number of the choice: the placement of stripes is the flash translation layer's own (R123). -/
opaque stripePick : Nat → Nat → Nat

/-- The control word of a POST record's stage that a CONFIG block holds (R466): the block, the record's number among the slot's POST records, and the stage. The manual does not give the block's layout. -/
opaque controlWord : List Byte → Nat → Nat → W32
/-- A CONFIG block agrees with the records of its slot (R43 step 4): the block, and the slot's FEED, POST and STREAM records. The manual does not give the block's layout. -/
opaque configAgrees : List Byte → List Byte → Bool

/-- The schedule that a plan's CONFIG blocks hold, in the order in which it runs. The manual does not give the blocks' layout. -/
opaque schedule : List (List Byte) → List FlowOp

end Sys2Proof.Config
end

