-- ==== Sys2Proof/Machine/OdTable.lean ====
section
/-! DEFINITION. The object dictionary's table (R412): one row for each entry, or range of entries, that a table of the manual lists, with its data type (Table 16-1), its access class (Table 16-2), the bits that a write reaches (R6) and its default. The rows stand by the high byte of their index. -/

namespace Sys2Proof.Machine.Od

/-- The data types of Table 16-1. -/
inductive Ty where
  | bool | i8 | i16 | u8 | u16 | u32 | r32 | str | oct | dom | r64 | u64
  deriving DecidableEq, Repr

/-- The access classes of Table 16-2; `w1c` is class rw whose fields are write-1-to-clear (R7, R413). -/
inductive Access where
  | const | ro | wo | rw | w1c | rws | rwp
  deriving DecidableEq, Repr

/-- The default of an entry: a value, a multiple of the object's number, a value fixed for each device, or a COB-ID that follows the node-ID until it is written (R430). -/
inductive Dflt where
  | val (n : Nat) | scaled (k : Nat) | perDevice | follow (base : Nat)
  deriving DecidableEq, Repr

/-- One row of an entry table: the indices and subindices it covers, and what they have in common. -/
structure Row where
  lo : Nat
  hi : Nat
  subLo : Nat
  subHi : Nat
  ty : Ty
  acc : Access
  mask : Nat
  dflt : Dflt
  deriving DecidableEq, Repr

/-- The rows whose index begins with 0x10. -/
def rows10 : List Row := [
  ⟨0x1018, 0x1018, 0x01, 0x01, .u32, .const, 0xFFFFFFFF, .val 0x00000A57⟩,  -- VendorId
  ⟨0x1018, 0x1018, 0x02, 0x02, .u32, .const, 0xFFFFFFFF, .perDevice⟩,  -- ProductCode
  ⟨0x1018, 0x1018, 0x03, 0x03, .u32, .const, 0xFFFFFFFF, .val 0x00020000⟩,  -- RevisionNumber
  ⟨0x1018, 0x1018, 0x04, 0x04, .u32, .const, 0xFFFFFFFF, .perDevice⟩,  -- SerialNumber
  ⟨0x1000, 0x1000, 0x00, 0x00, .u32, .const, 0xFFFFFFFF, .val 0x00000000⟩,  -- DeviceType
  ⟨0x1001, 0x1001, 0x00, 0x00, .u8, .ro, 0xFF, .val 0⟩,  -- ErrorRegister
  ⟨0x1003, 0x1003, 0x00, 0x00, .u8, .rw, 0xFF, .val 0⟩,  -- ErrorCount
  ⟨0x1003, 0x1003, 0x01, 0x10, .u32, .ro, 0xFFFFFFFF, .val 0⟩,  -- ErrorField
  ⟨0x1005, 0x1005, 0x00, 0x00, .u32, .rwp, 0xFFFFFFFF, .val 0x00000080⟩,  -- SyncCobId
  ⟨0x1008, 0x1008, 0x00, 0x00, .str, .const, 0x0, .val 0⟩,  -- DeviceName
  ⟨0x1009, 0x1009, 0x00, 0x00, .str, .const, 0x0, .val 0⟩,  -- HardwareVersion
  ⟨0x100A, 0x100A, 0x00, 0x00, .str, .ro, 0x0, .val 0⟩,  -- SoftwareVersion
  ⟨0x1010, 0x1010, 0x01, 0x01, .u32, .rw, 0xFFFFFFFF, .val 0x00000002⟩,  -- StoreParameters
  ⟨0x1011, 0x1011, 0x01, 0x01, .u32, .rw, 0xFFFFFFFF, .val 0x00000001⟩,  -- RestoreDefaults
  ⟨0x1014, 0x1014, 0x00, 0x00, .u32, .rwp, 0xFFFFFFFF, .follow 0x80⟩,  -- EmcyCobId
  ⟨0x1015, 0x1015, 0x00, 0x00, .u16, .rwp, 0xFFFF, .val 0⟩,  -- EmcyInhibit
  ⟨0x1016, 0x1016, 0x01, 0x04, .u32, .rwp, 0xFFFFFFFF, .val 0⟩,  -- ConsumerHeartbeat
  ⟨0x1017, 0x1017, 0x00, 0x00, .u16, .rwp, 0xFFFF, .val 1000⟩]  -- ProducerHeartbeatMs

/-- The rows whose index begins with 0x12. -/
def rows12 : List Row := [
  ⟨0x1200, 0x1200, 0x01, 0x01, .u32, .ro, 0xFFFFFFFF, .perDevice⟩,  -- SdoRxCobId
  ⟨0x1200, 0x1200, 0x02, 0x02, .u32, .ro, 0xFFFFFFFF, .perDevice⟩]  -- SdoTxCobId

/-- The rows whose index begins with 0x14. -/
def rows14 : List Row := [
  ⟨0x1400, 0x1400, 0x01, 0x01, .u32, .rwp, 0xFFFFFFFF, .follow 0x80000200⟩,  -- RpdoCobId
  ⟨0x1401, 0x1401, 0x01, 0x01, .u32, .rwp, 0xFFFFFFFF, .follow 0x80000300⟩,  -- RpdoCobId
  ⟨0x1402, 0x1402, 0x01, 0x01, .u32, .rwp, 0xFFFFFFFF, .follow 0x80000400⟩,  -- RpdoCobId
  ⟨0x1403, 0x1403, 0x01, 0x01, .u32, .rwp, 0xFFFFFFFF, .follow 0x80000500⟩,  -- RpdoCobId
  ⟨0x1400, 0x1403, 0x02, 0x02, .u8, .rwp, 0xFF, .val 255⟩]  -- RpdoType

/-- The rows whose index begins with 0x16. -/
def rows16 : List Row := [
  ⟨0x1600, 0x1603, 0x00, 0x00, .u8, .rwp, 0xFF, .val 0⟩,  -- RpdoMapping count
  ⟨0x1600, 0x1603, 0x01, 0x40, .u32, .rwp, 0xFFFFFFFF, .val 0⟩]  -- RpdoMapping

/-- The rows whose index begins with 0x18. -/
def rows18 : List Row := [
  ⟨0x1800, 0x1800, 0x01, 0x01, .u32, .rwp, 0xFFFFFFFF, .follow 0x80000180⟩,  -- TpdoCobId
  ⟨0x1801, 0x1801, 0x01, 0x01, .u32, .rwp, 0xFFFFFFFF, .follow 0x80000280⟩,  -- TpdoCobId
  ⟨0x1802, 0x1802, 0x01, 0x01, .u32, .rwp, 0xFFFFFFFF, .follow 0x80000380⟩,  -- TpdoCobId
  ⟨0x1803, 0x1803, 0x01, 0x01, .u32, .rwp, 0xFFFFFFFF, .follow 0x80000480⟩,  -- TpdoCobId
  ⟨0x1804, 0x1807, 0x01, 0x01, .u32, .rwp, 0xFFFFFFFF, .val 0x80000000⟩,  -- TpdoCobId
  ⟨0x1800, 0x1807, 0x02, 0x02, .u8, .rwp, 0xFF, .val 255⟩,  -- TpdoType
  ⟨0x1800, 0x1807, 0x03, 0x03, .u16, .rwp, 0xFFFF, .val 0⟩,  -- TpdoInhibit
  ⟨0x1800, 0x1807, 0x05, 0x05, .u16, .rwp, 0xFFFF, .val 0⟩]  -- TpdoEventTimerMs

/-- The rows whose index begins with 0x1A. -/
def rows1A : List Row := [
  ⟨0x1A00, 0x1A07, 0x00, 0x00, .u8, .rwp, 0xFF, .val 0⟩,  -- TpdoMapping count
  ⟨0x1A00, 0x1A07, 0x01, 0x40, .u32, .rwp, 0xFFFFFFFF, .val 0⟩]  -- TpdoMapping

/-- The rows whose index begins with 0x20. -/
def rows20 : List Row := [
  ⟨0x2000, 0x2000, 0x01, 0x01, .u64, .const, 0xFFFFFFFFFFFFFFFF, .perDevice⟩,  -- BedrockCapacity
  ⟨0x2010, 0x2010, 0x00, 0x00, .u8, .const, 0xFF, .val 0x04⟩,  -- HighestSubindex
  ⟨0x2010, 0x2010, 0x01, 0x01, .u8, .rwp, 0xFF, .val 0xFF⟩,  -- NodeIdStored
  ⟨0x2010, 0x2010, 0x02, 0x02, .u8, .ro, 0xFF, .val 0xFF⟩,  -- NodeIdActive
  ⟨0x2010, 0x2010, 0x03, 0x03, .u8, .ro, 0xFF, .val 0⟩,  -- NodeIdSource
  ⟨0x2010, 0x2010, 0x04, 0x04, .u8, .ro, 0xFF, .perDevice⟩,  -- NodeIdStrap
  ⟨0x2011, 0x2011, 0x01, 0x02, .u32, .rwp, 0xF0F000F, .val 0x00030001⟩,  -- CanConfig
  ⟨0x2012, 0x2012, 0x01, 0x02, .u32, .ro, 0xFFFFFFFF, .val 0⟩,  -- CanState
  ⟨0x2013, 0x2013, 0x00, 0x00, .u8, .const, 0xFF, .val 0x09⟩,  -- HighestSubindex
  ⟨0x2013, 0x2013, 0x01, 0x01, .u32, .w1c, 0xFF, .val 0⟩,  -- CanFlags
  ⟨0x2013, 0x2013, 0x02, 0x09, .u32, .ro, 0xFFFFFFFF, .val 0⟩,  -- CanEventCount
  ⟨0x2014, 0x2014, 0x00, 0x00, .u8, .const, 0xFF, .val 0x04⟩,  -- HighestSubindex
  ⟨0x2014, 0x2014, 0x01, 0x01, .u32, .rwp, 0xBFFFFFFF, .val 0⟩,  -- CallFrameId
  ⟨0x2014, 0x2014, 0x02, 0x02, .u64, .rwp, 0xFFFFFFFFFFFFFFFF, .val 0⟩,  -- CallFrameData
  ⟨0x2014, 0x2014, 0x03, 0x03, .u64, .rwp, 0xFFFFFFFFFFFFFFFF, .val 0⟩,  -- CallFrameMask
  ⟨0x2014, 0x2014, 0x04, 0x04, .u8, .rwp, 0xFF, .val 0xFF⟩]  -- CallFrameLength

/-- The rows whose index begins with 0x21. -/
def rows21 : List Row := [
  ⟨0x2100, 0x2100, 0x00, 0x00, .u8, .const, 0xFF, .val 0x05⟩,  -- HighestSubindex
  ⟨0x2100, 0x2100, 0x01, 0x01, .u32, .rws, 0xFFFFFFFF, .val 500⟩,  -- LeasePeriodMs
  ⟨0x2100, 0x2100, 0x02, 0x02, .u8, .wo, 0xFF, .val 0⟩,  -- LeaseCommand
  ⟨0x2100, 0x2100, 0x03, 0x03, .u8, .ro, 0xFF, .val 0⟩,  -- LeaseState
  ⟨0x2100, 0x2100, 0x04, 0x04, .u32, .ro, 0xFFFFFFFF, .val 0⟩,  -- LeaseRemainingMs
  ⟨0x2100, 0x2100, 0x05, 0x05, .u64, .ro, 0xFFFFFFFFFFFFFFFF, .val 0⟩,  -- LeaseRenewals
  ⟨0x2101, 0x2101, 0x00, 0x00, .u8, .const, 0xFF, .val 0x07⟩,  -- HighestSubindex
  ⟨0x2101, 0x2101, 0x01, 0x01, .u32, .w1c, 0x3F, .val 0⟩,  -- LinkFlags
  ⟨0x2101, 0x2101, 0x02, 0x07, .u32, .ro, 0xFFFFFFFF, .val 0⟩,  -- LinkEventCount
  ⟨0x2102, 0x2102, 0x00, 0x00, .u8, .const, 0xFF, .val 0x04⟩,  -- HighestSubindex
  ⟨0x2102, 0x2102, 0x01, 0x01, .u32, .ro, 0xFFFFFFFF, .val 0⟩,  -- LinkStatus
  ⟨0x2102, 0x2102, 0x02, 0x02, .bool, .rwp, 0x1, .val 1⟩,  -- D3ColdKeep
  ⟨0x2102, 0x2102, 0x03, 0x03, .u16, .rw, 0xFFFF, .val 0⟩,  -- HostWakeVector
  ⟨0x2102, 0x2102, 0x04, 0x04, .u8, .rwp, 0xFF, .val 30⟩]  -- VfChunkApertureLog2

/-- The rows whose index begins with 0x22. -/
def rows22 : List Row := [
  ⟨0x2200, 0x2200, 0x00, 0x00, .u8, .const, 0xFF, .val 0x08⟩,  -- HighestSubindex
  ⟨0x2200, 0x2200, 0x01, 0x01, .u8, .ro, 0xFF, .val 0⟩,  -- FirmwareState
  ⟨0x2200, 0x2200, 0x02, 0x02, .u32, .ro, 0xFFFFFFFF, .val 0⟩,  -- FirmwareVersion
  ⟨0x2200, 0x2200, 0x03, 0x03, .oct, .ro, 0x0, .val 0⟩,  -- FirmwareDigest
  ⟨0x2200, 0x2200, 0x04, 0x04, .u16, .ro, 0xFFFF, .val 0⟩,  -- SecurityFloor
  ⟨0x2200, 0x2200, 0x05, 0x05, .u8, .ro, 0xFF, .val 0⟩,  -- LastLoadStatus
  ⟨0x2200, 0x2200, 0x06, 0x06, .oct, .const, 0x0, .perDevice⟩,  -- FirmwareKeyDigest
  ⟨0x2200, 0x2200, 0x07, 0x07, .u32, .ro, 0xFFFFFFFF, .val 0⟩,  -- UpdateCount
  ⟨0x2200, 0x2200, 0x08, 0x08, .u8, .ro, 0xFF, .perDevice⟩,  -- FloorFusesUsed
  ⟨0x2201, 0x2201, 0x00, 0x00, .u8, .const, 0xFF, .val 0x06⟩,  -- HighestSubindex
  ⟨0x2201, 0x2201, 0x01, 0x01, .u64, .ro, 0xFFFFFFFFFFFFFFFF, .val 0x00000000000003FF⟩,  -- DeviceFeatures
  ⟨0x2201, 0x2201, 0x02, 0x02, .u64, .rw, 0x3FF, .val 0⟩,  -- DriverFeatures
  ⟨0x2201, 0x2201, 0x03, 0x03, .u64, .ro, 0xFFFFFFFFFFFFFFFF, .val 0⟩,  -- ActiveFeatures
  ⟨0x2201, 0x2201, 0x04, 0x04, .u8, .wo, 0xFF, .val 0⟩,  -- NegotiateCommand
  ⟨0x2201, 0x2201, 0x05, 0x05, .u8, .ro, 0xFF, .val 0⟩,  -- NegotiationState
  ⟨0x2201, 0x2201, 0x06, 0x06, .u8, .ro, 0xFF, .val 0⟩,  -- NegotiationReject
  ⟨0x2202, 0x2202, 0x01, 0x06, .u16, .ro, 0xFFFF, .perDevice⟩,  -- FirmwareInterface
  ⟨0x2203, 0x2203, 0x01, 0x06, .u16, .rw, 0xFFFF, .val 0⟩,  -- DriverInterface
  ⟨0x2204, 0x2204, 0x01, 0x06, .u16, .ro, 0xFFFF, .val 0⟩,  -- ActiveInterface
  ⟨0x2210, 0x2210, 0x01, 0x07, .u32, .ro, 0xFFFFFFFF, .val 0⟩,  -- ComponentRestarts
  ⟨0x2220, 0x2220, 0x00, 0x00, .u8, .const, 0xFF, .val 0x05⟩,  -- HighestSubindex
  ⟨0x2220, 0x2220, 0x01, 0x01, .u32, .w1c, 0xF, .val 0⟩,  -- FirmwareFlags
  ⟨0x2220, 0x2220, 0x02, 0x05, .u32, .ro, 0xFFFFFFFF, .val 0⟩,  -- FirmwareEventCount
  ⟨0x2230, 0x2230, 0x00, 0x00, .u8, .const, 0xFF, .val 0x04⟩,  -- HighestSubindex
  ⟨0x2230, 0x2230, 0x01, 0x01, .dom, .ro, 0x0, .val 0⟩,  -- CrashDump
  ⟨0x2230, 0x2230, 0x02, 0x02, .u32, .ro, 0xFFFFFFFF, .val 0⟩,  -- CrashDumpBytes
  ⟨0x2230, 0x2230, 0x03, 0x03, .u64, .ro, 0xFFFFFFFFFFFFFFFF, .val 0⟩,  -- CrashDumpTime
  ⟨0x2230, 0x2230, 0x04, 0x04, .u8, .wo, 0xFF, .val 0⟩]  -- CrashDumpClear

/-- The rows whose index begins with 0x30. -/
def rows30 : List Row := [
  ⟨0x3000, 0x3000, 0x00, 0x00, .u8, .const, 0xFF, .val 0x08⟩,  -- HighestSubindex
  ⟨0x3000, 0x3000, 0x01, 0x01, .u16, .const, 0xFFFF, .val 512⟩,  -- LogicalTiles
  ⟨0x3000, 0x3000, 0x02, 0x02, .u16, .const, 0xFFFF, .val 528⟩,  -- PhysicalTiles
  ⟨0x3000, 0x3000, 0x03, 0x03, .u8, .const, 0xFF, .val 16⟩,  -- SparesTotal
  ⟨0x3000, 0x3000, 0x04, 0x04, .u8, .const, 0xFF, .perDevice⟩,  -- SparesUsedAtTest
  ⟨0x3000, 0x3000, 0x05, 0x05, .u8, .ro, 0xFF, .perDevice⟩,  -- SparesRemaining
  ⟨0x3000, 0x3000, 0x06, 0x06, .u16, .ro, 0xFFFF, .val 0⟩,  -- TilesUnusable
  ⟨0x3000, 0x3000, 0x07, 0x07, .u16, .const, 0xFFFF, .val 0x0100⟩,  -- PlanFormatVersion
  ⟨0x3000, 0x3000, 0x08, 0x08, .u8, .const, 0xFF, .val 25⟩,  -- ClockStepMHz
  ⟨0x3001, 0x3001, 0x00, 0x00, .u8, .const, 0xFF, .val 0x08⟩,  -- HighestSubindex
  ⟨0x3001, 0x3001, 0x01, 0x01, .u32, .w1c, 0x1F, .val 0⟩,  -- FabricFlags
  ⟨0x3001, 0x3001, 0x02, 0x02, .u32, .ro, 0xFFFFFFFF, .val 0⟩,  -- SubstitutedCount
  ⟨0x3001, 0x3001, 0x03, 0x03, .u32, .ro, 0xFFFFFFFF, .val 0⟩,  -- RowExhaustedCount
  ⟨0x3001, 0x3001, 0x04, 0x04, .u32, .ro, 0xFFFFFFFF, .val 0⟩,  -- SpareLowCount
  ⟨0x3001, 0x3001, 0x05, 0x05, .u32, .ro, 0xFFFFFFFF, .val 0⟩,  -- DegradedCount
  ⟨0x3001, 0x3001, 0x06, 0x06, .u32, .ro, 0xFFFFFFFF, .val 0⟩,  -- PlanRejectCount
  ⟨0x3001, 0x3001, 0x07, 0x07, .u32, .ro, 0xFFFFFFFF, .val 0⟩,  -- FenceCount
  ⟨0x3001, 0x3001, 0x08, 0x08, .u16, .ro, 0xFFFF, .val 0xFFFF⟩,  -- LastFencedPhysical
  ⟨0x3002, 0x3002, 0x00, 0x00, .u8, .const, 0xFF, .val 0x02⟩,  -- HighestSubindex
  ⟨0x3002, 0x3002, 0x01, 0x01, .bool, .rws, 0x1, .val 1⟩,  -- SubstitutionEnable
  ⟨0x3002, 0x3002, 0x02, 0x02, .u8, .rws, 0xFF, .val 4⟩,  -- SpareLowThreshold
  ⟨0x3003, 0x3003, 0x00, 0x00, .u8, .const, 0xFF, .val 0x08⟩,  -- HighestSubindex
  ⟨0x3003, 0x3003, 0x01, 0x08, .u32, .ro, 0xFFFFFFFF, .perDevice⟩]  -- RowSpares

/-- The rows whose index begins with 0x31. -/
def rows31 : List Row := [
  ⟨0x3100, 0x3103, 0x01, 0x80, .u32, .ro, 0xFFFFFFFF, .val 0⟩,  -- TileState
  ⟨0x3110, 0x3113, 0x01, 0x80, .u16, .rw, 0xFFFF, .val 1800⟩,  -- TileClockRequest
  ⟨0x3120, 0x3123, 0x01, 0x80, .u16, .ro, 0xFFFF, .val 0⟩,  -- TileClockActual
  ⟨0x3130, 0x3133, 0x01, 0x80, .u64, .ro, 0xFFFFFFFFFFFFFFFF, .val 0⟩,  -- TileBusyCycles
  ⟨0x3140, 0x3143, 0x01, 0x80, .u64, .ro, 0xFFFFFFFFFFFFFFFF, .val 0⟩,  -- TileHoldCycles
  ⟨0x3150, 0x3153, 0x01, 0x80, .u64, .ro, 0xFFFFFFFFFFFFFFFF, .val 0⟩]  -- TileWaitCycles

/-- The rows whose index begins with 0x34. -/
def rows34 : List Row := [
  ⟨0x3400, 0x3400, 0x00, 0x00, .u8, .const, 0xFF, .val 0x05⟩,  -- HighestSubindex
  ⟨0x3400, 0x3400, 0x01, 0x01, .u8, .const, 0xFF, .val 0x3F⟩,  -- OperandKinds
  ⟨0x3400, 0x3400, 0x02, 0x02, .u8, .const, 0xFF, .val 0x0F⟩,  -- CodeBitsSupported
  ⟨0x3400, 0x3400, 0x03, 0x03, .u16, .const, 0xFFFF, .val 32⟩,  -- CodebookFullRateColumns
  ⟨0x3400, 0x3400, 0x04, 0x04, .u16, .const, 0xFFFF, .val 8192⟩,  -- RowBufferElements
  ⟨0x3400, 0x3400, 0x05, 0x05, .u16, .const, 0xFFFF, .val 4096⟩,  -- StatSets
  ⟨0x3401, 0x3401, 0x00, 0x00, .u8, .const, 0xFF, .val 0x05⟩,  -- HighestSubindex
  ⟨0x3401, 0x3401, 0x01, 0x01, .u32, .w1c, 0xF, .val 0⟩,  -- ArithFlags
  ⟨0x3401, 0x3401, 0x02, 0x02, .u32, .ro, 0xFFFFFFFF, .val 0⟩,  -- IntSaturateCount
  ⟨0x3401, 0x3401, 0x03, 0x03, .u32, .ro, 0xFFFFFFFF, .val 0⟩,  -- NonFiniteCount
  ⟨0x3401, 0x3401, 0x04, 0x04, .u32, .ro, 0xFFFFFFFF, .val 0⟩,  -- ZeroScaleCount
  ⟨0x3401, 0x3401, 0x05, 0x05, .u32, .ro, 0xFFFFFFFF, .val 0⟩,  -- StatDroppedCount
  ⟨0x3402, 0x3402, 0x00, 0x00, .u8, .const, 0xFF, .val 0x01⟩,  -- HighestSubindex
  ⟨0x3402, 0x3402, 0x01, 0x01, .bool, .rws, 0x1, .val 1⟩,  -- StatEnable
  ⟨0x3410, 0x3410, 0x01, 0x80, .u16, .rws, 0xFFFF, .scaled 32⟩,  -- StatWindowBase
  ⟨0x3411, 0x3411, 0x01, 0x80, .u16, .rws, 0xFFFF, .val 32⟩]  -- StatWindowSize

/-- The rows whose index begins with 0x36. -/
def rows36 : List Row := [
  ⟨0x3600, 0x3600, 0x00, 0x00, .u8, .const, 0xFF, .val 0x03⟩,  -- HighestSubindex
  ⟨0x3600, 0x3600, 0x01, 0x01, .u16, .rw, 0xFFFF, .val 0⟩,  -- StatSelect
  ⟨0x3600, 0x3600, 0x02, 0x02, .u8, .wo, 0xFF, .val 0⟩,  -- StatCommand
  ⟨0x3600, 0x3600, 0x03, 0x03, .u64, .ro, 0xFFFFFFFFFFFFFFFF, .val 0⟩,  -- StatSnapshotTime
  ⟨0x3601, 0x3601, 0x00, 0x00, .u8, .const, 0xFF, .val 0x08⟩,  -- HighestSubindex
  ⟨0x3601, 0x3601, 0x01, 0x01, .u64, .ro, 0xFFFFFFFFFFFFFFFF, .val 0⟩,  -- SnapCount
  ⟨0x3601, 0x3601, 0x02, 0x02, .r64, .ro, 0xFFFFFFFFFFFFFFFF, .val 0⟩,  -- SnapSumSqErr
  ⟨0x3601, 0x3601, 0x03, 0x03, .r64, .ro, 0xFFFFFFFFFFFFFFFF, .val 0⟩,  -- SnapSumSqRef
  ⟨0x3601, 0x3601, 0x04, 0x04, .r32, .ro, 0xFFFFFFFF, .val 0⟩,  -- SnapMaxAbsErr
  ⟨0x3601, 0x3601, 0x05, 0x05, .u32, .ro, 0xFFFFFFFF, .val 0⟩,  -- SnapSatCount
  ⟨0x3601, 0x3601, 0x06, 0x06, .u32, .ro, 0xFFFFFFFF, .val 0⟩,  -- SnapNonFiniteCount
  ⟨0x3601, 0x3601, 0x07, 0x07, .u32, .ro, 0xFFFFFFFF, .val 0⟩,  -- SnapZeroScaleCount
  ⟨0x3601, 0x3601, 0x08, 0x08, .u64, .ro, 0xFFFFFFFFFFFFFFFF, .val 0⟩,  -- SnapLastUpdate
  ⟨0x3602, 0x3602, 0x00, 0x00, .u8, .const, 0xFF, .val 0x01⟩,  -- HighestSubindex
  ⟨0x3602, 0x3602, 0x01, 0x01, .dom, .ro, 0x0, .val 0⟩]  -- StatDump

/-- The rows whose index begins with 0x40. -/
def rows40 : List Row := [
  ⟨0x4000, 0x4000, 0x00, 0x00, .u8, .const, 0xFF, .val 0x09⟩,  -- HighestSubindex
  ⟨0x4000, 0x4000, 0x01, 0x01, .u8, .const, 0xFF, .val 48⟩,  -- AddressBits
  ⟨0x4000, 0x4000, 0x02, 0x02, .u32, .const, 0xFFFFFFFF, .val 0x00100000⟩,  -- LocalBytes
  ⟨0x4000, 0x4000, 0x03, 0x03, .u8, .const, 0xFF, .val 32⟩,  -- LocalBanks
  ⟨0x4000, 0x4000, 0x04, 0x04, .u32, .const, 0xFFFFFFFF, .val 0x04000000⟩,  -- StateStoreBytes
  ⟨0x4000, 0x4000, 0x05, 0x05, .u32, .const, 0xFFFFFFFF, .val 0x00040000⟩,  -- StateGranuleBytes
  ⟨0x4000, 0x4000, 0x06, 0x06, .u16, .const, 0xFFFF, .val 256⟩,  -- BondedChannels
  ⟨0x4000, 0x4000, 0x07, 0x07, .u32, .const, 0xFFFFFFFF, .val 0x00800000⟩,  -- WayBytes
  ⟨0x4000, 0x4000, 0x08, 0x08, .u32, .const, 0xFFFFFFFF, .val 0x00010000⟩,  -- WeightPageBytes
  ⟨0x4000, 0x4000, 0x09, 0x09, .u32, .const, 0xFFFFFFFF, .val 0x00100000⟩,  -- ChannelReservedBytes
  ⟨0x4001, 0x4001, 0x00, 0x00, .u8, .const, 0xFF, .val 0x0C⟩,  -- HighestSubindex
  ⟨0x4001, 0x4001, 0x01, 0x01, .u32, .w1c, 0x7FF, .val 0⟩,  -- MemFlags
  ⟨0x4001, 0x4001, 0x02, 0x0C, .u32, .ro, 0xFFFFFFFF, .val 0⟩,  -- MemEventCount
  ⟨0x4002, 0x4002, 0x00, 0x00, .u8, .const, 0xFF, .val 0x03⟩,  -- HighestSubindex
  ⟨0x4002, 0x4002, 0x01, 0x01, .u8, .rws, 0xFF, .val 24⟩,  -- ScrubPeriodHours
  ⟨0x4002, 0x4002, 0x02, 0x02, .u8, .rws, 0xFF, .val 8⟩,  -- SoftRepairThreshold
  ⟨0x4002, 0x4002, 0x03, 0x03, .bool, .rws, 0x1, .val 1⟩,  -- SoftRepairEnable
  ⟨0x4010, 0x4010, 0x01, 0x80, .u64, .ro, 0xFFFFFFFFFFFFFFFF, .val 0⟩,  -- WindowBytes
  ⟨0x4011, 0x4011, 0x01, 0x80, .u32, .ro, 0xFFFFFFFF, .val 0⟩,  -- WeightFrames
  ⟨0x4012, 0x4012, 0x01, 0x80, .u32, .ro, 0xFFFFFFFF, .val 0⟩,  -- PinnedFrames
  ⟨0x4013, 0x4013, 0x01, 0x80, .u64, .ro, 0xFFFFFFFFFFFFFFFF, .val 0⟩,  -- MigrationCount
  ⟨0x4014, 0x4014, 0x01, 0x80, .u64, .ro, 0xFFFFFFFFFFFFFFFF, .val 0⟩,  -- DemandWaitMicros
  ⟨0x4015, 0x4015, 0x01, 0x80, .u32, .ro, 0xFFFFFFFF, .val 0⟩,  -- HintDroppedCount
  ⟨0x4016, 0x4016, 0x01, 0x80, .u32, .rws, 0x1FFFF, .val 0⟩,  -- HostAddrHigh
  ⟨0x4017, 0x4017, 0x01, 0x80, .u32, .ro, 0xFFFFFFFF, .val 0⟩]  -- StateSliceBytes

/-- The rows whose index begins with 0x41. -/
def rows41 : List Row := [
  ⟨0x4100, 0x4101, 0x01, 0x80, .u32, .ro, 0xFFFFFFFF, .val 0⟩,  -- ChannelState
  ⟨0x4110, 0x4111, 0x01, 0x80, .u32, .ro, 0xFFFFFFFF, .val 0⟩,  -- ChannelCorrected
  ⟨0x4120, 0x4121, 0x01, 0x80, .u32, .ro, 0xFFFFFFFF, .val 0⟩,  -- ChannelUncorrected
  ⟨0x4130, 0x4131, 0x01, 0x80, .u64, .ro, 0xFFFFFFFFFFFFFFFF, .val 0⟩]  -- ChannelLastScrub

/-- The rows whose index begins with 0x42. -/
def rows42 : List Row := [
  ⟨0x4200, 0x4203, 0x01, 0x80, .u32, .ro, 0xFFFFFFFF, .val 0⟩,  -- LocalCorrected
  ⟨0x4210, 0x4213, 0x01, 0x80, .u32, .ro, 0xFFFFFFFF, .val 0⟩]  -- LocalUncorrected

/-- The rows whose index begins with 0x43. -/
def rows43 : List Row := [
  ⟨0x4300, 0x4300, 0x00, 0x00, .u8, .const, 0xFF, .val 0x02⟩,  -- HighestSubindex
  ⟨0x4300, 0x4300, 0x01, 0x01, .u32, .ro, 0xFFFFFFFF, .val 0⟩,  -- StateCorrected
  ⟨0x4300, 0x4300, 0x02, 0x02, .u32, .ro, 0xFFFFFFFF, .val 0⟩]  -- StateUncorrected

/-- The rows whose index begins with 0x44. -/
def rows44 : List Row := [
  ⟨0x4400, 0x4400, 0x00, 0x00, .u8, .const, 0xFF, .val 0x0A⟩,  -- HighestSubindex
  ⟨0x4400, 0x4400, 0x01, 0x01, .u64, .const, 0xFFFFFFFFFFFFFFFF, .perDevice⟩,  -- RawBytes
  ⟨0x4400, 0x4400, 0x02, 0x02, .u8, .const, 0xFF, .perDevice⟩,  -- Dies
  ⟨0x4400, 0x4400, 0x03, 0x03, .u8, .const, 0xFF, .val 8⟩,  -- NandChannels
  ⟨0x4400, 0x4400, 0x04, 0x04, .u16, .const, 0xFFFF, .val 2480⟩,  -- BlocksPerDie
  ⟨0x4400, 0x4400, 0x05, 0x05, .u32, .const, 0xFFFFFFFF, .val 0x00001000⟩,  -- ChunkBytes
  ⟨0x4400, 0x4400, 0x06, 0x06, .u8, .const, 0xFF, .val 17⟩,  -- StripeDies
  ⟨0x4400, 0x4400, 0x07, 0x07, .u16, .const, 0xFFFF, .val 2276⟩,  -- SlotNanos
  ⟨0x4400, 0x4400, 0x08, 0x08, .u16, .const, 0xFFFF, .val 512⟩,  -- WheelSlots
  ⟨0x4400, 0x4400, 0x09, 0x09, .u16, .const, 0xFFFF, .val 3000⟩,  -- RatedPeCycles
  ⟨0x4400, 0x4400, 0x0A, 0x0A, .u16, .const, 0xFFFF, .val 256⟩,  -- ModelSlots
  ⟨0x4401, 0x4401, 0x00, 0x00, .u8, .const, 0xFF, .val 0x0D⟩,  -- HighestSubindex
  ⟨0x4401, 0x4401, 0x01, 0x01, .u32, .w1c, 0xFFF, .val 0⟩,  -- BedrockFlags
  ⟨0x4401, 0x4401, 0x02, 0x0D, .u32, .ro, 0xFFFFFFFF, .val 0⟩,  -- BedrockEventCount
  ⟨0x4402, 0x4402, 0x00, 0x00, .u8, .const, 0xFF, .val 0x05⟩,  -- HighestSubindex
  ⟨0x4402, 0x4402, 0x01, 0x01, .u32, .rws, 0xFFFFFFFF, .val 60000⟩,  -- RelocateThreshold
  ⟨0x4402, 0x4402, 0x02, 0x02, .u16, .rws, 0xFFFF, .val 336⟩,  -- RefreshAgeHours
  ⟨0x4402, 0x4402, 0x03, 0x03, .u16, .rws, 0xFFFF, .val 40⟩,  -- RefreshErrorThreshold
  ⟨0x4402, 0x4402, 0x04, 0x04, .u8, .rws, 0xFF, .val 25⟩,  -- SpareLowPercent
  ⟨0x4402, 0x4402, 0x05, 0x05, .u8, .rws, 0xFF, .val 7⟩,  -- PatrolDays
  ⟨0x4403, 0x4403, 0x00, 0x00, .u8, .const, 0xFF, .val 0x0C⟩,  -- HighestSubindex
  ⟨0x4403, 0x4403, 0x01, 0x01, .u64, .ro, 0xFFFFFFFFFFFFFFFF, .val 0⟩,  -- InstalledBytes
  ⟨0x4403, 0x4403, 0x02, 0x02, .u64, .ro, 0xFFFFFFFFFFFFFFFF, .perDevice⟩,  -- FreeBytes
  ⟨0x4403, 0x4403, 0x03, 0x03, .u32, .ro, 0xFFFFFFFF, .perDevice⟩,  -- SpareBlocks
  ⟨0x4403, 0x4403, 0x04, 0x04, .u32, .ro, 0xFFFFFFFF, .val 0⟩,  -- RetiredBlocks
  ⟨0x4403, 0x4403, 0x05, 0x05, .u16, .ro, 0xFFFF, .perDevice⟩,  -- AveragePe
  ⟨0x4403, 0x4403, 0x06, 0x06, .u16, .ro, 0xFFFF, .perDevice⟩,  -- MaxPe
  ⟨0x4403, 0x4403, 0x07, 0x07, .u64, .ro, 0xFFFFFFFFFFFFFFFF, .val 0⟩,  -- RetryReads
  ⟨0x4403, 0x4403, 0x08, 0x08, .u64, .ro, 0xFFFFFFFFFFFFFFFF, .val 0⟩,  -- SoftDecodes
  ⟨0x4403, 0x4403, 0x09, 0x09, .u32, .ro, 0xFFFFFFFF, .val 0⟩,  -- LostPages
  ⟨0x4403, 0x4403, 0x0A, 0x0A, .u32, .ro, 0xFFFFFFFF, .val 0⟩,  -- OldestAgeHours
  ⟨0x4403, 0x4403, 0x0B, 0x0B, .u16, .ro, 0xFFFF, .val 512⟩,  -- MaintenanceSlots
  ⟨0x4403, 0x4403, 0x0C, 0x0C, .u16, .ro, 0xFFFF, .val 4000⟩,  -- InstallRateMBps
  ⟨0x4404, 0x4404, 0x00, 0x00, .u8, .const, 0xFF, .val 0x50⟩,  -- HighestSubindex
  ⟨0x4404, 0x4404, 0x01, 0x50, .u8, .ro, 0xFF, .perDevice⟩,  -- DieState
  ⟨0x4410, 0x4410, 0x01, 0x80, .u16, .rws, 0xFFFF, .val 0⟩,  -- BedrockSlots
  ⟨0x4411, 0x4411, 0x01, 0x80, .u16, .ro, 0xFFFF, .val 0⟩,  -- SlotMaxGap
  ⟨0x4412, 0x4412, 0x01, 0x80, .u64, .ro, 0xFFFFFFFFFFFFFFFF, .val 0⟩,  -- BedrockPagesRead
  ⟨0x4413, 0x4413, 0x01, 0x80, .u64, .ro, 0xFFFFFFFFFFFFFFFF, .val 0⟩,  -- RetryWaitMicros
  ⟨0x4420, 0x4421, 0x01, 0x80, .u32, .ro, 0xFFFFFFFF, .val 0⟩,  -- ModelState
  ⟨0x4430, 0x4431, 0x01, 0x80, .u64, .ro, 0xFFFFFFFFFFFFFFFF, .val 0⟩,  -- ModelBase
  ⟨0x4440, 0x4441, 0x01, 0x80, .u64, .ro, 0xFFFFFFFFFFFFFFFF, .val 0⟩,  -- ModelBytes
  ⟨0x4450, 0x4451, 0x01, 0x80, .u32, .ro, 0xFFFFFFFF, .val 0⟩,  -- ModelLostPages
  ⟨0x4460, 0x4461, 0x01, 0x80, .oct, .ro, 0x0, .val 0⟩,  -- ModelDigest
  ⟨0x4480, 0x4480, 0x00, 0x00, .u8, .const, 0xFF, .val 0x08⟩,  -- HighestSubindex
  ⟨0x4480, 0x4480, 0x01, 0x01, .u64, .rw, 0xFFFFFFFFFFFFFFFF, .val 0⟩,  -- InstallHostAddress
  ⟨0x4480, 0x4480, 0x02, 0x02, .u64, .rw, 0xFFFFFFFFFFFFFFFF, .val 0⟩,  -- InstallBytes
  ⟨0x4480, 0x4480, 0x03, 0x03, .u8, .wo, 0xFF, .val 0⟩,  -- InstallCommand
  ⟨0x4480, 0x4480, 0x04, 0x04, .u16, .rw, 0xFFFF, .val 0⟩,  -- InstallTarget
  ⟨0x4480, 0x4480, 0x05, 0x05, .u8, .ro, 0xFF, .val 0⟩,  -- InstallState
  ⟨0x4480, 0x4480, 0x06, 0x06, .u8, .ro, 0xFF, .val 0⟩,  -- InstallResult
  ⟨0x4480, 0x4480, 0x07, 0x07, .u64, .ro, 0xFFFFFFFFFFFFFFFF, .val 0⟩,  -- InstallDoneBytes
  ⟨0x4480, 0x4480, 0x08, 0x08, .u16, .ro, 0xFFFF, .val 0xFFFF⟩,  -- InstallModelSlot
  ⟨0x4490, 0x4490, 0x00, 0x00, .u8, .const, 0xFF, .val 0x01⟩,  -- HighestSubindex
  ⟨0x4490, 0x4490, 0x01, 0x01, .dom, .ro, 0x0, .val 0⟩]  -- LostPageList

/-- The rows whose index begins with 0x50. -/
def rows50 : List Row := [
  ⟨0x5000, 0x5000, 0x00, 0x00, .u8, .const, 0xFF, .val 0x09⟩,  -- HighestSubindex
  ⟨0x5000, 0x5000, 0x01, 0x01, .u16, .const, 0xFFFF, .val 16384⟩,  -- StreamContexts
  ⟨0x5000, 0x5000, 0x02, 0x02, .u8, .const, 0xFF, .val 64⟩,  -- StreamGroups
  ⟨0x5000, 0x5000, 0x03, 0x03, .u8, .const, 0xFF, .val 4⟩,  -- ChunkSlots
  ⟨0x5000, 0x5000, 0x04, 0x04, .u32, .const, 0xFFFFFFFF, .val 0x00008000⟩,  -- ChunkSlotBytes
  ⟨0x5000, 0x5000, 0x05, 0x05, .u16, .const, 0xFFFF, .val 32704⟩,  -- ChunkPayloadBytes
  ⟨0x5000, 0x5000, 0x06, 0x06, .u8, .const, 0xFF, .val 64⟩,  -- MaxLookFrames
  ⟨0x5000, 0x5000, 0x07, 0x07, .u8, .const, 0xFF, .val 16⟩,  -- MaxStepsInFlight
  ⟨0x5000, 0x5000, 0x08, 0x08, .u16, .const, 0xFFFF, .val 256⟩,  -- TicketsMax
  ⟨0x5000, 0x5000, 0x09, 0x09, .u8, .const, 0xFF, .val 20⟩,  -- AdmitCutMicros
  ⟨0x5001, 0x5001, 0x00, 0x00, .u8, .const, 0xFF, .val 0x0B⟩,  -- HighestSubindex
  ⟨0x5001, 0x5001, 0x01, 0x01, .u32, .w1c, 0x3FF, .val 0⟩,  -- StreamFlags
  ⟨0x5001, 0x5001, 0x02, 0x0B, .u32, .ro, 0xFFFFFFFF, .val 0⟩,  -- StreamEventCount
  ⟨0x5002, 0x5002, 0x00, 0x00, .u8, .const, 0xFF, .val 0x02⟩,  -- HighestSubindex
  ⟨0x5002, 0x5002, 0x01, 0x01, .u16, .rws, 0xFFFF, .val 60⟩,  -- TicketLifeSeconds
  ⟨0x5002, 0x5002, 0x02, 0x02, .u16, .ro, 0xFFFF, .val 0⟩,  -- TicketsOutstanding
  ⟨0x5010, 0x5010, 0x01, 0x80, .u16, .rws, 0xFFFF, .val 0⟩,  -- StreamBase
  ⟨0x5011, 0x5011, 0x01, 0x80, .u16, .rws, 0xFFFF, .val 0⟩]  -- StreamCount

/-- The rows whose index begins with 0x51. -/
def rows51 : List Row := [
  ⟨0x5100, 0x5100, 0x01, 0x40, .u8, .rws, 0xFF, .val 0xFF⟩,  -- GroupPartition
  ⟨0x5101, 0x5101, 0x01, 0x40, .u16, .rws, 0xFFFF, .val 0xFFFF⟩,  -- GroupModel
  ⟨0x5102, 0x5102, 0x01, 0x40, .u64, .rws, 0xFFFFFFFFFFFFFFFF, .val 0⟩,  -- GroupPlanId
  ⟨0x5103, 0x5103, 0x01, 0x40, .u32, .rws, 0xFFFFFFFF, .val 2000⟩,  -- GroupPeriodMicros
  ⟨0x5104, 0x5104, 0x01, 0x40, .u16, .rws, 0xFFFF, .val 0⟩,  -- GroupActiveMax
  ⟨0x5105, 0x5105, 0x01, 0x40, .u32, .ro, 0xFFFFFFFF, .val 0⟩,  -- GroupState
  ⟨0x5106, 0x5106, 0x01, 0x40, .u32, .ro, 0xFFFFFFFF, .val 0⟩,  -- GroupBerthBytes
  ⟨0x5107, 0x5107, 0x01, 0x40, .dom, .ro, 0x0, .val 0⟩,  -- GroupParams
  ⟨0x5108, 0x5108, 0x01, 0x40, .u64, .ro, 0xFFFFFFFFFFFFFFFF, .val 0⟩,  -- GroupSteps
  ⟨0x5109, 0x5109, 0x01, 0x40, .u32, .ro, 0xFFFFFFFF, .val 0⟩,  -- GroupPassOverCount
  ⟨0x510A, 0x510A, 0x01, 0x40, .u32, .ro, 0xFFFFFFFF, .val 0⟩,  -- GroupMaxAdmitMicros
  ⟨0x510B, 0x510B, 0x01, 0x40, .u32, .ro, 0xFFFFFFFF, .val 0⟩,  -- GroupLastStepMicros
  ⟨0x510C, 0x510C, 0x01, 0x40, .u64, .ro, 0xFFFFFFFFFFFFFFFF, .val 0⟩]  -- GroupSwapIns

/-- The rows whose index begins with 0x52. -/
def rows52 : List Row := [
  ⟨0x5200, 0x527F, 0x01, 0x80, .u32, .ro, 0xFFFFFFFF, .val 0⟩,  -- StreamState
  ⟨0x5280, 0x52FF, 0x01, 0x80, .u32, .ro, 0xFFFFFFFF, .val 0⟩]  -- StreamNextChunk

/-- The rows whose index begins with 0x53. -/
def rows53 : List Row := [
  ⟨0x5300, 0x537F, 0x01, 0x80, .u32, .ro, 0xFFFFFFFF, .val 0⟩,  -- StreamOverrunCount
  ⟨0x5380, 0x53FF, 0x01, 0x80, .u64, .ro, 0xFFFFFFFFFFFFFFFF, .val 0⟩]  -- StreamTag

/-- The rows whose index begins with 0x54. -/
def rows54 : List Row := [
  ⟨0x5400, 0x5400, 0x00, 0x00, .u8, .const, 0xFF, .val 0x02⟩,  -- HighestSubindex
  ⟨0x5400, 0x5400, 0x01, 0x01, .u16, .rw, 0xFFFF, .val 0⟩,  -- StreamStatSelect
  ⟨0x5400, 0x5400, 0x02, 0x02, .u8, .wo, 0xFF, .val 0⟩,  -- StreamStatCommand
  ⟨0x5401, 0x5401, 0x00, 0x00, .u8, .const, 0xFF, .val 0x08⟩,  -- HighestSubindex
  ⟨0x5401, 0x5401, 0x01, 0x01, .u64, .ro, 0xFFFFFFFFFFFFFFFF, .val 0⟩,  -- StreamSnap
  ⟨0x5401, 0x5401, 0x02, 0x02, .r64, .ro, 0xFFFFFFFFFFFFFFFF, .val 0⟩,  -- StreamSnap
  ⟨0x5401, 0x5401, 0x03, 0x03, .r64, .ro, 0xFFFFFFFFFFFFFFFF, .val 0⟩,  -- StreamSnap
  ⟨0x5401, 0x5401, 0x04, 0x04, .r32, .ro, 0xFFFFFFFF, .val 0⟩,  -- StreamSnap
  ⟨0x5401, 0x5401, 0x05, 0x05, .u32, .ro, 0xFFFFFFFF, .val 0⟩,  -- StreamSnap
  ⟨0x5401, 0x5401, 0x06, 0x06, .u32, .ro, 0xFFFFFFFF, .val 0⟩,  -- StreamSnap
  ⟨0x5401, 0x5401, 0x07, 0x07, .u32, .ro, 0xFFFFFFFF, .val 0⟩,  -- StreamSnap
  ⟨0x5401, 0x5401, 0x08, 0x08, .u64, .ro, 0xFFFFFFFFFFFFFFFF, .val 0⟩]  -- StreamSnap

/-- The rows whose index begins with 0x55. -/
def rows55 : List Row := [
  ⟨0x5500, 0x5500, 0x00, 0x00, .u8, .const, 0xFF, .val 0x02⟩,  -- HighestSubindex
  ⟨0x5500, 0x5500, 0x01, 0x02, .u32, .rws, 0xF013C, .val 0⟩,  -- TdmConfig
  ⟨0x5510, 0x5510, 0x01, 0x10, .u16, .rws, 0xFFFF, .val 0xFFFF⟩,  -- TdmChannelStream
  ⟨0x5511, 0x5511, 0x01, 0x10, .u16, .rws, 0xFFFF, .val 1600⟩,  -- TdmStartSamples
  ⟨0x5512, 0x5512, 0x01, 0x10, .u32, .ro, 0xFFFFFFFF, .val 0⟩,  -- TdmUnderrunSamples
  ⟨0x5513, 0x5513, 0x01, 0x10, .u32, .ro, 0xFFFFFFFF, .val 0⟩]  -- TdmDroppedSamples

/-- The rows whose index begins with 0x58. -/
def rows58 : List Row := [
  ⟨0x5800, 0x5800, 0x00, 0x00, .u8, .const, 0xFF, .val 0x08⟩,  -- HighestSubindex
  ⟨0x5800, 0x5800, 0x01, 0x01, .u16, .const, 0xFFFF, .val 4096⟩,  -- SeqContexts
  ⟨0x5800, 0x5800, 0x02, 0x02, .u32, .const, 0xFFFFFFFF, .val 262144⟩,  -- MaxSeqTokens
  ⟨0x5800, 0x5800, 0x03, 0x03, .u32, .const, 0xFFFFFFFF, .val 0x00008000⟩,  -- KvPageBytes
  ⟨0x5800, 0x5800, 0x04, 0x04, .u8, .const, 0xFF, .val 32⟩,  -- LabEntries
  ⟨0x5800, 0x5800, 0x05, 0x05, .u16, .const, 0xFFFF, .val 0x01E0⟩,  -- HeadSizesInt8
  ⟨0x5800, 0x5800, 0x06, 0x06, .u16, .const, 0xFFFF, .val 0x01C0⟩,  -- HeadSizesInt4
  ⟨0x5800, 0x5800, 0x07, 0x07, .u32, .const, 0xFFFFFFFF, .val 2097152⟩,  -- MaxRegionPages
  ⟨0x5800, 0x5800, 0x08, 0x08, .r32, .const, 0xFFFFFFFF, .val 0xFB800000⟩,  -- MaskValue
  ⟨0x5801, 0x5801, 0x00, 0x00, .u8, .const, 0xFF, .val 0x06⟩,  -- HighestSubindex
  ⟨0x5801, 0x5801, 0x01, 0x01, .u32, .w1c, 0x1F, .val 0⟩,  -- SeqFlags
  ⟨0x5801, 0x5801, 0x02, 0x06, .u32, .ro, 0xFFFFFFFF, .val 0⟩,  -- SeqEventCount
  ⟨0x5810, 0x5810, 0x01, 0x80, .u16, .rws, 0xFFFF, .val 0⟩,  -- SeqBase
  ⟨0x5811, 0x5811, 0x01, 0x80, .u16, .rws, 0xFFFF, .val 0⟩,  -- SeqCount
  ⟨0x5812, 0x5812, 0x01, 0x80, .u32, .rws, 0xFFFFFFFF, .val 0⟩,  -- KvPoolFrames
  ⟨0x5813, 0x5813, 0x01, 0x80, .u32, .ro, 0xFFFFFFFF, .val 0⟩,  -- KvPagesFree
  ⟨0x5814, 0x5814, 0x01, 0x80, .u32, .ro, 0xFFFFFFFF, .val 0⟩,  -- KvPagesShared
  ⟨0x5815, 0x5815, 0x01, 0x80, .u64, .ro, 0xFFFFFFFFFFFFFFFF, .val 0⟩,  -- CowPages
  ⟨0x5816, 0x5816, 0x01, 0x80, .u64, .ro, 0xFFFFFFFFFFFFFFFF, .val 0⟩,  -- AttendSteps
  ⟨0x5817, 0x5817, 0x01, 0x80, .u32, .ro, 0xFFFFFFFF, .val 0⟩]  -- LaneRejects

/-- The rows whose index begins with 0x59. -/
def rows59 : List Row := [
  ⟨0x5900, 0x591F, 0x01, 0x80, .u32, .ro, 0xFFFFFFFF, .val 0⟩,  -- SeqState
  ⟨0x5920, 0x593F, 0x01, 0x80, .u32, .ro, 0xFFFFFFFF, .val 0⟩,  -- SeqLength
  ⟨0x5940, 0x595F, 0x01, 0x80, .u32, .ro, 0xFFFFFFFF, .val 0⟩,  -- SeqMaxTokens
  ⟨0x5960, 0x597F, 0x01, 0x80, .u32, .ro, 0xFFFFFFFF, .val 0⟩,  -- SeqPoolPages
  ⟨0x5980, 0x599F, 0x01, 0x80, .u64, .ro, 0xFFFFFFFFFFFFFFFF, .val 0⟩,  -- SeqTag
  ⟨0x59A0, 0x59BF, 0x01, 0x80, .u32, .ro, 0xFFFFFFFF, .val 0⟩]  -- SeqLayout

/-- The rows whose index begins with 0x5A. -/
def rows5A : List Row := [
  ⟨0x5A00, 0x5A03, 0x01, 0x80, .u64, .ro, 0xFFFFFFFFFFFFFFFF, .val 0⟩]  -- WalkerLabMisses

/-- The rows whose index begins with 0x60. -/
def rows60 : List Row := [
  ⟨0x6000, 0x6000, 0x00, 0x00, .u8, .const, 0xFF, .val 0x06⟩,  -- HighestSubindex
  ⟨0x6000, 0x6000, 0x01, 0x01, .u8, .const, 0xFF, .val 4⟩,  -- CsiPorts
  ⟨0x6000, 0x6000, 0x02, 0x02, .u8, .const, 0xFF, .val 16⟩,  -- Sensors
  ⟨0x6000, 0x6000, 0x03, 0x03, .u8, .const, 0xFF, .val 8⟩,  -- Pipelines
  ⟨0x6000, 0x6000, 0x04, 0x04, .u16, .const, 0xFFFF, .val 8192⟩,  -- MaxWidth
  ⟨0x6000, 0x6000, 0x05, 0x05, .u16, .const, 0xFFFF, .val 600⟩,  -- PipeMpixRate
  ⟨0x6000, 0x6000, 0x06, 0x06, .u16, .const, 0xFFFF, .val 6464⟩,  -- StatsRecordBytes
  ⟨0x6001, 0x6001, 0x00, 0x00, .u8, .const, 0xFF, .val 0x0B⟩,  -- HighestSubindex
  ⟨0x6001, 0x6001, 0x01, 0x01, .u32, .w1c, 0x3FF, .val 0⟩,  -- ImageFlags
  ⟨0x6001, 0x6001, 0x02, 0x0B, .u32, .ro, 0xFFFFFFFF, .val 0⟩,  -- ImageEventCount
  ⟨0x6002, 0x6002, 0x00, 0x00, .u8, .const, 0xFF, .val 0x01⟩,  -- HighestSubindex
  ⟨0x6002, 0x6002, 0x01, 0x01, .u8, .rws, 0xFF, .val 6⟩,  -- WatchFrameDivider
  ⟨0x6010, 0x6010, 0x01, 0x04, .u32, .rws, 0xFF0007, .val 0⟩,  -- PortConfig
  ⟨0x6011, 0x6011, 0x01, 0x04, .u32, .ro, 0xFFFFFFFF, .val 0⟩,  -- PortErrorCount
  ⟨0x6020, 0x6020, 0x01, 0x10, .u32, .rws, 0xCFE0F0FF, .val 0⟩,  -- SensorBinding
  ⟨0x6021, 0x6021, 0x01, 0x10, .u16, .rws, 0xFFFF, .val 0⟩,  -- ExposureDataTypes
  ⟨0x6022, 0x6022, 0x01, 0x10, .u16, .rws, 0xFFFF, .val 0⟩,  -- StaggerLines
  ⟨0x6023, 0x6023, 0x01, 0x10, .u32, .rws, 0xFFFFFFFF, .val 0⟩,  -- SensorSize
  ⟨0x6024, 0x6024, 0x01, 0x10, .u8, .rws, 0xFF, .val 0xFF⟩,  -- SensorPartition
  ⟨0x6025, 0x6025, 0x01, 0x10, .u16, .rws, 0xE07F, .val 0⟩,  -- SensorI2c
  ⟨0x6026, 0x6026, 0x01, 0x10, .u8, .rws, 0xFF, .val 2⟩,  -- SensorDelayFrames
  ⟨0x6027, 0x6027, 0x01, 0x10, .u32, .rws, 0xFFFFFFFF, .val 100000⟩,  -- FrameTimeoutMicros
  ⟨0x6028, 0x6028, 0x01, 0x10, .u64, .rws, 0xFFFFFFFFFFFFFFFF, .val 0⟩,  -- RawBase
  ⟨0x6029, 0x6029, 0x01, 0x10, .u8, .rws, 0xFF, .val 0⟩,  -- RawSlots
  ⟨0x602A, 0x602A, 0x01, 0x10, .u32, .rws, 0xFFFFFFFF, .val 0⟩,  -- RawSlotBytes
  ⟨0x6030, 0x6033, 0x01, 0x10, .u32, .rws, 0xFFFFFF, .val 0⟩,  -- BlackLevel
  ⟨0x6040, 0x6040, 0x01, 0x10, .dom, .rws, 0x0, .val 0⟩,  -- LinTable
  ⟨0x6041, 0x6041, 0x01, 0x10, .dom, .rws, 0x0, .val 0⟩,  -- DefectList
  ⟨0x6042, 0x6042, 0x01, 0x10, .u32, .rws, 0xFFFFFFCF, .val 0⟩,  -- DefectConfig
  ⟨0x6050, 0x6050, 0x01, 0x10, .dom, .wo, 0x0, .val 0⟩,  -- SensorSettings
  ⟨0x6051, 0x6051, 0x01, 0x10, .u32, .ro, 0xFFFFFFFF, .val 0⟩,  -- SettingsGeneration
  ⟨0x6052, 0x6052, 0x01, 0x10, .u32, .ro, 0xFFFFFFFF, .val 0⟩,  -- AppliedGeneration
  ⟨0x6053, 0x6053, 0x01, 0x10, .u32, .ro, 0xFFFFFFFF, .val 0⟩,  -- SensorFrameSeq
  ⟨0x6054, 0x6054, 0x01, 0x10, .u32, .ro, 0xFFFFFFFF, .val 0⟩,  -- SettingsSuperseded
  ⟨0x6060, 0x6060, 0x01, 0x10, .u64, .ro, 0xFFFFFFFFFFFFFFFF, .val 0⟩,  -- SensorFramesIn
  ⟨0x6061, 0x6061, 0x01, 0x10, .u32, .ro, 0xFFFFFFFF, .val 0⟩,  -- SensorFramesShort
  ⟨0x6062, 0x6062, 0x01, 0x10, .u32, .ro, 0xFFFFFFFF, .val 0⟩,  -- SensorFramesLong
  ⟨0x6063, 0x6063, 0x01, 0x10, .u64, .ro, 0xFFFFFFFFFFFFFFFF, .val 0⟩,  -- SensorLinesDropped
  ⟨0x6064, 0x6064, 0x01, 0x10, .u32, .ro, 0xFFFFFFFF, .val 0⟩]  -- SensorPacketsDropped

/-- The rows whose index begins with 0x61. -/
def rows61 : List Row := [
  ⟨0x6100, 0x6100, 0x01, 0x08, .u8, .rws, 0xFF, .val 0xFF⟩,  -- PipeSource
  ⟨0x6101, 0x6101, 0x01, 0x08, .u8, .rws, 0xFF, .val 0xFF⟩,  -- PipePartition
  ⟨0x6102, 0x6102, 0x01, 0x08, .u64, .rws, 0xFFFFFFFFFFFFFFFF, .val 0⟩,  -- PipeCrop
  ⟨0x6103, 0x6103, 0x01, 0x08, .u32, .rws, 0xFFFFFFFF, .val 0⟩,  -- PipeOutSize
  ⟨0x6104, 0x6104, 0x01, 0x08, .u32, .rws, 0xF0F333C, .val 0⟩,  -- PipeControl
  ⟨0x6105, 0x6105, 0x01, 0x08, .u64, .rws, 0xFFFFFFFFFFFFFFFF, .val 0⟩,  -- PipeBufferBase
  ⟨0x6106, 0x6106, 0x01, 0x08, .u32, .rws, 0xFFFFFFFF, .val 0⟩,  -- PipeBufferStride
  ⟨0x6107, 0x6107, 0x01, 0x08, .u32, .rws, 0xFFFFFFFF, .val 0⟩,  -- PipePlaneStride
  ⟨0x6108, 0x6108, 0x01, 0x08, .u32, .rws, 0xFFFFFFFF, .val 0⟩,  -- PipeLineStride
  ⟨0x6109, 0x6109, 0x01, 0x08, .u8, .rws, 0xFF, .val 2⟩,  -- PipeBufferCount
  ⟨0x610A, 0x610A, 0x01, 0x08, .u64, .rws, 0xFFFFFFFFFFFFFFFF, .val 0⟩,  -- PipeStatsBase
  ⟨0x610B, 0x610B, 0x01, 0x08, .u64, .rws, 0xFFFFFFFFFFFFFFFF, .val 0⟩,  -- PipeNoticeAddr
  ⟨0x610C, 0x610C, 0x01, 0x08, .u16, .rws, 0xFFFF, .val 64⟩,  -- PipeNoticeCount
  ⟨0x610D, 0x610D, 0x01, 0x08, .r32, .rws, 0xFFFFFFFF, .val 0x33800000⟩,  -- PipeInvWhite
  ⟨0x610E, 0x610E, 0x01, 0x08, .dom, .rws, 0x0, .val 0⟩,  -- PipeColourMatrix
  ⟨0x610F, 0x610F, 0x01, 0x08, .dom, .rws, 0x0, .val 0⟩,  -- PipeToneCurve
  ⟨0x6110, 0x6110, 0x01, 0x08, .u16, .w1c, 0xFFFF, .val 0⟩,  -- PipeBufferLock
  ⟨0x6111, 0x6111, 0x01, 0x08, .u64, .ro, 0xFFFFFFFFFFFFFFFF, .val 0⟩,  -- PipeFramesOut
  ⟨0x6112, 0x6112, 0x01, 0x08, .u32, .ro, 0xFFFFFFFF, .val 0⟩,  -- PipeFramesDropped
  ⟨0x6113, 0x6113, 0x01, 0x08, .u32, .ro, 0xFFFFFFFF, .val 0⟩]  -- PipeNoticeSeq

/-- The rows whose index begins with 0x63. -/
def rows63 : List Row := [
  ⟨0x6300, 0x6300, 0x01, 0x04, .u8, .rws, 0xFF, .val 1⟩,  -- I2cSpeed
  ⟨0x6310, 0x6310, 0x01, 0x04, .dom, .rw, 0x0, .val 0⟩]  -- I2cTransfer

/-- The rows whose index begins with 0x64. -/
def rows64 : List Row := [
  ⟨0x6400, 0x6400, 0x00, 0x00, .u8, .const, 0xFF, .val 0x07⟩,  -- HighestSubindex
  ⟨0x6400, 0x6400, 0x01, 0x01, .u8, .const, 0xFF, .val 2⟩,  -- EdgeEngines
  ⟨0x6400, 0x6400, 0x02, 0x02, .u16, .const, 0xFFFF, .val 1024⟩,  -- EdgeMacsPerCycle
  ⟨0x6400, 0x6400, 0x03, 0x03, .u16, .const, 0xFFFF, .val 600⟩,  -- EdgeClockMHz
  ⟨0x6400, 0x6400, 0x04, 0x04, .u32, .const, 0xFFFFFFFF, .val 0x00020000⟩,  -- EdgeWeightBytes
  ⟨0x6400, 0x6400, 0x05, 0x05, .u8, .const, 0xFF, .val 16⟩,  -- RowReadyCounters
  ⟨0x6400, 0x6400, 0x06, 0x06, .u8, .const, 0xFF, .val 32⟩,  -- MaxKernel
  ⟨0x6400, 0x6400, 0x07, 0x07, .u8, .const, 0xFF, .val 16⟩,  -- MaxStride
  ⟨0x6401, 0x6401, 0x00, 0x00, .u8, .const, 0xFF, .val 0x06⟩,  -- HighestSubindex
  ⟨0x6401, 0x6401, 0x01, 0x01, .u32, .w1c, 0x1F, .val 0⟩,  -- ConvFlags
  ⟨0x6401, 0x6401, 0x02, 0x06, .u32, .ro, 0xFFFFFFFF, .val 0⟩,  -- ConvEventCount
  ⟨0x6410, 0x6413, 0x01, 0x80, .u64, .ro, 0xFFFFFFFFFFFFFFFF, .val 0⟩]  -- RowWaitCycles

/-- The rows whose index begins with 0x65. -/
def rows65 : List Row := [
  ⟨0x6500, 0x6500, 0x01, 0x02, .u8, .rws, 0xFF, .val 0xFF⟩,  -- EdgeSource
  ⟨0x6501, 0x6501, 0x01, 0x02, .u8, .rws, 0xFF, .val 0xFF⟩,  -- EdgePartition
  ⟨0x6502, 0x6502, 0x01, 0x02, .u64, .rws, 0xFFFFFFFFFFFFFFFF, .val 0⟩,  -- EdgeProgramAddr
  ⟨0x6503, 0x6503, 0x01, 0x02, .u64, .rws, 0xFFFFFFFFFFFFFFFF, .val 0⟩,  -- EdgeOutBase
  ⟨0x6504, 0x6504, 0x01, 0x02, .u32, .rws, 0xFFFFFFFF, .val 0⟩,  -- EdgeOutBufferStride
  ⟨0x6505, 0x6505, 0x01, 0x02, .u32, .rws, 0xFFFFFFFF, .val 0⟩,  -- EdgeOutPlaneStride
  ⟨0x6506, 0x6506, 0x01, 0x02, .u32, .rws, 0xFFFFFFFF, .val 0⟩,  -- EdgeOutLineStride
  ⟨0x6507, 0x6507, 0x01, 0x02, .u8, .rws, 0xFF, .val 2⟩,  -- EdgeOutBuffers
  ⟨0x6508, 0x6508, 0x01, 0x02, .u64, .rws, 0xFFFFFFFFFFFFFFFF, .val 0⟩,  -- EdgeNoticeAddr
  ⟨0x6509, 0x6509, 0x01, 0x02, .u16, .rws, 0xFFFF, .val 64⟩,  -- EdgeNoticeCount
  ⟨0x650A, 0x650A, 0x01, 0x02, .u32, .rws, 0xF000010, .val 0⟩,  -- EdgeControl
  ⟨0x650B, 0x650B, 0x01, 0x02, .u64, .ro, 0xFFFFFFFFFFFFFFFF, .val 0⟩,  -- EdgeRuns
  ⟨0x650C, 0x650C, 0x01, 0x02, .u32, .ro, 0xFFFFFFFF, .val 0⟩,  -- EdgeFramesSkipped
  ⟨0x650D, 0x650D, 0x01, 0x02, .u32, .ro, 0xFFFFFFFF, .val 0⟩,  -- EdgeLastMicros
  ⟨0x650E, 0x650E, 0x01, 0x02, .u32, .ro, 0xFFFFFFFF, .val 0⟩]  -- EdgeNoticeSeq

/-- The rows whose index begins with 0x68. -/
def rows68 : List Row := [
  ⟨0x6800, 0x6800, 0x00, 0x00, .u8, .const, 0xFF, .val 0x08⟩,  -- HighestSubindex
  ⟨0x6800, 0x6800, 0x01, 0x01, .u8, .const, 0xFF, .val 4⟩,  -- PdmPorts
  ⟨0x6800, 0x6800, 0x02, 0x02, .u8, .const, 0xFF, .val 32⟩,  -- Microphones
  ⟨0x6800, 0x6800, 0x03, 0x03, .u8, .const, 0xFF, .val 8⟩,  -- ListenChannelsMax
  ⟨0x6800, 0x6800, 0x04, 0x04, .u32, .const, 0xFFFFFFFF, .val 32768⟩,  -- RingSamples
  ⟨0x6800, 0x6800, 0x05, 0x05, .u32, .const, 0xFFFFFFFF, .val 32000⟩,  -- PrerollSamples
  ⟨0x6800, 0x6800, 0x06, 0x06, .u32, .const, 0xFFFFFFFF, .val 0x00100000⟩,  -- RoostBytes
  ⟨0x6800, 0x6800, 0x07, 0x07, .u16, .const, 0xFFFF, .val 200⟩,  -- RoostClockMaxMHz
  ⟨0x6800, 0x6800, 0x08, 0x08, .u8, .const, 0xFF, .val 8⟩,  -- Feeds
  ⟨0x6801, 0x6801, 0x00, 0x00, .u8, .const, 0xFF, .val 0x0B⟩,  -- HighestSubindex
  ⟨0x6801, 0x6801, 0x01, 0x01, .u32, .w1c, 0x3FF, .val 0⟩,  -- MicFlags
  ⟨0x6801, 0x6801, 0x02, 0x0B, .u32, .ro, 0xFFFFFFFF, .val 0⟩,  -- MicEventCount
  ⟨0x6802, 0x6802, 0x00, 0x00, .u8, .const, 0xFF, .val 0x02⟩,  -- HighestSubindex
  ⟨0x6802, 0x6802, 0x01, 0x01, .u16, .rws, 0xFFFF, .val 100⟩,  -- RoostClockMHz
  ⟨0x6802, 0x6802, 0x02, 0x02, .u32, .rws, 0xFFFFFFFF, .val 10000⟩,  -- MicSettleMicros
  ⟨0x6810, 0x6810, 0x01, 0x04, .u32, .rws, 0xFF0303, .val 0⟩,  -- PdmPortConfig
  ⟨0x6820, 0x6820, 0x01, 0x20, .u16, .rws, 0xFFFF, .val 0x0100⟩,  -- MicGain
  ⟨0x6830, 0x6830, 0x01, 0x08, .u8, .rws, 0xFF, .val 0xFF⟩,  -- ListenMic
  ⟨0x6831, 0x6831, 0x00, 0x00, .u8, .const, 0xFF, .val 0x03⟩,  -- HighestSubindex
  ⟨0x6831, 0x6831, 0x01, 0x01, .u64, .ro, 0xFFFFFFFFFFFFFFFF, .val 0⟩,  -- RingSampleIndex
  ⟨0x6831, 0x6831, 0x02, 0x02, .u64, .ro, 0xFFFFFFFFFFFFFFFF, .val 0⟩,  -- RingStartIndex
  ⟨0x6831, 0x6831, 0x03, 0x03, .dom, .ro, 0x0, .val 0⟩,  -- MarkLog
  ⟨0x6840, 0x6840, 0x00, 0x00, .u8, .const, 0xFF, .val 0x08⟩,  -- HighestSubindex
  ⟨0x6840, 0x6840, 0x01, 0x01, .u16, .rws, 0xFFFF, .val 0xFFFF⟩,  -- RoostModel
  ⟨0x6840, 0x6840, 0x02, 0x02, .u64, .rws, 0xFFFFFFFFFFFFFFFF, .val 0⟩,  -- RoostPlanId
  ⟨0x6840, 0x6840, 0x03, 0x03, .r32, .rws, 0xFFFFFFFF, .val 0x3F000000⟩,  -- Stage0Threshold
  ⟨0x6840, 0x6840, 0x04, 0x04, .u8, .rws, 0xFF, .val 3⟩,  -- Stage0HoldHops
  ⟨0x6840, 0x6840, 0x05, 0x05, .u16, .rws, 0xFFFF, .val 1000⟩,  -- Stage0RefractoryMs
  ⟨0x6840, 0x6840, 0x06, 0x06, .r32, .ro, 0xFFFFFFFF, .val 0⟩,  -- Stage0LastScore
  ⟨0x6840, 0x6840, 0x07, 0x07, .u8, .ro, 0xFF, .val 0⟩,  -- RoostState
  ⟨0x6840, 0x6840, 0x08, 0x08, .u8, .ro, 0xFF, .val 0⟩,  -- RoostLoadStatus
  ⟨0x6850, 0x6850, 0x00, 0x00, .u8, .const, 0xFF, .val 0x0C⟩,  -- HighestSubindex
  ⟨0x6850, 0x6850, 0x01, 0x01, .bool, .rws, 0x1, .val 0⟩,  -- CascadeEnable
  ⟨0x6850, 0x6850, 0x02, 0x02, .u8, .rws, 0xFF, .val 0xFF⟩,  -- Stage1Feed
  ⟨0x6850, 0x6850, 0x03, 0x03, .u32, .rws, 0xFFFFFFFF, .val 3000⟩,  -- Stage1WindowMs
  ⟨0x6850, 0x6850, 0x04, 0x04, .u16, .rws, 0xFFFF, .val 0xFFFF⟩,  -- Stage1HitFirst
  ⟨0x6850, 0x6850, 0x05, 0x05, .u16, .rws, 0xFFFF, .val 0xFFFF⟩,  -- Stage1HitLast
  ⟨0x6850, 0x6850, 0x06, 0x06, .u8, .rws, 0xFF, .val 0xFF⟩,  -- Stage2Feed
  ⟨0x6850, 0x6850, 0x07, 0x07, .u32, .rws, 0xFFFFFFFF, .val 10000⟩,  -- Stage2WindowMs
  ⟨0x6850, 0x6850, 0x08, 0x08, .u16, .rws, 0xFFFF, .val 0xFFFF⟩,  -- Stage2HitFirst
  ⟨0x6850, 0x6850, 0x09, 0x09, .u16, .rws, 0xFFFF, .val 0xFFFF⟩,  -- Stage2HitLast
  ⟨0x6850, 0x6850, 0x0A, 0x0A, .u32, .ro, 0xFFFFFFFF, .val 0⟩,  -- CascadeState
  ⟨0x6850, 0x6850, 0x0B, 0x0B, .u8, .wo, 0xFF, .val 0⟩,  -- CascadeCommand
  ⟨0x6850, 0x6850, 0x0C, 0x0C, .u64, .ro, 0xFFFFFFFFFFFFFFFF, .val 0⟩]  -- LastEventIndex

/-- The rows whose index begins with 0x69. -/
def rows69 : List Row := [
  ⟨0x6900, 0x6900, 0x01, 0x08, .u8, .rws, 0xFF, .val 0xFF⟩,  -- FeedPartition
  ⟨0x6901, 0x6901, 0x01, 0x08, .u16, .rws, 0xFFFF, .val 0⟩,  -- FeedStream
  ⟨0x6902, 0x6902, 0x01, 0x08, .u64, .rws, 0xFFFFFFFFFFFFFFFF, .val 0xFFFFFFFFFFFFFFFF⟩,  -- FeedMics
  ⟨0x6903, 0x6903, 0x01, 0x08, .u64, .rws, 0xFFFFFFFFFFFFFFFF, .val 0⟩,  -- FeedResultBase
  ⟨0x6904, 0x6904, 0x01, 0x08, .u16, .rws, 0xFFFF, .val 16⟩,  -- FeedResultSlots
  ⟨0x6905, 0x6905, 0x01, 0x08, .u8, .rws, 0x1, .val 0⟩,  -- FeedControl
  ⟨0x6906, 0x6906, 0x01, 0x08, .u8, .wo, 0xFF, .val 0⟩,  -- FeedCommand
  ⟨0x6907, 0x6907, 0x01, 0x08, .u8, .ro, 0xFF, .val 0⟩,  -- FeedState
  ⟨0x6908, 0x6908, 0x01, 0x08, .u64, .ro, 0xFFFFFFFFFFFFFFFF, .val 0⟩,  -- FeedStartIndex
  ⟨0x6909, 0x6909, 0x01, 0x08, .u64, .ro, 0xFFFFFFFFFFFFFFFF, .val 0⟩]  -- FeedChunks

/-- The rows whose index begins with 0x70. -/
def rows70 : List Row := [
  ⟨0x7000, 0x7000, 0x00, 0x00, .u8, .const, 0xFF, .val 0x04⟩,  -- HighestSubindex
  ⟨0x7000, 0x7000, 0x01, 0x01, .u8, .const, 0xFF, .val 128⟩,  -- Partitions
  ⟨0x7000, 0x7000, 0x02, 0x02, .u8, .const, 0xFF, .val 64⟩,  -- DescriptorSlots
  ⟨0x7000, 0x7000, 0x03, 0x03, .u8, .const, 0xFF, .val 128⟩,  -- DescriptorBytes
  ⟨0x7000, 0x7000, 0x04, 0x04, .u8, .const, 0xFF, .val 32⟩,  -- CompletionBytes
  ⟨0x7001, 0x7001, 0x00, 0x00, .u8, .const, 0xFF, .val 0x06⟩,  -- HighestSubindex
  ⟨0x7001, 0x7001, 0x01, 0x01, .u32, .w1c, 0x1F, .val 0⟩,  -- PartFlags
  ⟨0x7001, 0x7001, 0x02, 0x06, .u32, .ro, 0xFFFFFFFF, .val 0⟩,  -- PartEventCount
  ⟨0x7010, 0x7010, 0x01, 0x80, .bool, .rws, 0x1, .val 0⟩,  -- PartitionEnable
  ⟨0x7011, 0x7011, 0x01, 0x80, .u32, .rws, 0xF7F073F, .val 0⟩,  -- TileRect
  ⟨0x7012, 0x7012, 0x01, 0x80, .u8, .rws, 0xFF, .val 0⟩,  -- ChannelFirst
  ⟨0x7013, 0x7013, 0x01, 0x80, .u16, .rws, 0xFFFF, .val 0⟩,  -- ChannelCount
  ⟨0x7014, 0x7014, 0x01, 0x80, .u8, .rws, 0xFF, .val 0⟩,  -- WeightWays
  ⟨0x7015, 0x7015, 0x01, 0x80, .u8, .rws, 0xFF, .val 0⟩,  -- GranuleFirst
  ⟨0x7016, 0x7016, 0x01, 0x80, .u16, .rws, 0xFFFF, .val 0⟩,  -- GranuleCount
  ⟨0x7017, 0x7017, 0x01, 0x80, .u64, .rws, 0xFFFFFFFFFFFFFFFF, .val 0⟩,  -- CompletionRingBase
  ⟨0x7018, 0x7018, 0x01, 0x80, .u32, .rws, 0xFFFFFFFF, .val 0⟩,  -- CompletionRingEntries
  ⟨0x7019, 0x7019, 0x01, 0x80, .u32, .rw, 0xFFFFFFFF, .val 0⟩,  -- CompletionHead
  ⟨0x701A, 0x701A, 0x01, 0x80, .u32, .ro, 0xFFFFFFFF, .val 0⟩,  -- CompletionTail
  ⟨0x701B, 0x701B, 0x01, 0x80, .u8, .rws, 0xFF, .val 0⟩,  -- ChunkVector
  ⟨0x701C, 0x701C, 0x01, 0x80, .u32, .rws, 0xFFFFFFFF, .val 0⟩,  -- TimeSliceMicros
  ⟨0x701D, 0x701D, 0x01, 0x80, .u32, .ro, 0xFFFFFFFF, .val 0⟩,  -- PartitionState
  ⟨0x7020, 0x7020, 0x01, 0x80, .u64, .ro, 0xFFFFFFFFFFFFFFFF, .val 0⟩,  -- SlowMeshNanos
  ⟨0x7021, 0x7021, 0x01, 0x80, .u64, .ro, 0xFFFFFFFFFFFFFFFF, .val 0⟩,  -- SlowCapNanos
  ⟨0x7022, 0x7022, 0x01, 0x80, .u64, .ro, 0xFFFFFFFFFFFFFFFF, .val 0⟩,  -- SlowLinkNanos
  ⟨0x7023, 0x7023, 0x01, 0x80, .u64, .ro, 0xFFFFFFFFFFFFFFFF, .val 0⟩,  -- SlowBedrockNanos
  ⟨0x7024, 0x7024, 0x01, 0x80, .u64, .ro, 0xFFFFFFFFFFFFFFFF, .val 0⟩,  -- SlowShiftNanos
  ⟨0x7025, 0x7025, 0x01, 0x80, .u16, .ro, 0xFFFF, .val 0⟩,  -- SlowRatio
  ⟨0x7026, 0x7026, 0x01, 0x80, .u64, .ro, 0xFFFFFFFFFFFFFFFF, .val 0⟩,  -- DescriptorsTaken
  ⟨0x7027, 0x7027, 0x01, 0x80, .u32, .ro, 0xFFFFFFFF, .val 0⟩,  -- DescriptorDrops
  ⟨0x7028, 0x7028, 0x01, 0x80, .u32, .ro, 0xFFFFFFFF, .val 0⟩,  -- HeldCompletions
  ⟨0x7029, 0x7029, 0x01, 0x80, .u32, .ro, 0xFFFFFFFF, .val 0⟩,  -- PreemptCount
  ⟨0x702A, 0x702A, 0x01, 0x80, .u32, .ro, 0xFFFFFFFF, .val 0⟩]  -- MaxPreemptMicros

/-- The rows whose index begins with 0x80. -/
def rows80 : List Row := [
  ⟨0x8000, 0x8000, 0x00, 0x00, .u8, .const, 0xFF, .val 0x06⟩,  -- HighestSubindex
  ⟨0x8000, 0x8000, 0x01, 0x01, .u8, .const, 0xFF, .val 5⟩,  -- PowerStates
  ⟨0x8000, 0x8000, 0x02, 0x02, .u32, .const, 0xFFFFFFFF, .val 8000⟩,  -- CapMinMilliwatts
  ⟨0x8000, 0x8000, 0x03, 0x03, .u32, .const, 0xFFFFFFFF, .val 220000⟩,  -- CapMaxMilliwatts
  ⟨0x8000, 0x8000, 0x04, 0x04, .u16, .const, 0xFFFF, .val 2000⟩,  -- EstimatePeriodNanos
  ⟨0x8000, 0x8000, 0x05, 0x05, .u8, .const, 0xFF, .val 4⟩,  -- GaugesPerTile
  ⟨0x8000, 0x8000, 0x06, 0x06, .u8, .const, 0xFF, .val 40⟩,  -- AgeingBudgetMv
  ⟨0x8001, 0x8001, 0x00, 0x00, .u8, .const, 0xFF, .val 0x0D⟩,  -- HighestSubindex
  ⟨0x8001, 0x8001, 0x01, 0x01, .u32, .w1c, 0xFFF, .val 0⟩,  -- PowerFlags
  ⟨0x8001, 0x8001, 0x02, 0x0D, .u32, .ro, 0xFFFFFFFF, .val 0⟩,  -- PowerEventCount
  ⟨0x8002, 0x8002, 0x00, 0x00, .u8, .const, 0xFF, .val 0x07⟩,  -- HighestSubindex
  ⟨0x8002, 0x8002, 0x01, 0x01, .u8, .rw, 0xFF, .val 4⟩,  -- PowerFloor
  ⟨0x8002, 0x8002, 0x02, 0x02, .u32, .rws, 0xFFFFFFFF, .val 180000⟩,  -- PowerCapMilliwatts
  ⟨0x8002, 0x8002, 0x03, 0x03, .u8, .rws, 0x3F, .val 0x39⟩,  -- CapPriority
  ⟨0x8002, 0x8002, 0x04, 0x04, .u16, .rw, 0xFFFF, .val 300⟩,  -- CurrentLimitAmps
  ⟨0x8002, 0x8002, 0x05, 0x05, .u16, .rw, 0xFFFF, .val 1800⟩,  -- HostClockLimitMHz
  ⟨0x8002, 0x8002, 0x06, 0x06, .u16, .rw, 0xFFFF, .val 1800⟩,  -- RailTargetMHz
  ⟨0x8002, 0x8002, 0x07, 0x07, .u16, .rw, 0xFFFF, .val 600⟩,  -- WatchRailMHz
  ⟨0x8003, 0x8003, 0x00, 0x00, .u8, .const, 0xFF, .val 0x03⟩,  -- HighestSubindex
  ⟨0x8003, 0x8003, 0x01, 0x01, .u32, .rw, 0xFFFFFFFF, .val 500⟩,  -- HoldActiveMs
  ⟨0x8003, 0x8003, 0x02, 0x02, .u32, .rw, 0xFFFFFFFF, .val 2000⟩,  -- HoldWatchMs
  ⟨0x8003, 0x8003, 0x03, 0x03, .u32, .rw, 0xFFFFFFFF, .val 1000⟩,  -- HoldListenMs
  ⟨0x8004, 0x8004, 0x00, 0x00, .u8, .const, 0xFF, .val 0x06⟩,  -- HighestSubindex
  ⟨0x8004, 0x8004, 0x01, 0x01, .u32, .ro, 0xFFFFFFFF, .val 0x00001044⟩,  -- PowerState
  ⟨0x8004, 0x8004, 0x02, 0x02, .u8, .ro, 0xFF, .val 0⟩,  -- LastWakeSource
  ⟨0x8004, 0x8004, 0x03, 0x03, .u64, .ro, 0xFFFFFFFFFFFFFFFF, .val 0⟩,  -- LastWakeTime
  ⟨0x8004, 0x8004, 0x04, 0x04, .u32, .rw, 0x1FF, .val 0x0000000B⟩,  -- WakeConfig
  ⟨0x8004, 0x8004, 0x05, 0x05, .u16, .rw, 0xFFFF, .val 0⟩,  -- GpioWakeMask
  ⟨0x8004, 0x8004, 0x06, 0x06, .u16, .rw, 0xFFFF, .val 0⟩,  -- GpioWakePolarity
  ⟨0x8005, 0x8005, 0x00, 0x00, .u8, .const, 0xFF, .val 0x09⟩,  -- HighestSubindex
  ⟨0x8005, 0x8005, 0x01, 0x01, .u32, .ro, 0xFFFFFFFF, .val 0⟩,  -- PowerNowMilliwatts
  ⟨0x8005, 0x8005, 0x02, 0x02, .u32, .ro, 0xFFFFFFFF, .val 0⟩,  -- PowerAvgMilliwatts
  ⟨0x8005, 0x8005, 0x03, 0x03, .u64, .ro, 0xFFFFFFFFFFFFFFFF, .val 0⟩,  -- EnergyMicrojoules
  ⟨0x8005, 0x8005, 0x04, 0x04, .u16, .ro, 0xFFFF, .val 0⟩,  -- CoreMillivolts
  ⟨0x8005, 0x8005, 0x05, 0x05, .i16, .ro, 0xFFFF, .val 0⟩,  -- HottestTj
  ⟨0x8005, 0x8005, 0x06, 0x06, .u16, .ro, 0xFFFF, .val 65535⟩,  -- ComputeFactor
  ⟨0x8005, 0x8005, 0x07, 0x07, .u16, .ro, 0xFFFF, .val 65535⟩,  -- MemoryFactor
  ⟨0x8005, 0x8005, 0x08, 0x08, .u16, .ro, 0xFFFF, .val 65535⟩,  -- LinkFactor
  ⟨0x8005, 0x8005, 0x09, 0x09, .i8, .rw, 0xFF, .val 100⟩,  -- ThermalThrottleC
  ⟨0x8010, 0x8010, 0x00, 0x00, .u8, .const, 0xFF, .val 0x06⟩,  -- HighestSubindex
  ⟨0x8010, 0x8010, 0x01, 0x06, .u64, .ro, 0xFFFFFFFFFFFFFFFF, .val 0⟩,  -- ThrottleMicros
  ⟨0x8011, 0x8011, 0x00, 0x00, .u8, .const, 0xFF, .val 0x03⟩,  -- HighestSubindex
  ⟨0x8011, 0x8011, 0x01, 0x01, .u64, .ro, 0xFFFFFFFFFFFFFFFF, .val 0⟩,  -- DroopEvents
  ⟨0x8011, 0x8011, 0x02, 0x02, .u64, .ro, 0xFFFFFFFFFFFFFFFF, .val 0⟩,  -- DroopStretchNanos
  ⟨0x8011, 0x8011, 0x03, 0x03, .u32, .ro, 0xFFFFFFFF, .val 0⟩,  -- GaugePauses
  ⟨0x8012, 0x8012, 0x00, 0x00, .u8, .const, 0xFF, .val 0x04⟩,  -- HighestSubindex
  ⟨0x8012, 0x8012, 0x01, 0x01, .u8, .ro, 0xFF, .val 0⟩,  -- AgeingOffsetMv
  ⟨0x8012, 0x8012, 0x02, 0x02, .u8, .ro, 0xFF, .val 100⟩,  -- LifeMarginPercent
  ⟨0x8012, 0x8012, 0x03, 0x03, .u8, .rw, 0xFF, .val 10⟩,  -- MarginMinMv
  ⟨0x8012, 0x8012, 0x04, 0x04, .u8, .rw, 0xFF, .val 15⟩]  -- GaugeIntervalMinutes

/-- The rows whose index begins with 0x81. -/
def rows81 : List Row := [
  ⟨0x8100, 0x8103, 0x01, 0x80, .u16, .ro, 0xFFFF, .perDevice⟩,  -- TileCeilingMHz
  ⟨0x8110, 0x8113, 0x01, 0x80, .u16, .const, 0xFFFF, .perDevice⟩,  -- TileTestCeilingMHz
  ⟨0x8120, 0x8123, 0x01, 0x80, .i16, .ro, 0xFFFF, .val 0⟩,  -- TileMarginMv
  ⟨0x8130, 0x8133, 0x01, 0x80, .u64, .ro, 0xFFFFFFFFFFFFFFFF, .val 0⟩]  -- TileGaugeTime

/-- The rows whose index begins with 0x82. -/
def rows82 : List Row := [
  ⟨0x8200, 0x8200, 0x00, 0x00, .u8, .const, 0xFF, .val 0x11⟩,  -- HighestSubindex
  ⟨0x8200, 0x8200, 0x01, 0x11, .u16, .const, 0xFFFF, .perDevice⟩]  -- VfTableMv

/-- The rows whose index begins with 0x90. -/
def rows90 : List Row := [
  ⟨0x9000, 0x9000, 0x00, 0x00, .u8, .const, 0xFF, .val 0x02⟩,  -- HighestSubindex
  ⟨0x9000, 0x9000, 0x01, 0x01, .u8, .const, 0xFF, .val 32⟩,  -- FaultLogRecords
  ⟨0x9000, 0x9000, 0x02, 0x02, .u16, .const, 0xFFFF, .val 40⟩,  -- SelfTestMillis
  ⟨0x9001, 0x9001, 0x00, 0x00, .u8, .const, 0xFF, .val 0x0D⟩,  -- HighestSubindex
  ⟨0x9001, 0x9001, 0x01, 0x01, .u32, .w1c, 0xFFF, .val 0⟩,  -- FaultFlags
  ⟨0x9001, 0x9001, 0x02, 0x0D, .u32, .ro, 0xFFFFFFFF, .val 0⟩,  -- FaultEventCount
  ⟨0x9002, 0x9002, 0x00, 0x00, .u8, .const, 0xFF, .val 0x03⟩,  -- HighestSubindex
  ⟨0x9002, 0x9002, 0x01, 0x01, .u32, .rw, 0xFFFFFFFF, .val 10000⟩,  -- QuietPeriodMs
  ⟨0x9002, 0x9002, 0x02, 0x02, .u8, .rw, 0xFF, .val 2⟩,  -- TileUeLimit
  ⟨0x9002, 0x9002, 0x03, 0x03, .u8, .rw, 0xFF, .val 4⟩,  -- ChannelUeLimit
  ⟨0x9003, 0x9003, 0x00, 0x00, .u8, .const, 0xFF, .val 0x08⟩,  -- HighestSubindex
  ⟨0x9003, 0x9003, 0x01, 0x01, .u32, .ro, 0xFFFFFFFF, .val 0⟩,  -- FaultState
  ⟨0x9003, 0x9003, 0x02, 0x02, .u32, .ro, 0xFFFFFFFF, .val 0⟩,  -- RecoveryCount
  ⟨0x9003, 0x9003, 0x03, 0x03, .u32, .ro, 0xFFFFFFFF, .val 0⟩,  -- DeviceFatalCount
  ⟨0x9003, 0x9003, 0x04, 0x04, .u64, .ro, 0xFFFFFFFFFFFFFFFF, .val 0⟩,  -- CorrectedCount
  ⟨0x9003, 0x9003, 0x05, 0x05, .u64, .ro, 0xFFFFFFFFFFFFFFFF, .val 0⟩,  -- ContainedCount
  ⟨0x9003, 0x9003, 0x06, 0x06, .u32, .ro, 0xFFFFFFFF, .val 0⟩,  -- UnitFatalCount
  ⟨0x9003, 0x9003, 0x07, 0x07, .u32, .ro, 0xFFFFFFFF, .val 0⟩,  -- ReplayCount
  ⟨0x9003, 0x9003, 0x08, 0x08, .u32, .ro, 0xFFFFFFFF, .val 0⟩,  -- ReplayMaxMicros
  ⟨0x9004, 0x9004, 0x00, 0x00, .u8, .const, 0xFF, .val 0x02⟩,  -- HighestSubindex
  ⟨0x9004, 0x9004, 0x01, 0x01, .u32, .wo, 0xFFFFFFFF, .val 0⟩,  -- FenceCommand
  ⟨0x9004, 0x9004, 0x02, 0x02, .u8, .ro, 0xFF, .val 0⟩,  -- FenceResult
  ⟨0x9005, 0x9005, 0x00, 0x00, .u8, .const, 0xFF, .val 0x04⟩,  -- HighestSubindex
  ⟨0x9005, 0x9005, 0x01, 0x01, .u8, .ro, 0xFF, .val 0⟩,  -- HeldPipelines
  ⟨0x9005, 0x9005, 0x02, 0x02, .u8, .ro, 0xFF, .val 0⟩,  -- HeldEdgeEngines
  ⟨0x9005, 0x9005, 0x03, 0x03, .u8, .ro, 0xFF, .val 0⟩,  -- HeldCanControllers
  ⟨0x9005, 0x9005, 0x04, 0x04, .bool, .ro, 0x1, .val 0⟩,  -- RoostHeld
  ⟨0x9010, 0x9010, 0x00, 0x00, .u8, .const, 0xFF, .val 0x01⟩,  -- HighestSubindex
  ⟨0x9010, 0x9010, 0x01, 0x01, .dom, .ro, 0x0, .val 0⟩,  -- FaultLog
  ⟨0x9011, 0x9011, 0x00, 0x00, .u8, .const, 0xFF, .val 0x01⟩,  -- HighestSubindex
  ⟨0x9011, 0x9011, 0x01, 0x01, .u32, .ro, 0xFFFFFFFF, .val 0⟩]  -- SelfTestResult

/-- The rows whose index begins with 0xA0. -/
def rowsA0 : List Row := [
  ⟨0xA000, 0xA000, 0x00, 0x00, .u8, .const, 0xFF, .val 0x06⟩,  -- HighestSubindex
  ⟨0xA000, 0xA000, 0x01, 0x01, .oct, .const, 0x0, .perDevice⟩,  -- SerialFull
  ⟨0xA000, 0xA000, 0x02, 0x02, .dom, .const, 0x0, .perDevice⟩,  -- IdentityCert
  ⟨0xA000, 0xA000, 0x03, 0x03, .oct, .const, 0x0, .perDevice⟩,  -- CertKeyDigest
  ⟨0xA000, 0xA000, 0x04, 0x04, .u32, .const, 0xFFFFFFFF, .perDevice⟩,  -- FuseState
  ⟨0xA000, 0xA000, 0x05, 0x05, .u32, .ro, 0xFFFFFFFF, .val 0⟩,  -- ColdStartCount
  ⟨0xA000, 0xA000, 0x06, 0x06, .u32, .ro, 0xFFFFFFFF, .val 0⟩,  -- StartCount
  ⟨0xA001, 0xA001, 0x00, 0x00, .u8, .const, 0xFF, .val 0x09⟩,  -- HighestSubindex
  ⟨0xA001, 0xA001, 0x01, 0x01, .u32, .w1c, 0xFF, .val 0⟩,  -- SecurityFlags
  ⟨0xA001, 0xA001, 0x02, 0x09, .u32, .ro, 0xFFFFFFFF, .val 0⟩,  -- SecurityEventCount
  ⟨0xA002, 0xA002, 0x00, 0x00, .u8, .const, 0xFF, .val 0x01⟩,  -- HighestSubindex
  ⟨0xA002, 0xA002, 0x01, 0x01, .u8, .rw, 0xFF, .val 0x04⟩,  -- SecurityFenceMask
  ⟨0xA010, 0xA010, 0x00, 0x00, .u8, .const, 0xFF, .val 0x04⟩,  -- HighestSubindex
  ⟨0xA010, 0xA010, 0x01, 0x01, .dom, .wo, 0x0, .val 0⟩,  -- FleetEnrol
  ⟨0xA010, 0xA010, 0x02, 0x02, .u8, .ro, 0xFF, .val 0⟩,  -- FleetResult
  ⟨0xA010, 0xA010, 0x03, 0x03, .u64, .wo, 0xFFFFFFFFFFFFFFFF, .val 0⟩,  -- FleetRemove
  ⟨0xA010, 0xA010, 0x04, 0x04, .u8, .ro, 0xFF, .val 0⟩,  -- FleetCount
  ⟨0xA011, 0xA011, 0x01, 0x08, .u64, .ro, 0xFFFFFFFFFFFFFFFF, .val 0⟩,  -- FleetId
  ⟨0xA012, 0xA012, 0x01, 0x08, .u32, .ro, 0xFFFFFFFF, .val 0⟩,  -- FleetEpoch
  ⟨0xA020, 0xA020, 0x00, 0x00, .u8, .const, 0xFF, .val 0x01⟩,  -- HighestSubindex
  ⟨0xA020, 0xA020, 0x01, 0x01, .dom, .ro, 0x0, .val 0⟩,  -- SecurityLog
  ⟨0xA030, 0xA030, 0x00, 0x00, .u8, .const, 0xFF, .val 0x03⟩,  -- HighestSubindex
  ⟨0xA030, 0xA030, 0x01, 0x01, .oct, .wo, 0x0, .val 0⟩,  -- AttestNonce
  ⟨0xA030, 0xA030, 0x02, 0x02, .u8, .rw, 0xFF, .val 0xFF⟩,  -- AttestScope
  ⟨0xA030, 0xA030, 0x03, 0x03, .dom, .ro, 0x0, .val 0⟩,  -- AttestReport
  ⟨0xA040, 0xA040, 0x00, 0x00, .u8, .const, 0xFF, .val 0x02⟩,  -- HighestSubindex
  ⟨0xA040, 0xA040, 0x01, 0x01, .u8, .ro, 0xFF, .val 0⟩,  -- RandomState
  ⟨0xA040, 0xA040, 0x02, 0x02, .u32, .ro, 0xFFFFFFFF, .val 0⟩]  -- RandomFailCount

/-- The rows whose index begins with 0xF0. -/
def rowsF0 : List Row := [
  ⟨0xF000, 0xF000, 0x00, 0x00, .u8, .const, 0xFF, .val 0x09⟩,  -- HighestSubindex
  ⟨0xF000, 0xF000, 0x01, 0x01, .u8, .wo, 0xFF, .val 0⟩,  -- Commit
  ⟨0xF000, 0xF000, 0x02, 0x02, .u8, .ro, 0xFF, .val 0⟩,  -- CommitState
  ⟨0xF000, 0xF000, 0x03, 0x03, .u16, .ro, 0xFFFF, .val 0⟩,  -- CommitReason
  ⟨0xF000, 0xF000, 0x04, 0x04, .u32, .ro, 0xFFFFFFFF, .val 0⟩,  -- CommitFirst
  ⟨0xF000, 0xF000, 0x05, 0x05, .u32, .ro, 0xFFFFFFFF, .val 0⟩,  -- CommitSecond
  ⟨0xF000, 0xF000, 0x06, 0x06, .u16, .ro, 0xFFFF, .val 0⟩,  -- CommitObject
  ⟨0xF000, 0xF000, 0x07, 0x07, .u16, .ro, 0xFFFF, .val 0⟩,  -- StagedEntries
  ⟨0xF000, 0xF000, 0x08, 0x08, .u32, .ro, 0xFFFFFFFF, .val 0⟩,  -- CommitCount
  ⟨0xF000, 0xF000, 0x09, 0x09, .u64, .ro, 0xFFFFFFFFFFFFFFFF, .val 0⟩,  -- CommitTime
  ⟨0xF001, 0xF001, 0x01, 0x01, .bool, .rw, 0x1, .val 0⟩,  -- StagedView
  ⟨0xF002, 0xF002, 0x00, 0x00, .u8, .const, 0xFF, .val 0x08⟩,  -- HighestSubindex
  ⟨0xF002, 0xF002, 0x01, 0x01, .u32, .w1c, 0x7F, .val 0⟩,  -- DictFlags
  ⟨0xF002, 0xF002, 0x02, 0x08, .u32, .ro, 0xFFFFFFFF, .val 0⟩,  -- DictEventCount
  ⟨0xF010, 0xF010, 0x01, 0x01, .u32, .rw, 0xFFFFFFFF, .val 0⟩,  -- DomainEntry
  ⟨0xF010, 0xF010, 0x02, 0x02, .u64, .rw, 0xFFFFFFFFFFFFFFFF, .val 0⟩,  -- DomainHostAddress
  ⟨0xF010, 0xF010, 0x03, 0x03, .u32, .rw, 0xFFFFFFFF, .val 0⟩,  -- DomainBytes
  ⟨0xF010, 0xF010, 0x04, 0x04, .u8, .wo, 0xFF, .val 0⟩,  -- DomainCommand
  ⟨0xF010, 0xF010, 0x05, 0x05, .u8, .ro, 0xFF, .val 0⟩,  -- DomainState
  ⟨0xF010, 0xF010, 0x06, 0x06, .u32, .ro, 0xFFFFFFFF, .val 0⟩,  -- DomainResult
  ⟨0xF010, 0xF010, 0x07, 0x07, .u32, .ro, 0xFFFFFFFF, .val 0⟩,  -- DomainLength
  ⟨0xF020, 0xF020, 0x01, 0x01, .u32, .rw, 0xFFFFFFFF, .val 0⟩,  -- PersistSelect
  ⟨0xF020, 0xF020, 0x02, 0x02, .u32, .ro, 0xFFFFFFFF, .val 0⟩,  -- PersistWrites
  ⟨0xF020, 0xF020, 0x03, 0x03, .u32, .const, 0xFFFFFFFF, .val 1000000⟩,  -- PersistLimit
  ⟨0xF020, 0xF020, 0x04, 0x04, .bool, .ro, 0x1, .val 0⟩,  -- PersistLocked
  ⟨0xF020, 0xF020, 0x05, 0x05, .u16, .ro, 0xFFFF, .val 0⟩,  -- DefaultedCount
  ⟨0xF020, 0xF020, 0x06, 0x06, .u64, .ro, 0xFFFFFFFFFFFFFFFF, .val 0⟩,  -- StoreCheckWord
  ⟨0xF021, 0xF021, 0x01, 0x01, .dom, .ro, 0x0, .val 0⟩]  -- DefaultedPages

/-- The rows whose index begins with the byte given. -/
def page : Nat → List Row
  | 0x10 => rows10
  | 0x12 => rows12
  | 0x14 => rows14
  | 0x16 => rows16
  | 0x18 => rows18
  | 0x1A => rows1A
  | 0x20 => rows20
  | 0x21 => rows21
  | 0x22 => rows22
  | 0x30 => rows30
  | 0x31 => rows31
  | 0x34 => rows34
  | 0x36 => rows36
  | 0x40 => rows40
  | 0x41 => rows41
  | 0x42 => rows42
  | 0x43 => rows43
  | 0x44 => rows44
  | 0x50 => rows50
  | 0x51 => rows51
  | 0x52 => rows52
  | 0x53 => rows53
  | 0x54 => rows54
  | 0x55 => rows55
  | 0x58 => rows58
  | 0x59 => rows59
  | 0x5A => rows5A
  | 0x60 => rows60
  | 0x61 => rows61
  | 0x63 => rows63
  | 0x64 => rows64
  | 0x65 => rows65
  | 0x68 => rows68
  | 0x69 => rows69
  | 0x70 => rows70
  | 0x80 => rows80
  | 0x81 => rows81
  | 0x82 => rows82
  | 0x90 => rows90
  | 0xA0 => rowsA0
  | 0xF0 => rowsF0
  | _ => []

/-- Every row of the dictionary. -/
def rows : List Row := [0x10, 0x12, 0x14, 0x16, 0x18, 0x1A, 0x20, 0x21, 0x22, 0x30, 0x31, 0x34, 0x36, 0x40, 0x41, 0x42, 0x43, 0x44, 0x50, 0x51, 0x52, 0x53, 0x54, 0x55, 0x58, 0x59, 0x5A, 0x60, 0x61, 0x63, 0x64, 0x65, 0x68, 0x69, 0x70, 0x80, 0x81, 0x82, 0x90, 0xA0, 0xF0].flatMap page

end Sys2Proof.Machine.Od
end

