-- ==== Sys2Proof/Machine/Map.lean ====
section
/-! DEFINITION. Finite maps from natural-number keys in one canonical form: keys strictly rising, no entry equal to what an unlisted key reads as. Memories and the values of dictionary entries are held in this form. -/

namespace Sys2Proof.Machine

/-- A finite map: a list of (key, value) pairs. -/
abbrev NMap (α : Type) := List (Nat × α)

namespace NMap

variable {α : Type}

/-- The first value listed for `k`. -/
def find (k : Nat) : NMap α → Option α
  | [] => none
  | (a, v) :: m => if a = k then some v else find k m

/-- The map without any entry for `k`. -/
def erase (k : Nat) : NMap α → NMap α
  | [] => []
  | (a, v) :: m => if a = k then erase k m else (a, v) :: erase k m

/-- The map with `v` at `k`, in the place that keeps the keys rising. -/
def insert (k : Nat) (v : α) : NMap α → NMap α
  | [] => [(k, v)]
  | (a, w) :: m =>
    if k < a then (k, v) :: (a, w) :: m
    else if a = k then (k, v) :: m
    else (a, w) :: insert k v m

/-- Read `k`; an unlisted key reads as `d k`. -/
def get (d : Nat → α) (m : NMap α) (k : Nat) : α := (find k m).getD (d k)

/-- Write `v` at `k`; writing what an unlisted key reads as removes the entry. -/
def set [DecidableEq α] (d : Nat → α) (m : NMap α) (k : Nat) (v : α) : NMap α :=
  if v = d k then erase k m else insert k v m

/-- The canonical form: keys strictly rising, no entry equal to the unlisted value. -/
abbrev wf (d : Nat → α) (m : NMap α) : Prop :=
  m.Pairwise (fun a b => a.1 < b.1) ∧ ∀ p ∈ m, p.2 ≠ d p.1

/-- The keys that the map lists. -/
def keys (m : NMap α) : List Nat := m.map Prod.fst

end NMap

end Sys2Proof.Machine
end

