-- ==== Sys2Proof/Machine/State.lean ====
section
/-! DEFINITION. The state of the device as plain data, the reasons for which a step can stop, and the state right after reset. -/

namespace Sys2Proof.Machine

/-- The faults of the model. -/
inductive Fault where
  /-- Raised by a descriptor command or a chunk seal whose slot's earlier writes could be reordered behind the seal: "A seal that an earlier write of its slot could be reordered behind in the fabric has no defined effect" (R389). Safe: the run stops where the spec gives no effect. -/
  | sealReordered
  deriving DecidableEq, Repr

/-- The refusals of the model. -/
inductive Refusal where
  /-- Raised by an arm of `exec` whose command has no meaning yet. Safe: the run stops. -/
  | notModelled (mnemonic : String)
  deriving DecidableEq, Repr

/-! ### Fuses, the persistent store and the fabric -/

/-- What is fused into the device: at test, and in the field (field-fence bits, R23, and floor words, R400). -/
structure Fuses where
  /-- CT2564-B4 rather than CT2564-B2 (Table 0-1). -/
  b4 : Bool
  serial : BitVec 128
  /-- Physical tiles fenced at test. -/
  testFenced : List Nat
  /-- Physical tiles whose field-fence fuse bit is burned (R23, R48). -/
  fieldFenced : List Nat
  /-- Fused ceiling in MHz of each physical tile; unlisted tiles have 1 800. -/
  tileCeiling : NMap Nat
  /-- The 17 points of `VfTableMv`. -/
  vf : List Nat
  fuseState : W32
  /-- The fused floor words burned so far, at most 64 (R400). -/
  floorWords : List W16
  deriving DecidableEq, Repr

/-- A bonded-memory row held by a soft spare row (R119). -/
structure SoftRepair where
  channel : Nat
  bank : Nat
  row : Nat
  deriving DecidableEq, Repr

/-- The records of the persistent store beside the values of rwp entries (R425 to R428). -/
structure Persist where
  /-- Stored writes of each rwp entry (R426). -/
  writes : NMap Nat
  /-- rwp entries locked for the life of the device (R426). -/
  locked : List Nat
  /-- Physical tiles fenced in the field. -/
  fencedTiles : List Nat
  fencedChannels : List Nat
  repairs : List SoftRepair
  /-- The value of `SecurityFloor` that the store holds. -/
  floor : W16
  /-- MHz by which each physical tile's ageing ceiling lies below its fused ceiling (R342). -/
  lowered : NMap Nat
  /-- Pages rewritten with factory content at this start (R427). -/
  defaulted : List Nat
  /-- A device-fatal fault halted the device and no start has followed (R354). -/
  fatalPending : Bool
  /-- The supply was lost without AON_PWRGD falling first, and no start has followed (R449). -/
  unclean : Bool
  deriving DecidableEq, Repr

/-- A substitution by shifting in one physical row (Table 2-16). -/
structure Shift where
  row : Nat
  /-- Failed physical column. -/
  col : Nat
  /-- Step 3 has started. -/
  moving : Bool
  /-- `TileClockRequest` of the row's 64 logical tiles when the shift began: a clock write takes effect after it (R50). -/
  requests : List Nat
  /-- Physical tiles of the same row whose fault waits for the end of this shift (R50). -/
  waiting : List Nat
  deriving DecidableEq, Repr

/-- The two halves of a tile's configuration store (R46): the plan that each holds, named by its partition and PlanId. -/
structure Halves where
  running : Option (Nat × W64)
  staged : Option (Nat × W64)
  /-- The staged plan was loaded behind a busy running half and has not started. -/
  pending : Bool
  deriving DecidableEq, Repr

/-- An entry of a walker's look-aside buffer: sequence context, virtual page, pool page. -/
structure LabEntry where
  seq : Nat
  vpage : Nat
  page : Nat
  deriving DecidableEq, Repr

/-- The directory entry that a walker record used last (R203): the record, and the sequence context and directory index. -/
structure HeldDir where
  part : Nat
  planId : W64
  record : Nat
  seq : Nat
  dir : Nat
  deriving DecidableEq, Repr

/-- A tile's page-table walker: at most 32 LAB entries, the one used last first, and its records' held directory entries. -/
structure Walker where
  lab : List LabEntry
  held : List HeldDir
  deriving DecidableEq, Repr

/-- The tile fabric: the map in force and what the tiles hold. -/
structure Fabric where
  /-- Every fenced physical tile. -/
  fenced : List Nat
  /-- For each physical row, the at most two physical columns that the map skips, rising. -/
  skips : NMap (List Nat)
  /-- Configuration halves of each logical tile. -/
  halves : NMap Halves
  shifts : List Shift
  /-- Logical tiles whose clock is stretched after a droop (R339). -/
  drooping : List Nat
  /-- Logical tiles whose gauge reading is due while they run (R341). -/
  gaugeDue : List Nat
  /-- Logical tiles fenced without a shift during a live update's hold: their plans fall back after the adoption (Table 13-10). -/
  lateFalls : List Nat
  /-- The walkers of the logical tiles. -/
  walkers : NMap Walker
  deriving DecidableEq, Repr

/-! ### Memory -/

/-- An entry of a channel's merge buffer (R99). -/
structure MergeEntry where
  channel : Nat
  line : Nat
  /-- Bit i: byte i of the line is held. -/
  mask : BitVec 64
  data : BitVec 512
  deriving DecidableEq, Repr

/-- The memory tiers. Keys: local memory by tile × 2^20 + offset, with the roost as tile 512; the state store by absolute offset; bonded memory by channel × 2^27 + channel offset; host memory by bus address. Unlisted bytes of device memory read 0 (R379), or free values once their unit has been off (Table 12-2). -/
structure Mem where
  /-- Units that have been off since they were last cleared whole, each with the use of free values that its bytes have: channel c, state store granule 256 + g, tile 512 + n, a channel's reserved megabyte 1024 + c. -/
  lost : NMap Nat
  tile : NMap Byte
  state : NMap Byte
  bonded : NMap Byte
  /-- Host memory as far as the device knows it: bytes it wrote, and bytes that completions delivered. -/
  host : NMap (Option Byte)
  /-- Marks of R42, by tile × 2^15 + bank word. -/
  marks : NMap Bool
  /-- Poisoned 8-byte words of local memory, by tile × 2^17 + word (R115). -/
  poisonTile : NMap Bool
  poisonState : NMap Bool
  /-- Poisoned 64-byte lines, by channel × 2^21 + line (R115). -/
  poisonBonded : NMap Bool
  /-- Merge buffer entries, oldest first. -/
  merge : List MergeEntry
  /-- Units still being cleared (R379). -/
  clearing : List ClearUnit
  deriving DecidableEq, Repr

/-! ### Tile plans -/

structure SlotRec where
  slot : Nat
  dx : Nat
  dy : Nat
  gang : Nat
  mask : Nat
  cfgOff : Nat
  cfgBytes : Nat
  deriving DecidableEq, Repr

structure GangRec where
  gang : Nat
  mode : Nat
  rows : Nat
  cols : Nat
  kind : Nat
  codeBits : Nat
  acc : Nat
  lead : Nat
  deriving DecidableEq, Repr

structure FeedRec where
  slot : Nat
  gang : Nat
  act : Nat
  weight : Nat
  passes : Nat
  steps : Nat
  scaleMode : Nat
  zeroPoint : Bool
  deriving DecidableEq, Repr

structure PostRec where
  /-- Its number among the POST records of its slot, which finds its copy of control words (R466). -/
  copy : Nat
  slot : Nat
  gang : Nat
  stages : List Nat
  outFormat : Nat
  statsIn : Bool
  statsOut : Bool
  symmetric : Bool
  param : Nat
  aux : Nat
  auxStride : Nat
  auxFormat : Nat
  outStream : Nat
  colSum : Nat
  outMul : W32
  rowScale : Nat
  setIn : Nat
  setOut : Nat
  deriving DecidableEq, Repr

structure StreamRec where
  source : Nat
  dest : Nat
  rowBytes : Nat
  rowCount : Nat
  srcStride : Nat
  dstStride : Nat
  index : Nat
  elemBits : Nat
  kind : Nat
  slot : Nat
  transpose : Bool
  weightSource : Bool
  deriving DecidableEq, Repr

structure CheapRec where
  index : Nat
  preempt : Bool
  checkpoint : Bool
  portable : Bool
  chunkBoundary : Bool
  cycle : Nat
  firstLive : Nat
  liveCount : Nat
  liveBytes : Nat
  deriving DecidableEq, Repr

structure LiveRec where
  addr : Nat
  bytes : Nat
  slot : Nat
  kind : Nat
  deriving DecidableEq, Repr

structure HintRec where
  firstPage : Nat
  pageCount : Nat
  cycle : Nat
  kind : Nat
  deriving DecidableEq, Repr

/-- A tile plan as its image gives it (Tables 2-6 to 2-14, 3-8). -/
structure Plan where
  planId : W64
  digest : BitVec 256
  planBytes : Nat
  slotCount : Nat
  gangCount : Nat
  variant : Nat
  hasCheckpoints : Bool
  inputsPreserved : Bool
  latencyMode : Bool
  streamPlan : Bool
  maxGap : Nat
  ckptBytes : Nat
  clockTarget : Nat
  nominal : Nat
  degradedId : W64
  wBase : Nat
  wBytes : Nat
  slots : List SlotRec
  gangs : List GangRec
  feeds : List FeedRec
  posts : List PostRec
  streams : List StreamRec
  cheaps : List CheapRec
  lives : List LiveRec
  hints : List HintRec
  /-- CONFIG block of each slot, in slot order. -/
  configs : List (List Byte)
  /-- First 32 bytes of SHAKE256 of the image (Table 14-5). -/
  imageDigest : List Byte
  deriving DecidableEq, Repr

/-- Half of a walker record's ring: it is filled, and the byte ranges (first, end) of it that the consuming stream has not read since (R208). -/
structure RingHalf where
  full : Bool
  unread : List (Nat × Nat)
  deriving DecidableEq, Repr

/-- The flow of rows and tokens inside a plan's invocation. -/
structure Flow where
  /-- Row-ready counters, by slot × 16 + counter (R260). -/
  counters : NMap Nat
  /-- Low-water marks that have been raised, by expansion record (R261). -/
  low : NMap Nat
  /-- Ring halves, by walker record × 2 + half. -/
  halves : NMap RingHalf
  /-- Rows that this invocation has appended: sequence context, plane and token (R207). -/
  appended : List (Nat × Nat × Nat)
  deriving DecidableEq, Repr

/-- A plan loaded in a partition (R43 to R49). -/
structure Loaded where
  plan : Plan
  /-- Kind of the manifest: 0 plain, 1 stream, 2 attention, 3 convolution. -/
  kind : Nat
  model : Nat
  /-- Parameter record of the manifest for kinds 1 to 3. -/
  params : List Byte
  variant : Option Plan
  /-- Kind and parameter record of the variant's own manifest entry. -/
  variantKind : Nat
  variantParams : List Byte
  /-- The variant runs in place of the plan (R49). -/
  onVariant : Bool
  /-- Logical tile of each slot; empty when the plan has no placement now. -/
  place : List Nat
  /-- Pin counts of this plan, by page (R105). -/
  pins : NMap Nat
  /-- Local-memory live ranges kept in the checkpoint area: by slot × 2^20 + offset. -/
  ckpt : NMap Byte
  /-- Row-ready counters, low-water marks and the rest of the flow as the checkpoint saved them (R263). -/
  ckptFlow : Flow
  /-- Weight pages that migrations have brought for the reads of the part that runs (R104). -/
  fetched : List Nat
  /-- Local-memory live ranges of the point at which its invocation was stopped (R311), keyed alike. -/
  saved : NMap Byte
  loadTime : Nat
  deriving DecidableEq, Repr

/-! ### Requests -/

inductive WorkPhase where
  /-- Taken, not started. -/
  | held
  | running
  /-- Ended; its record is not written yet. -/
  | ended
  deriving DecidableEq, Repr

/-- A taken descriptor (R299 to R305). -/
structure Work where
  slot : Nat
  raw : BitVec 1024
  mirror : Bool
  phase : WorkPhase
  /-- What the operation has fetched from host memory: an ATTEND's lane table, a ticket record, a state blob. -/
  extra : List Byte
  deriving DecidableEq, Repr

/-- Why a running invocation is told to stop. -/
inductive StopReq where
  | none | abort | preempt | slice
  /-- An ABORT of an invocation that was told to stop already: it ends at the point chosen (Table 11-6). -/
  | abortChosen
  deriving DecidableEq, Repr

/-- A lane of an ATTEND (R199, R211). -/
structure Lane where
  /-- Context number of the sequence. -/
  seq : Nat
  newTokens : Nat
  first : Nat
  last : Nat
  status : Nat
  cow : Nat
  /-- It met a corrected error (R113, R212). -/
  corrected : Bool
  deriving DecidableEq, Repr

/-- A running invocation of a plan: an INVOKE or an ATTEND. -/
structure Invocation where
  planId : W64
  /-- Descriptor slot of the request. -/
  slot : Nat
  attend : Bool
  start : Nat
  /-- Device time of its start or last resumption. -/
  resumed : Nat
  /-- Index of the last cheap point passed. -/
  cheap : Nat
  /-- Device time at which it passed that point, or resumed there. -/
  passed : Nat
  /-- The point that a replay must pass again to have caught up with its fault, and the device time at which it had passed it (R361). -/
  behind : Option (Nat × Nat)
  /-- Index of the last CHECKPOINT point passed. -/
  ckpt : Option Nat
  portable : Option Nat
  /-- Index of the last cheap point whose statistics have merged (R83, R360). -/
  merged : Nat
  stop : StopReq
  stopTime : Nat
  /-- Stopped at a PREEMPT point and waiting for its tiles. -/
  stopped : Bool
  /-- Stopped at a cheap point while a shift moves tiles of its plan (Table 2-16 step 2). -/
  paused : Bool
  /-- Held by a fault of one of its tiles until the shift or the variant is in place. -/
  faulted : Bool
  replayed : Bool
  corrected : Bool
  /-- Lanes of an ATTEND, in table order. -/
  lanes : List Lane
  flow : Flow
  deriving DecidableEq, Repr

/-- A completion record (Table 11-4) with where it goes. -/
structure Record where
  seq : W32
  status : Nat
  opcode : Nat
  chunk : Bool
  held : Bool
  replayed : Bool
  tag : W64
  stream : Nat
  slot : Nat
  detail : Nat
  info : W32
  endTime : Nat
  /-- MSI-X vector of the function, when the request asked for one. -/
  irq : Option Nat
  mirror : Bool
  /-- What the request writes to host memory with its record: bus address and bytes (R212). -/
  pre : List (Nat × List Byte)
  deriving DecidableEq, Repr

/-- A frame of a partition's weight cache (R102). -/
inductive FrameUse where
  | empty
  /-- A weight page, with the time of its last read. -/
  | page (n : Nat) (lastRead : Nat)
  /-- A frame being filled by a migration. -/
  | filling (n : Nat)
  /-- Image or checkpoint frame of a loaded plan. -/
  | image (planId : W64)
  | checkpoint (planId : W64)
  /-- Swap-slot frame of a stream. -/
  | swap (stream : Nat)
  /-- KV pool frame. -/
  | kv
  /-- Staging frame of a feed. -/
  | staging (feed : Nat)
  deriving DecidableEq, Repr

/-- A page of the library: a weight page or an image page (R124). -/
structure PageId where
  model : Nat
  image : Bool
  page : Nat
  deriving DecidableEq, Repr

/-- A plan load whose image pages are being read (R43 step 1, R129). -/
structure LoadJob where
  /-- Descriptor slot; 64 + k for the load of wake stage k (R293). -/
  slot : Nat
  planId : W64
  model : Nat
  /-- Image pages still to read, ascending. -/
  left : List PageId
  /-- The pages are those of the degraded variant (step 7). -/
  variant : Bool
  corrected : Bool
  /-- A page of the image was lost. -/
  lost : Bool
  deriving DecidableEq, Repr

/-- A tile read that waits for a page: the plan, its slot, and since when. -/
structure Waiter where
  planId : W64
  slot : Nat
  since : Nat
  deriving DecidableEq, Repr

/-- A migration that has not completed (R104, R105). -/
structure Migration where
  page : Nat
  demand : Bool
  /-- A hint queued it: it counts among the 256 of the prefetch queue until it completes (R105). -/
  hinted : Bool
  frame : Option Nat
  asked : Nat
  waiters : List Waiter
  /-- The bedrock read has started. -/
  reading : Bool
  deriving DecidableEq, Repr

/-- A partition's own state beside its dictionary entries. -/
structure Part where
  fenced : Bool
  /-- Contents of the descriptor window's slots. -/
  window : NMap (BitVec 1024)
  /-- Taken descriptors whose slot the device still holds, in order of take. -/
  work : List Work
  /-- Records of ended requests not yet written, in order of ending. -/
  waiting : List Record
  plans : List Loaded
  /-- Loads under way, oldest first. -/
  loads : List LoadJob
  invs : List Invocation
  frames : NMap FrameUse
  /-- Prefetches and demand migrations not completed, oldest first. -/
  migrations : List Migration
  /-- Losses to shared resources, in ns, of the last updates, newest first, at most 100 (R313). -/
  slow : List Nat
  deriving DecidableEq, Repr

/-! ### Statistics, streams and sequences -/

/-- A statistics set record (Table 3-13); FP64 and FP32 fields as their bits. -/
structure StatSet where
  count : W64
  sumSqErr : W64
  sumSqRef : W64
  maxAbsErr : W32
  satCount : W32
  nonFinite : W32
  zeroScale : W32
  lastUpdate : W64
  deriving DecidableEq, Repr

inductive ChunkPhase where
  /-- The stream waits for a berth (R170). -/
  | wantBerth
  /-- The swap-in runs. -/
  | swapping
  /-- Ready since the time given (R166). -/
  | ready (since : Nat)
  /-- In the group's step with the given number. -/
  | inStep (n : Nat)
  deriving DecidableEq, Repr

/-- A taken chunk (Table 6-4). -/
structure Chunk where
  seq : W32
  slot : Nat
  samples : Nat
  look : Nat
  reset : Option Nat
  final : Bool
  irq : Bool
  resultAddr : Nat
  resultBytes : Nat
  tag : W64
  sealTime : Nat
  gap : Nat
  /-- The feed that sealed it (R290); none for the host. -/
  feed : Option Nat
  /-- Sequence numbers of the EXPORTs of its stream that were sealed before it and had not started (Table 6-11). -/
  behind : List W32
  payload : List Byte
  phase : ChunkPhase
  deriving DecidableEq, Repr

inductive StreamSt where
  | free | idle | frozen | exporting | moved | failed
  deriving DecidableEq, Repr

/-- A result held for the lease, in the swap slot (Table 6-11). -/
structure HeldResult where
  addr : Nat
  bytes : List Byte
  deriving DecidableEq, Repr

/-- A stream context (Table 6-2). -/
structure Stream where
  state : StreamSt
  group : Nat
  next : W32
  tag : W64
  moveCount : Nat
  berth : Option Nat
  /-- Device time at which its last step ended. -/
  lastEnd : Nat
  framesSince : Nat
  /-- Chunks missing since the last result. -/
  gap : Nat
  /-- The state image in the swap slot, as of the last chunk boundary. -/
  image : List Byte
  /-- Taken chunks in order of take. -/
  chunks : List Chunk
  heldResults : List HeldResult
  /-- The kept blob of a MOVED context. -/
  blob : List Byte
  /-- Contents of the four chunk slots. -/
  window : NMap (List Byte)
  /-- Descriptor slots of a running CLOSE and a running EXPORT; 64 for an export whose descriptor was ended while it drained. -/
  closing : Option Nat
  exporting : Option Nat
  /-- The export's destination: ticket record and blob address. -/
  exportTo : List Byte
  exportAddr : Nat
  /-- The random draw of the export's encapsulation and nonce. -/
  exportDraw : Nat
  stats : StatSet
  deriving DecidableEq, Repr

/-- A step in flight. -/
structure Step where
  num : Nat
  start : Nat
  /-- Filled lanes, from lane 0 upwards: lane and stream. -/
  lanes : List (Nat × Nat)
  replayed : Bool
  /-- Streams whose chunk met a corrected error (R113). -/
  corrected : List Nat
  deriving DecidableEq, Repr

/-- A stream group's own state. -/
structure Group where
  steps : List Step
  lastStart : Option Nat
  nextNum : Nat
  /-- Streams that wait for a berth, in order of take (R170). -/
  want : List Nat
  deriving DecidableEq, Repr

/-- An outstanding ticket (R179). -/
structure Ticket where
  value : BitVec 128
  part : Nat
  group : Nat
  issued : Nat
  expires : Nat
  deriving DecidableEq, Repr

/-- A TDM channel's FIFO (R186). -/
structure Tdm where
  fifo : List W16
  playing : Bool
  /-- Device time at which its stream was bound (R185). -/
  bound : Nat
  deriving DecidableEq, Repr

inductive SeqSt where
  | free | opened | failed
  deriving DecidableEq, Repr

/-- A sequence context with its layout and page table (R188 to R197). -/
structure Seq where
  state : SeqSt
  layers : Nat
  heads : Nat
  headSize : Nat
  fmt : Nat
  maxTokens : Nat
  length : Nat
  tag : W64
  dir : Nat
  /-- Leaf page of each directory entry in use. -/
  leaves : NMap (Option Nat)
  /-- Pool page of each mapped virtual page. -/
  pages : NMap (Option Nat)
  deriving DecidableEq, Repr

/-- A partition's KV pool: reference counts of pool pages, and pages taken out after an error (R195, R214). -/
structure Pool where
  counts : NMap Nat
  bad : List Nat
  deriving DecidableEq, Repr

/-! ### Faults -/

/-- A fault record (Table 13-3). -/
structure FaultRec where
  seq : Nat
  source : Nat
  cls : Nat
  kind : Nat
  handling : Bool
  otherUnit : Bool
  escalated : Bool
  replayed : Bool
  unit : Nat
  secondKind : Nat
  secondUnit : Nat
  merged : Nat
  raiseTime : Nat
  handleMicros : W32
  detail : W32
  deriving DecidableEq, Repr

inductive FaultMode where
  | normal | fault | halted
  deriving DecidableEq, Repr

structure Faults where
  mode : FaultMode
  /-- The last 32 records, oldest first (R349). -/
  records : List FaultRec
  /-- Records opened since manufacture: the next RecordSeq. -/
  nextSeq : Nat
  /-- Device time of the last unit-fatal event (R352). -/
  lastEvent : Nat
  /-- FAULT_N is driven low (R364). -/
  faultN : Bool
  heldPipes : List Nat
  heldEdges : List Nat
  heldCans : List Nat
  roostHeld : Bool
  /-- Channels whose retest runs after UNFENCE (Table 13-5). -/
  retest : List Nat
  /-- Times of uncorrectable errors of the last 24 h: of a physical tile, a channel, a state store bank. -/
  tileUe : NMap (List Nat)
  channelUe : NMap (List Nat)
  bankUe : NMap (List Nat)
  /-- Times of corrected errors of a scrub period, and of uncorrectable errors, of a row of a bank of a channel: (channel × 16 + bank) + 4 096 × row (R119). -/
  rowCe : NMap (List Nat)
  rowUe : NMap (List Nat)
  /-- EMCY error-register bits that fault sources hold (Table 13-8). -/
  errBits : Byte
  /-- Device time at which the running lease period ends (R366). -/
  leaseEnd : Nat
  deriving DecidableEq, Repr

/-! ### Bedrock -/

/-- A plan entry of a model's manifest (Table 14-5), with its parameter record for kinds 1 to 3. -/
structure ModelPlan where
  planId : W64
  offset : Nat
  bytes : Nat
  kind : Nat
  digest : List Byte
  params : List Byte
  deriving DecidableEq, Repr

/-- An installed model, or one being installed (Table 5-10, R147). -/
structure Model where
  /-- 0 EMPTY, 1 INSTALLING, 2 INSTALLED, 3 DEGRADED, 4 REPAIRING. -/
  state : Nat
  base : Nat
  bytes : Nat
  digest : List Byte
  planKey : List Byte
  /-- The model key, sealed to the slot (R373). -/
  key : List Byte
  plans : List ModelPlan
  imagePages : Nat
  deriving DecidableEq, Repr

/-- A stored page: its 65 536 bytes and its tag (R123). -/
structure StoredPage where
  id : PageId
  data : List Byte
  tag : List Byte
  /-- NAND block of each of its 16 data chunks and of the parity chunk: die × 2 480 + block of the die. -/
  chunks : List Nat
  deriving DecidableEq, Repr

/-- A lost-page record (Table 5-11). -/
structure LostPage where
  id : PageId
  time : Nat
  deriving DecidableEq, Repr

/-- A NAND block, since it was last written: its slot reads, and what `Bedrock.ageClock` and `Bedrock.readBase` were then. -/
structure Block where
  reads : Nat
  written : Nat
  base : Nat
  /-- Program-erase cycles since the device was made. -/
  pe : Nat
  retired : Bool
  deriving DecidableEq, Repr

/-- What a maintenance slot serves (Table 5-5). -/
inductive UpkeepKind where
  | relocate | dieRebuild | refresh | reclaim
  /-- A refresh that does not wait for the patrol pass after OFF (R140). -/
  | refreshNow
  deriving DecidableEq, Repr

/-- A piece of queued upkeep work: a block or a die. -/
structure Upkeep where
  kind : UpkeepKind
  unit : Nat
  deriving DecidableEq, Repr

/-- A page read that has begun: how far its ladder has come (R130 to R132). -/
structure PageRead where
  part : Nat
  id : PageId
  /-- The ladder step of the next slot, 0 to 6. -/
  step : Nat
  /-- The chunks still to decode: 0 to 15 data, 16 parity. -/
  left : List Nat
  /-- The chunk that the parity chunk stands for, once it is read in its place. -/
  parityFor : Option Nat
  /-- It stands for a chunk on a failed die (R143). -/
  standIn : Bool
  /-- A slot read is under way and its result is not known. -/
  inSlot : Bool
  /-- The page was rebuilt and waits for its new stripe, which is being programmed. -/
  rebuilt : Bool
  programming : Bool
  /-- Decoded, its tag good: it waits for the migration to write the frame. -/
  ready : Bool
  /-- Device time at which its retries began. -/
  since : Option Nat
  deriving DecidableEq, Repr

/-- A running install (Table 5-6). -/
structure InstallJob where
  slot : Nat
  repair : Bool
  aborting : Bool
  /-- Pages still to write, in order: weight pages, then image pages. -/
  todo : List PageId
  /-- Host address and length of the package, and the offsets of its pages and of its image area. -/
  package : Nat
  bytes : Nat
  pagesOffset : Nat
  imagesOffset : Nat
  deriving DecidableEq, Repr

structure Bedrock where
  models : NMap Model
  library : List StoredPage
  lost : List LostPage
  blocks : NMap Block
  /-- Equivalent age that every block has gained, in units of 1/60 hour times 2^−32 (R137). -/
  ageClock : Nat
  /-- Reads that starts have added to every block (R145). -/
  readBase : Nat
  /-- Spare blocks present at first start. -/
  firstSpares : Nat
  /-- Usable bytes lost with the third and later failed dies (R143). -/
  shrunk : Nat
  /-- Owner of each of the 512 wheel positions; 128 for a maintenance slot (R126). -/
  wheel : List Nat
  /-- The placement of the last commit, until the next round starts. -/
  nextWheel : Option (List Nat)
  /-- Position of the next slot. -/
  position : Nat
  reads : List PageRead
  upkeep : List Upkeep
  job : Option InstallJob
  /-- Dies being rebuilt. -/
  rebuilding : List Nat
  /-- Blocks in which a chunk failed the whole ladder, with the times, of the last 24 h (R143). -/
  ladderFails : List (Nat × Nat)
  /-- A full patrol pass runs before lower upkeep (R145). -/
  patrolFirst : Bool
  /-- The pass follows a time in OFF (R140), and the blocks that it has read. -/
  patrolOff : Bool
  patrolSeen : NMap Bool
  /-- What the last journal holds of the blocks (R145). -/
  journal : NMap Block × Nat × Nat
  deriving DecidableEq, Repr

/-! ### Cameras and image pipelines -/

/-- The parameters of a settings record (Table 8-3). -/
structure Settings where
  gen : Nat
  i2c : Bool
  ratio1 : Nat
  ratio2 : Nat
  knee0Low : Nat
  knee0High : Nat
  knee1Low : Nat
  knee1High : Nat
  gains : List W32
  writes : List W32
  /-- Bytes 0x04 to 0x23 of the record (Table 8-6). -/
  raw : List Byte
  deriving DecidableEq, Repr

/-- A settings record that was issued and applies from a later frame (R241, R242). -/
structure IssuedSettings where
  set : Settings
  /-- FrameSeq of the frame at whose start it was issued. -/
  issuedAt : Nat
  /-- FrameSeq of the first frame that carries it, once its writes are complete. -/
  applies : Option Nat
  late : Bool
  /-- `SensorI2c` at the frame of issue: the master, the target and the width of a value. -/
  i2c : Nat
  deriving DecidableEq, Repr

/-- A sensor's configuration as latched at a Frame Start (R248). -/
structure SensorCfg where
  port : Nat
  vc : Nat
  exposures : Nat
  staggered : Bool
  cfa : Nat
  dataType : Nat
  types : List Nat
  width : Nat
  height : Nat
  part : Nat
  black : List Nat
  table : List Byte
  defects : List Byte
  defectCfg : Nat
  rawBase : Nat
  rawSlots : Nat
  rawSlotBytes : Nat
  deriving DecidableEq, Repr

/-- A pipeline's configuration as latched at a Frame Start (R248). -/
structure PipeCfg where
  part : Nat
  cropX : Nat
  cropY : Nat
  cropW : Nat
  cropH : Nat
  outW : Nat
  outH : Nat
  control : Nat
  base : Nat
  bufStride : Nat
  planeStride : Nat
  lineStride : Nat
  buffers : Nat
  statsBase : Nat
  noticeAddr : Nat
  noticeCount : Nat
  invWhite : W32
  matrix : List Byte
  curve : List Byte
  deriving DecidableEq, Repr

/-- A frame being received (R224 to R227). -/
structure Frame where
  seq : Nat
  start : Nat
  cfg : SensorCfg
  set : Settings
  late : Bool
  /-- The pipeline that processes the frame, with its configuration; none when none does (R249). -/
  pipe : Option (Nat × PipeCfg)
  /-- The buffer chosen at Frame Start; none for a dropped frame (R238). -/
  buffer : Option Nat
  /-- Exposures whose Frame Start, and whose Frame End, has arrived. -/
  begun : List Nat
  ended : List Nat
  /-- Lines seen of each exposure. -/
  counts : NMap Nat
  /-- Raw codes of the good lines, by exposure × 16 384 + row. -/
  lines : NMap (List Nat)
  /-- First row that cannot exist, once one is bad. -/
  cut : Option Nat
  dropped : Nat
  long : Bool
  embedded : List Byte
  deriving DecidableEq, Repr

structure Sensor where
  frame : Option Frame
  /-- Settings in force for frames now. -/
  current : Settings
  /-- Accepted and waiting for its Frame Start. -/
  waiting : Option Settings
  issued : List IssuedSettings
  /-- Frame starts since the pipeline ran one in WATCH (R249). -/
  divided : Nat
  deriving DecidableEq, Repr

/-- A frame notice (Table 8-2). -/
structure Notice where
  frameSeq : Nat
  gen : Nat
  start : Nat
  rows : Nat
  buffer : Option Nat
  sensor : Nat
  flags : Nat
  dropped : Nat
  seq : Nat
  deriving DecidableEq, Repr

/-- A frame that a pipeline has processed: its notice, the configuration that it ran under, whether its sensor is monochrome, and for a REPROCESS its partition, descriptor slot and status. -/
structure FrameDone where
  note : Notice
  cfg : PipeCfg
  mono : Bool
  req : Option (Nat × Nat × Nat)
  deriving DecidableEq, Repr

/-- The rows of a short frame's buffer at or beyond ValidOutRows, which a dependent job reads as zero (R228). -/
structure Blank where
  base : Nat
  planes : Nat
  planeStride : Nat
  lineStride : Nat
  rowBytes : Nat
  first : Nat
  rows : Nat
  deriving DecidableEq, Repr

/-- A buffer held by a dependent job: its holder is partition × 64 + slot, or 65 536 + engine. -/
structure Hold where
  buffer : Nat
  holder : Nat
  blank : Option Blank
  deriving DecidableEq, Repr

structure Pipe where
  /-- The next buffer in rotation (R238). -/
  next : Nat
  /-- Processed frames whose notice step has not come yet, oldest first. -/
  ready : List FrameDone
  /-- Notices that wait for Bus Master Enable. -/
  unsent : List (Notice × PipeCfg)
  /-- The last 16 frames whose notice step has passed, newest first (R303). -/
  recent : List FrameDone
  /-- Buffers that dependent jobs hold, until those jobs end. -/
  holds : List Hold
  deriving DecidableEq, Repr

/-- An I²C master (R247). `busy` says that a host transaction waits or runs. -/
structure I2c where
  busy : Bool
  status : Nat
  data : List Byte
  readBytes : Nat
  /-- The target address and the bytes that the host transaction writes. -/
  host : List Byte
  /-- What has the bus: the settings record of a sensor, or the host transaction. -/
  bus : Option (Option Nat)
  /-- Sensors whose settings records wait for the bus, in order. -/
  queue : List Nat
  deriving DecidableEq, Repr

/-! ### Edge engines -/

/-- Where an engine's notices go, as its entries stood when the run began (R268, Table 9-8). -/
structure EdgeRing where
  part : Nat
  addr : Nat
  count : Nat
  control : Nat
  deriving DecidableEq, Repr

/-- A run of an edge engine (R267, R270). -/
structure EdgeJob where
  /-- Address of its program. -/
  programAddr : Nat
  ring : EdgeRing
  /-- The notice's frame: FrameSeq, Generation and SHORT for a live run. -/
  live : Bool
  part : Nat
  slot : Nat
  frameSeq : Nat
  gen : Nat
  short : Bool
  pipe : Nat
  buffer : Nat
  start : Nat
  program : List Byte
  /-- Input: base, plane stride, line stride, width, height, valid rows. -/
  input : List Nat
  /-- Output: base, plane stride, line stride. -/
  output : List Nat
  outBuffer : Nat
  /-- NoticeSeq of a live run. -/
  seq : Nat
  /-- It met a corrected error (R113). -/
  corrected : Bool
  /-- Rows of its input that read as zero (R228). -/
  blank : Option Blank
  deriving DecidableEq, Repr

structure Edge where
  job : Option EdgeJob
  /-- Edge notices that wait for Bus Master Enable: NoticeSeq and bytes. -/
  unsent : List (EdgeRing × Nat × List Byte)
  deriving DecidableEq, Repr

/-! ### Listening -/

/-- A mark record (Table 10-4). -/
structure Mark where
  index : Nat
  time : Nat
  kind : Nat
  deriving DecidableEq, Repr

/-- A feed's own state beside its entries. -/
structure Feed where
  /-- The stream context that the feed holds. -/
  stream : Option Nat
  next : Nat
  /-- Samples of the staged pre-roll, by channel, oldest first; nothing before it is staged. -/
  staged : List (List W16)
  deriving DecidableEq, Repr

/-- What a decimation chain holds (R277, R283): the integrators and combs of its CIC stage, the last inputs of its half-bands, the newest first, and the state of its high-pass. -/
structure Chain where
  integ : List Int
  comb : List Int
  half1 : List Int
  half2 : List Int
  high : Int
  deriving DecidableEq, Repr

structure Audio where
  /-- Clock of each port: 0 stopped, 1 listening, 2 active. -/
  clocks : NMap Nat
  /-- The ring runs; otherwise the device time at which it stopped. -/
  ringOn : Bool
  stoppedAt : Nat
  /-- Ring index at which the settling interval ends. -/
  settle : Option Nat
  /-- The last 64 marks, oldest first (R284). -/
  marks : List Mark
  /-- Stage 0: the plan in the roost, the hop of the running invocation, hops above the threshold so far, and the refractory period. -/
  plan : Option Plan
  hop : Option Nat
  hits : Nat
  refractory : Bool
  /-- A load of the roost's plan is due (R285). -/
  loadDue : Bool
  feeds : NMap Feed
  /-- The chains of each microphone's ring path and main path. -/
  ringPath : NMap Chain
  mainPath : NMap Chain
  /-- Stages 1 and 2: 0 STOPPED, 1 STARTING, 2 RUNNING, 3 STOPPING, 4 FAULT. -/
  stage1 : Nat
  stage2 : Nat
  /-- Device time at which each stage's window ends, and whether a hit fell in it. -/
  window1 : Nat
  window2 : Nat
  hit1 : Bool
  hit2 : Bool
  /-- Start index of each stage's feed (R289). -/
  start1 : Nat
  start2 : Nat
  /-- Plans of a stage's group when its state was last left: partition, model slot, PlanId (R293). -/
  kept1 : Option (Nat × Nat × W64)
  kept2 : Option (Nat × Nat × W64)
  deriving DecidableEq, Repr

/-! ### Power -/

structure Power where
  /-- Present state, coded as Table 12-1. -/
  state : Nat
  /-- Cap factors in units of 1/65 536: compute, memory, links; and the current factor (R334, R335). -/
  kc : Nat
  km : Nat
  kl : Nat
  ki : Nat
  /-- Thermal factor in units of 1/256 (R336). -/
  kt : Nat
  /-- The hottest sensor of the last sample, in 0.1 °C. -/
  hottest : Int
  /-- The class floors of a thermal trip hold (Table 13-4). -/
  tripped : Bool
  /-- R337's half-clock limit binds. -/
  lowSupply : Bool
  /-- Consecutive reads with the output more than 3 % low. -/
  lowReads : Nat
  /-- The cause of the half-clock limit is gone and its 10 ms run. -/
  lowTail : Bool
  /-- Consecutive AVSBus failures. -/
  avsFails : Nat
  avsFault : Bool
  /-- Throttle reasons that bind now, bit i for subindex i + 1 of Table 12-9. -/
  binding : Byte
  /-- A wake of this DORMANT or LISTEN period has been recorded (R326). -/
  woken : Bool
  /-- Demand of wakes of this period, coded as Table 12-1, until the target is reached. -/
  wakeDemand : Nat
  /-- Energy since start in nJ (R333). -/
  energyNano : Nat
  /-- The estimates of the last 100 ms in mW, newest first, at most 50 000. -/
  history : List Nat
  /-- CORE_EN is driven high. -/
  coreEn : Bool
  /-- The regulator voltage commanded over AVSBus in mV. -/
  railMv : Nat
  /-- The 32.768 kHz crystal runs (R398). -/
  xtal : Bool
  deriving DecidableEq, Repr

/-! ### Security -/

/-- A security log record (Table 14-8). -/
structure SecRec where
  seq : Nat
  kind : Nat
  part : Nat
  detail : W64
  time : Nat
  deriving DecidableEq, Repr

structure Fleet where
  id : W64
  epoch : W32
  seed : List Byte
  deriving DecidableEq, Repr

/-- An attestation report of one interface: composing, or complete. -/
structure Attest where
  nonce : BitVec 256
  scope : Nat
  /-- The 80-byte entries of the plans that the report lists. -/
  plans : List (List Byte)
  /-- Empty while it is being composed. -/
  report : List Byte
  deriving DecidableEq, Repr

structure Security where
  /-- The last 64 records, oldest first (R380). -/
  log : List SecRec
  nextSeq : Nat
  fleets : List Fleet
  attest : NMap (Option Attest)
  /-- Draws made from the DRBG since start. -/
  draws : Nat
  deriving DecidableEq, Repr

/-! ### Link and firmware -/

/-- What the model keeps of a Virkin image (Table 15-8). -/
structure Image where
  version : W32
  secVersion : W16
  raiseFloor : Bool
  handoffWrite : Nat
  features : W64
  ifaces : List W16
  digest : List Byte
  deriving DecidableEq, Repr

/-- A crash dump present in the dump areas (R408). -/
structure Dump where
  source : Nat
  cp : Nat
  component : Nat
  time : Nat
  version : W32
  digest : List Byte
  /-- The use of free values that its sections have. -/
  draw : Nat
  deriving DecidableEq, Repr

/-- What a dictionary access asks for. -/
inductive Ask where
  /-- A write of the entry's whole width. -/
  | value (v : W64)
  /-- A write of bytes as one value; an expedited one must have the entry's width. -/
  | bytes (data : List Byte)
  | expedited (data : List Byte)
  /-- The INSTALL command, with what the physical function reads of the package's front, or the failure of that read. -/
  | package (header : List Byte) (fault : Bool)
  /-- A value from a receive PDO, which is not answered. -/
  | pdo (v : W64)
  /-- A read over CAN: expedited or segmented, or as a block. -/
  | upload (block : Bool)
  deriving DecidableEq, Repr

/-- A dictionary access that waits, with the time at which it arrived (R406, R410, Table 15-11). -/
structure HeldWrite where
  fn : Iface
  index : Nat
  sub : Nat
  ask : Ask
  time : Nat
  deriving DecidableEq, Repr

structure Link where
  /-- Physical function: 0 D0, 3 D3hot, 4 D3cold. -/
  dstate : Nat
  pmeEn : Bool
  pmeStatus : Bool
  /-- 0 L0, 1 L1, 2 L1.1, 3 L1.2. -/
  aspm : Nat
  width : Nat
  speed : Nat
  numVfs : Nat
  /-- PERST_N is asserted. -/
  perst : Bool
  /-- WAKE_N is driven low (R397). -/
  wakeN : Bool
  /-- Functions whose Bus Master Enable is set: 0 the physical function, p + 1 virtual function of partition p. -/
  bme : List Nat
  /-- MSI-X messages that wait for Bus Master Enable: function and vector. -/
  msgs : List (Nat × Nat)
  /-- L in force for the chunk aperture (Table 15-3). -/
  aperture : Nat
  /-- A negotiation has reached DONE since start (R402, R403). -/
  negotiated : Bool
  image : Option Image
  startDigest : List Byte
  /-- The new image of a live update, and whether the hold has started (R406). -/
  update : Option Image
  hold : Bool
  /-- Waiting dictionary writes of the hold, oldest first. -/
  heldWrites : List HeldWrite
  /-- DOE ATTEST requests of the hold: function, nonce and Scope (Table 14-12). -/
  heldAttests : List (Iface × BitVec 256 × Nat)
  /-- Virtual-function FLRs of the hold. -/
  heldFlrs : List Nat
  /-- MARKED_READ events of the hold: partition and Detail (Table 14-12). -/
  lateMarks : List (Nat × W64)
  /-- Components restarting, and the time of each component's last trap. -/
  restarting : List Nat
  lastTrap : NMap (Option Nat)
  dump : Option Dump
  deriving DecidableEq, Repr

/-! ### The field port -/

/-- An SDO or USDO transfer in progress on a controller (R432). -/
structure Sdo where
  index : Nat
  sub : Nat
  write : Bool
  toggle : Bool
  /-- Data received so far, or data still to send. -/
  data : List Byte
  block : Bool
  deriving DecidableEq, Repr

/-- LSS state of a controller (R439). -/
structure Lss where
  configuration : Bool
  pendingNode : Option Nat
  pendingRate : Option Nat
  /-- Activated rate waiting for its switch delay, in ms. -/
  activating : Option (Nat × Nat)
  /-- Parts of the LSS address matched so far by a selective switch or fastscan. -/
  scan : Nat
  deriving DecidableEq, Repr

/-- One CAN controller. -/
structure Can where
  /-- 0 OFF, 1 INITIALISING, 2 PRE_OPERATIONAL, 3 OPERATIONAL, 4 STOPPED, 5 UNCONFIGURED. -/
  nmt : Nat
  txErr : Nat
  rxErr : Nat
  /-- 0 active, 1 passive, 2 bus-off, 3 off. -/
  err : Nat
  /-- `CanConfig` applied at the last Reset Communication. -/
  cfg : W32
  /-- Nominal rate in force, which LSS can switch. -/
  rate : Nat
  node : Nat
  sdo : Option Sdo
  lss : Lss
  /-- Queued EMCY messages, oldest first, at most 16: code, register, bytes 3 to 7. -/
  emcy : List (W16 × Byte × BitVec 40)
  /-- The EMCY inhibit time runs. -/
  inhibited : Bool
  deriving DecidableEq, Repr

/-- State of one transmit PDO (R435). -/
structure Tpdo where
  lastSent : Option Nat
  lastValue : List Byte
  syncs : Nat
  changed : Bool
  deriving DecidableEq, Repr

/-- What the device sends on its outputs, other than to memory. -/
inductive Output where
  | msix (fn : Nat) (vector : Nat)
  | pme
  | aer (name : String)
  | can (ctrl : Nat) (cobId : Nat) (data : List Byte)
  | sdo (ctrl : Nat) (code : W32) (data : List Byte)
  | lss (ctrl : Nat) (cs : Byte) (value : W32)
  | doe (fn : Iface) (status : Nat) (data : List Byte)
  | tap (instr : String) (value : Nat)
  | tdm (port : Nat) (slots : List W32)
  /-- The address and the bytes written, and how many bytes are read after a repeated start. -/
  | i2c (master : Nat) (data : List Byte) (read : Nat)
  | avs (mv : Nat)
  deriving DecidableEq, Repr

inductive TapInstr where
  | bypass | idcode | samplePreload | extest
  deriving DecidableEq, Repr

/-- Boundary scan (R454): the instruction in the register, and the boundary cells. -/
structure Tap where
  instr : TapInstr
  cells : BitVec 160
  deriving DecidableEq, Repr

/-- A domain transfer through BAR0 (R419). -/
structure Xfer where
  index : Nat
  sub : Nat
  write : Bool
  bytes : Nat
  addr : W64
  /-- Snapshot of the value for a READ (R420). -/
  data : List Byte
  deriving DecidableEq, Repr

/-- The snapshot of the staged set that a commit evaluates (R422). -/
structure Snapshot where
  vals : NMap (Option W64)
  doms : NMap (Option (List Byte))
  /-- Entries staged again since: they stay staged. -/
  later : List Nat
  deriving DecidableEq, Repr

/-- The whole device. -/
structure State where
  /-- Device time in µs. -/
  time : Nat
  /-- Uses made of free values: the model's own field. -/
  free : Nat
  fuse : Fuses
  persist : Persist
  /-- Values of dictionary entries that differ from their defaults, by interface × 2^24 + index × 2^8 + subindex. -/
  od : NMap W64
  /-- Values of string and domain entries that differ from their defaults, by index × 2^8 + subindex. -/
  dom : NMap (List Byte)
  staged : NMap (Option W64)
  stagedDom : NMap (Option (List Byte))
  snap : Option Snapshot
  xfer : NMap (Option Xfer)
  fabric : Fabric
  mem : Mem
  parts : NMap Part
  stats : NMap StatSet
  streams : NMap Stream
  groups : NMap Group
  tickets : List Ticket
  tdm : NMap Tdm
  seqs : NMap Seq
  pools : NMap Pool
  faults : Faults
  bedrock : Bedrock
  sensors : NMap Sensor
  pipes : NMap Pipe
  i2cs : NMap I2c
  edges : NMap Edge
  audio : Audio
  power : Power
  sec : Security
  link : Link
  cans : NMap Can
  tpdos : NMap Tpdo
  /-- Synchronous RPDO data waiting for the next SYNC: controller, PDO, data, oldest first. -/
  rpdoWait : List (Nat × Nat × List Byte)
  /-- Heartbeat consumers that are armed, each with the controller that received its node's last heartbeat, and those whose node was missed (R436). -/
  hbArmed : List (Nat × Nat)
  hbLost : List Nat
  tap : Tap
  /-- Parts of plans run since the last start, as uses of free values, by logical tile, and by 512 + tile for parts of convolution plans: what their holds count is free (the model's own field). -/
  holds : NMap (List Nat)
  /-- What the device has sent, newest first. -/
  out : List Output
  /-- Commands that wait, first in, first out. -/
  pending : List Instr
  deriving DecidableEq, Repr

/-! ### Reset -/

/-- The flow at cheap point 0 of an invocation: every counter 0, and no mark raised (R261). -/
def Flow.none : Flow := ⟨[], [], [], []⟩

/-- Generation 0: the settings after start (Table 8-3). -/
def Settings.first : Settings :=
  { gen := 0, i2c := false, ratio1 := 0x100, ratio2 := 0x100, knee0Low := 0, knee0High := 0xFFFFFF
    knee1Low := 0, knee1High := 0xFFFFFF, gains := [0x3F800000, 0x3F800000, 0x3F800000]
    writes := [], raw := [0, 1, 0, 1, 0, 0, 0, 0, 0xFF, 0xFF, 0xFF, 0, 0, 0, 0, 0, 0xFF, 0xFF, 0xFF, 0,
      0, 0, 0x80, 0x3F, 0, 0, 0x80, 0x3F, 0, 0, 0x80, 0x3F] }

/-- The fuses of a CT2564-B2 without defects. -/
def Fuses.plain : Fuses :=
  { b4 := false, serial := 0, testFenced := [], fieldFenced := [], tileCeiling := []
    vf := [560, 570, 580, 592, 604, 617, 630, 645, 660, 676, 693, 711, 730, 750, 771, 793, 816]
    fuseState := 0xF, floorWords := [] }

def Persist.fresh : Persist :=
  { writes := [], locked := [], fencedTiles := [], fencedChannels := [], repairs := [], floor := 0
    lowered := [], defaulted := [], fatalPending := false, unclean := false }

def Mem.clear : Mem :=
  { lost := [], tile := [], state := [], bonded := [], host := [], marks := [], poisonTile := []
    poisonState := [], poisonBonded := [], merge := [], clearing := [] }

def Faults.none : Faults :=
  { mode := .normal, records := [], nextSeq := 0, lastEvent := 0, faultN := false, heldPipes := []
    heldEdges := [], heldCans := [], roostHeld := false, retest := [], tileUe := [], channelUe := [], bankUe := [], rowCe := [], rowUe := []
    errBits := 0, leaseEnd := 0 }

def Bedrock.empty : Bedrock :=
  { models := [], library := [], lost := [], blocks := [], firstSpares := 4960
    ageClock := 0, readBase := 0, shrunk := 0
    wheel := List.replicate 512 128, nextWheel := none, position := 0, reads := [], upkeep := []
    job := none, rebuilding := [], ladderFails := [], patrolFirst := false, patrolOff := false, patrolSeen := []
    journal := ([], 0, 0) }

def Audio.quiet : Audio :=
  { clocks := [], ringOn := true, stoppedAt := 0, settle := none, marks := [], plan := none
    hop := none, hits := 0, refractory := false, loadDue := false, feeds := [], ringPath := [], mainPath := [], stage1 := 0
    stage2 := 0, window1 := 0, window2 := 0, hit1 := false, hit2 := false, start1 := 0, start2 := 0
    kept1 := none, kept2 := none }

/-- ACTIVE, every factor at 1, no limit binding. -/
def Power.active : Power :=
  { state := 4, kc := 65536, km := 65536, kl := 65536, ki := 65536, kt := 256, hottest := 0
    tripped := false, lowSupply := false, lowReads := 0, lowTail := false, avsFails := 0
    avsFault := false, binding := 0, woken := false, wakeDemand := 0, energyNano := 0, history := []
    coreEn := true, railMv := 816, xtal := true }

def Security.fresh : Security :=
  { log := [], nextSeq := 0, fleets := [], attest := [], draws := 0 }

def Link.down : Link :=
  { dstate := 0, pmeEn := false, pmeStatus := false, aspm := 0, width := 0, speed := 0, numVfs := 0
    perst := true, wakeN := false, bme := [], msgs := [], aperture := 30, negotiated := false, image := none
    startDigest := [], update := none, hold := false, heldWrites := [], heldAttests := [], heldFlrs := [], lateMarks := []
    restarting := [], lastTrap := [], dump := none }

/-- The device right after a start (Table 15-5, step 7): ACTIVE, FirmwareState NONE, every entry at its default, every memory clear, no command waiting. -/
def State.reset : State :=
  { time := 0, free := 0, fuse := Fuses.plain, persist := Persist.fresh, od := [], dom := []
    staged := [], stagedDom := [], snap := none, xfer := []
    fabric := { fenced := [], skips := [], halves := [], shifts := [], drooping := [], gaugeDue := [], lateFalls := [], walkers := [] }
    mem := Mem.clear, parts := [], stats := [], streams := [], groups := [], tickets := [], tdm := []
    seqs := [], pools := [], faults := Faults.none, bedrock := Bedrock.empty, sensors := []
    pipes := [], i2cs := [], edges := [], audio := Audio.quiet, power := Power.active
    sec := Security.fresh, link := Link.down, cans := [], tpdos := [], rpdoWait := [], hbArmed := []
    hbLost := [], tap := ⟨.idcode, 0⟩, holds := [], out := [], pending := [] }

end Sys2Proof.Machine
end

