-- ==== Sys2Proof/Machine/Ops.lean ====
section
/-! DEFINITION. The named operations over the device's registers: dictionary entries, flags and their counters, outputs, host memory, and completion records. -/

namespace Sys2Proof.Machine

/-! ### Bytes -/

/-- The little-endian value of a list of bytes (R4). -/
def leNat : List Byte → Nat
  | [] => 0
  | b :: bs => b.toNat + 256 * leNat bs

/-- The `n` little-endian bytes of a value. -/
def leBytes (n : Nat) (v : Nat) : List Byte :=
  match n with
  | 0 => []
  | n + 1 => BitVec.ofNat 8 v :: leBytes n (v / 256)

/-- `n` bytes of a list from offset `o`; bytes beyond its end read 0. -/
def slice (bs : List Byte) (o n : Nat) : List Byte :=
  let t := (bs.drop o).take n
  t ++ List.replicate (n - t.length) 0

/-- The little-endian field of `n` bytes at offset `o`. -/
def field (bs : List Byte) (o n : Nat) : Nat := leNat (slice bs o n)

/-- Bits [hi:lo] of a value. -/
def bits (v hi lo : Nat) : Nat := (v / 2 ^ lo) % 2 ^ (hi - lo + 1)

/-- Bit `i` of a value. -/
def bit (v i : Nat) : Bool := v / 2 ^ i % 2 = 1

def b2n (b : Bool) : Nat := if b then 1 else 0

/-! ### Dictionary entries -/

/-- The number of an interface in interface order (R415, R417). -/
def ifaceNo : Iface → Nat
  | .pf => 0
  | .vf p => p.val + 1
  | .can n => 129 + n.val

/-- The number of a PCI Express function: 0 physical, p + 1 the virtual function of partition p (R297). -/
def odKey (fn i sub : Nat) : Nat := fn * 16777216 + i * 256 + sub

namespace Od

/-- Bytes of the data types (Table 16-1); 0 for a type without a slot. -/
def Ty.bytes : Ty → Nat
  | .bool | .i8 | .u8 => 1
  | .i16 | .u16 => 2
  | .u32 | .r32 => 4
  | .u64 | .r64 => 8
  | .str | .oct | .dom => 0

/-- An entry's row: one that a table lists, or the HighestSubindex of an index that has subindices (R412). -/
def lookup (i sub : Nat) : Option Row :=
  match (page (i / 256)).find? (fun r => r.lo ≤ i && i ≤ r.hi && r.subLo ≤ sub && sub ≤ r.subHi) with
  | some r => some r
  | none =>
    if sub = 0 then
      match ((page (i / 256)).filter (fun r => r.lo ≤ i && i ≤ r.hi && 1 ≤ r.subHi)).map Row.subHi with
      | [] => none
      | h :: t => some ⟨i, i, 0, 0, .u8, .const, 0xFF, .val (t.foldl max h)⟩
    else none

/-- Bit 63 marks a COB-ID that still follows the node-ID (R430); no 32-bit write reaches it. -/
def followMark : Nat := 0x8000000000000000

/-- The default value of an entry. -/
def Dflt.value (sub : Nat) : Dflt → W64
  | .val n => BitVec.ofNat 64 n
  | .scaled k => BitVec.ofNat 64 (k * (sub - 1))
  | .perDevice => 0
  | .follow b => BitVec.ofNat 64 (followMark + b)

/-- What an entry reads as while no value is listed for it. -/
def default (key : Nat) : W64 :=
  let i := key / 256 % 65536
  let sub := key % 256
  match lookup i sub with
  | some r => r.dflt.value sub
  | none => 0

end Od

namespace State

/-- The value of an entry on interface `fn`. -/
def rdI (s : State) (fn i sub : Nat) : W64 := NMap.get Od.default s.od (odKey fn i sub)
/-- The value of an entry that all interfaces share. -/
def rd (s : State) (i sub : Nat) : W64 := s.rdI 0 i sub
/-- The same as a number. -/
def rdn (s : State) (i sub : Nat) : Nat := (s.rd i sub).toNat

/-- Set the value of an entry on interface `fn`. -/
def wrI (s : State) (fn i sub : Nat) (v : W64) : State :=
  { s with od := NMap.set Od.default s.od (odKey fn i sub) v }
/-- Set the value of an entry that all interfaces share. -/
def wr (s : State) (i sub : Nat) (v : W64) : State := s.wrI 0 i sub v
def wrn (s : State) (i sub v : Nat) : State := s.wr i sub (BitVec.ofNat 64 v)

/-- Add to an UNSIGNED32 counter, which wraps (R363). -/
def bump32 (s : State) (i sub n : Nat) : State := s.wrn i sub ((s.rdn i sub + n) % 4294967296)
/-- Add to an UNSIGNED64 counter. -/
def bump64 (s : State) (i sub n : Nat) : State := s.wr i sub (s.rd i sub + BitVec.ofNat 64 n)
/-- Keep the largest value seen. -/
def keepMax (s : State) (i sub n : Nat) : State := if s.rdn i sub < n then s.wrn i sub n else s

/-- The device sets flag `b` of the flag entry `i:01` and counts the event in `i:(02 + b)` (R7, R363). -/
def raise (s : State) (i b : Nat) : State :=
  (s.wr i 1 (s.rd i 1 ||| BitVec.ofNat 64 (2 ^ b))).bump32 i (2 + b) 1

/-- The value of a string or domain entry. -/
def dmn (dflt : List Byte) (s : State) (i sub : Nat) : List Byte :=
  (NMap.find (odKey 0 i sub) s.dom).getD dflt

/-- A use of a free value: the index to apply its opaque function to, and the state that has used it. -/
def draw (s : State) : Nat × State := (s.free, { s with free := s.free + 1 })

/-- Put a message on an output. -/
def emit (s : State) (o : Output) : State := { s with out := o :: s.out }

/-- Subindex of object `n` under an index of 128 objects, and the index. -/
def perObj (base n : Nat) : Nat × Nat := (base + n / 128, n % 128 + 1)

def rdObj (s : State) (base n : Nat) : Nat := s.rdn (base + n / 128) (n % 128 + 1)
def wrObj (s : State) (base n v : Nat) : State := s.wrn (base + n / 128) (n % 128 + 1) v
def bumpObj32 (s : State) (base n k : Nat) : State := s.bump32 (base + n / 128) (n % 128 + 1) k
def bumpObj64 (s : State) (base n k : Nat) : State := s.bump64 (base + n / 128) (n % 128 + 1) k

/-! ### Where the device stands -/

/-- FirmwareState reads RUNNING or UPDATING, and no fault has halted the device: Virkin serves (R398, R353). -/
def serves (s : State) : Bool :=
  (s.rdn 0x2200 1 = 2 || s.rdn 0x2200 1 = 3) && s.faults.mode ≠ .halted && s.power.state ≠ 0

/-- The device is powered and not halted. -/
def alive (s : State) : Bool := s.faults.mode ≠ .halted && s.power.state ≠ 0

/-- The feature bit is active (R402). -/
def feature (s : State) (b : Nat) : Bool := bit (s.rdn 0x2201 3) b

/-- A negotiation has reached DONE since start: what a later one rejects leaves it in force (R402, R403; DEDUCED). -/
def negotiated (s : State) : Bool := s.link.negotiated

/-- Negotiation is done, and the feature bit is not active. -/
def without (s : State) (b : Nat) : Bool := s.negotiated && !s.feature b

/-! ### Partitions -/

end State

def Part.empty : Part := ⟨false, [], [], [], [], [], [], [], [], []⟩

namespace State

def part (s : State) (p : Nat) : Part := NMap.get (fun _ => Part.empty) s.parts p
def setPart (s : State) (p : Nat) (x : Part) : State :=
  { s with parts := NMap.set (fun _ => Part.empty) s.parts p x }
def updPart (s : State) (p : Nat) (f : Part → Part) : State := s.setPart p (f (s.part p))

/-- The partitions, of the 128 that can exist (R297), that have a state of their own. -/
def partKeys (s : State) : List Nat := (NMap.keys s.parts).filter (· < 128)

/-- Partition p exists (R297). -/
def enabled (s : State) (p : Nat) : Bool := s.rdn 0x7010 (p + 1) = 1

/-! ### Host memory and messages -/

/-- The host bus address of a partition-view host address (Table 4-1). -/
def busAddr (s : State) (p addr : Nat) : Nat :=
  bits (s.rdn 0x4016 (p + 1)) 16 0 * 140737488355328 + addr % 140737488355328

/-- The host bus address that interface `fn` names in a domain transfer (R419). -/
def ifaceAddr (s : State) (fn : Iface) (addr : Nat) : Nat :=
  match fn with
  | .vf p => s.busAddr p.val addr
  | _ => addr

def hostWrite (m : NMap (Option Byte)) (a : Nat) : List Byte → NMap (Option Byte)
  | [] => m
  | b :: bs => hostWrite (NMap.set (fun _ => none) m a (some b)) (a + 1) bs

/-- The device writes bytes to host memory at a bus address. -/
def toHost (s : State) (a : Nat) (bs : List Byte) : State :=
  { s with mem := { s.mem with host := hostWrite s.mem.host a bs } }

/-- A byte of host memory as the device sees it: what it wrote or what a completion delivered; otherwise a free value. -/
def hostByte (s : State) (a : Nat) : Byte :=
  (NMap.get (fun _ => none) s.mem.host a).getD (Config.hostByte a)

def fromHost (s : State) (a : Nat) : Nat → List Byte
  | 0 => []
  | n + 1 => s.hostByte a :: fromHost s (a + 1) n

/-- Bus Master Enable of function `fn` is set (R391). -/
def busMaster (s : State) (fn : Nat) : Bool := s.link.bme.contains fn

/-- A host access met a clear Bus Master Enable: its request ends with HOST_FAULT (R112, R391). -/
def busBlocked (s : State) : State := (s.raise 0x2101 4).raise 0x4001 10

/-- Send an MSI-X message, or keep it until the function's Bus Master Enable is set (R391). -/
def msix (s : State) (fn vector : Nat) : State :=
  if s.busMaster fn then s.emit (.msix fn vector)
  else { s with link := { s.link with msgs := s.link.msgs ++ [(fn, vector)] } }

/-! ### Completion records -/

/-- The function that writes a record of partition p: the physical function for a descriptor taken through the mirror (R300). -/
def recFn (p : Nat) (r : Record) : Nat := if r.mirror then 0 else p + 1

/-- Entries of the ring that are in use. -/
def ringUsed (s : State) (p : Nat) : Nat :=
  (s.rdn 0x701A (p + 1) + 4294967296 - s.rdn 0x7019 (p + 1)) % 4294967296

/-- The ring is full (R307). -/
def ringFull (s : State) (p : Nat) : Bool := s.ringUsed p = s.rdn 0x7018 (p + 1)

/-- Nothing keeps the device from writing record `r` of partition p now (R308, R314, R353, R391). -/
def canWrite (s : State) (p : Nat) (r : Record) : Bool :=
  s.faults.mode ≠ .halted && s.rdn 0x2100 3 = 1 && !s.ringFull p && s.busMaster (recFn p r)

/-- The 32 bytes of a completion record (Table 11-4). -/
def recordBytes (r : Record) (phase : Bool) : List Byte :=
  leBytes 4 r.seq.toNat ++ leBytes 1 r.status ++ leBytes 1 r.opcode ++
  leBytes 2 (b2n r.chunk + 2 * b2n r.held + 4 * b2n r.replayed + 32768 * b2n phase) ++
  leBytes 8 r.tag.toNat ++ leBytes 2 r.stream ++ leBytes 1 r.slot ++ leBytes 1 r.detail ++
  leBytes 4 r.info.toNat ++ leBytes 8 r.endTime

/-- Release a descriptor slot: its Seal reads zero (R300). -/
def releaseSlot (s : State) (p slot : Nat) : State :=
  s.updPart p fun x =>
    { x with work := x.work.filter (fun w => w.slot ≠ slot)
             window := NMap.set (fun _ => 0) x.window slot
               ((NMap.get (fun _ => 0) x.window slot) &&& BitVec.ofNat 1024 (2 ^ 992 - 1)) }

/-- Write one record to the ring: the entry, the tail, the slot's release and the message (R306, R309). -/
def writeRecord (s : State) (p : Nat) (r : Record) : State :=
  let tail := s.rdn 0x701A (p + 1)
  let n := s.rdn 0x7018 (p + 1)
  let s1 := (r.pre.foldl (fun s (x : Nat × List Byte) => s.toHost x.1 x.2) s).toHost
    (s.busAddr p (s.rdn 0x7017 (p + 1)) + 32 * (tail % n)) (recordBytes r (tail / n % 2 = 0))
  let s2 := s1.bump32 0x701A (p + 1) 1
  let s3 := if r.chunk then s2 else s2.releaseSlot p r.slot
  match r.irq with
  | some v => if r.mirror then s3.msix 0 (16 * p + v) else s3.msix (p + 1) v
  | none => s3

/-- Write waiting records in order of ending while nothing keeps them (R308, R314); `fuel` bounds their number. -/
def flushN (p : Nat) : Nat → State → State
  | 0, s => s
  | k + 1, s =>
    match (s.part p).waiting with
    | [] => s
    | r :: rs =>
      if s.canWrite p r then
        flushN p k ((s.updPart p fun x => { x with waiting := rs }).writeRecord p r)
      else s.updPart p fun x => { x with waiting := x.waiting.map fun r => { r with held := true } }

def flush (s : State) (p : Nat) : State := flushN p (s.part p).waiting.length s

/-- A request of partition p ends with record `r`: it joins the records in order of ending, and is written when nothing keeps it. A record that meets a full ring sets RING_FULL (R306, R308). -/
def endWith (s : State) (p : Nat) (r : Record) : State :=
  let s1 := if s.ringFull p then s.raise 0x7001 1 else s
  (s1.updPart p fun x => { x with waiting := x.waiting ++ [r] }).flush p

/-- Flush the records of every partition that has some. -/
def flushAll (s : State) : State := s.partKeys.foldl flush s

end State

/-! ### Descriptor fields (Table 11-1) -/

/-- The field of `n` bytes at byte offset `o` of a descriptor. -/
def dfield (raw : BitVec 1024) (o n : Nat) : Nat := raw.toNat / 2 ^ (8 * o) % 2 ^ (8 * n)

def dSeq (raw : BitVec 1024) : Nat := dfield raw 0 4
def dOpcode (raw : BitVec 1024) : Nat := dfield raw 4 1
def dFlags (raw : BitVec 1024) : Nat := dfield raw 5 1
def dVector (raw : BitVec 1024) : Nat := dfield raw 6 1
def dPriority (raw : BitVec 1024) : Nat := dfield raw 7 1
def dTag (raw : BitVec 1024) : Nat := dfield raw 8 8
def dWaitPipe (raw : BitVec 1024) : Nat := dfield raw 0x18 1
def dWaitSeq (raw : BitVec 1024) : Nat := dfield raw 0x1C 4
/-- The field of `n` bytes at body offset `o`. -/
def dBody (raw : BitVec 1024) (o n : Nat) : Nat := dfield raw (0x20 + o) n
def dSeal (raw : BitVec 1024) : Nat := dfield raw 0x7C 4

/-- The record of a descriptor that ends (Table 11-4). -/
def Work.record (w : Work) (status detail info time : Nat) (replayed : Bool) : Record :=
  { seq := BitVec.ofNat 32 (dSeq w.raw), status := status, opcode := dOpcode w.raw
    chunk := false, held := false, replayed := replayed
    tag := BitVec.ofNat 64 (dTag w.raw), stream := 0xFFFF, slot := w.slot
    detail := detail, info := BitVec.ofNat 32 info, endTime := time
    irq := if bit (dFlags w.raw) 0 then some (dVector w.raw % 16) else none
    mirror := w.mirror, pre := [] }

def Pipe.idle : Pipe := ⟨0, [], [], [], []⟩

/-- Byte address `a` lies in one of the rows. -/
def Blank.has (b : Blank) (a : Nat) : Bool :=
  let d := a - b.base
  b.base ≤ a && d / b.planeStride < b.planes && d % b.planeStride % b.lineStride < b.rowBytes &&
  b.first ≤ d % b.planeStride / b.lineStride && d % b.planeStride / b.lineStride < b.rows

/-- Bytes read from address `a` on, zero where a short frame has no row (R228). -/
def blanked (b : Option Blank) (a : Nat) (bs : List Byte) : List Byte :=
  match b with
  | none => bs
  | some x => bs.zipIdx.map fun (y : Byte × Nat) => if x.has (a + y.2) then 0 else y.1

namespace State

def findWork (s : State) (p slot : Nat) : Option Work :=
  (s.part p).work.find? (fun w => w.slot = slot)

def setPhase (s : State) (p slot : Nat) (ph : WorkPhase) : State :=
  s.updPart p fun x =>
    { x with work := x.work.map fun w => if w.slot = slot then { w with phase := ph } else w }

def pipe (s : State) (k : Nat) : Pipe := NMap.get (fun _ => Pipe.idle) s.pipes k
def setPipe (s : State) (k : Nat) (x : Pipe) : State :=
  { s with pipes := NMap.set (fun _ => Pipe.idle) s.pipes k x }
def updPipe (s : State) (k : Nat) (f : Pipe → Pipe) : State := s.setPipe k (f (s.pipe k))

/-- The job of holder `h` ends: it holds no buffer any more (R238). -/
def dropHolds (s : State) (h : Nat) : State :=
  (NMap.keys s.pipes).foldl (fun s k => s.updPipe k fun x => { x with holds := x.holds.filter fun y => y.holder ≠ h }) s

/-- The rows that the job of holder `h` reads as zero (R228). -/
def blankOf (s : State) (h : Nat) : Option Blank :=
  (NMap.keys s.pipes).findSome? fun k => ((s.pipe k).holds.find? fun y => y.holder = h).bind Hold.blank

/-- The descriptor in `slot` ends with a status, and writes bytes to host memory with its record; its slot is held until its record is written (R300, R306). -/
def endWorkWith (s : State) (p slot status detail info : Nat) (replayed : Bool) (pre : List (Nat × List Byte)) : State :=
  match (s.findWork p slot).filter fun w => w.phase ≠ .ended with
  | none => s
  | some w =>
    ((s.setPhase p slot .ended).dropHolds (p * 64 + slot)).endWith p { w.record status detail info s.time replayed with pre := pre }

/-- The descriptor in `slot` ends with a status. -/
def endWork (s : State) (p slot status detail info : Nat) (replayed : Bool) : State :=
  s.endWorkWith p slot status detail info replayed []

end State

end Sys2Proof.Machine
end

