-- ==== Sys2Proof/Machine/Clock.lean ====
section
/-! DEFINITION. What the device does while no command waits: its time advances. -/

namespace Sys2Proof.Machine

/-- One microsecond of device time passes, unless the device is OFF (DESIGN CHOICE: what a step does on an empty queue). -/
def State.tick (s : State) : State := if s.power.state = 0 then s else { s with time := s.time + 1 }

end Sys2Proof.Machine
end

