-- ==== Sys2Proof/Machine/Float.lean ====
section
/-! DEFINITION. Floating-point arithmetic with round to nearest, ties to even, done exactly and rounded once (R54, R55, Tables 3-2 and 3-3). -/

namespace Sys2Proof.Machine

/-- A binary format: exponent bits and fraction bits. -/
structure Fmt where
  ebits : Nat
  mbits : Nat
  deriving DecidableEq, Repr

namespace Fmt
def f32 : Fmt := ⟨8, 23⟩
def f64 : Fmt := ⟨11, 52⟩
def bf16 : Fmt := ⟨8, 7⟩
def f16 : Fmt := ⟨5, 10⟩
def e5m2 : Fmt := ⟨5, 2⟩
def e4m3 : Fmt := ⟨4, 3⟩
def bias (f : Fmt) : Int := 2 ^ (f.ebits - 1) - 1
/-- Exponent of the least normal value. -/
def emin (f : Fmt) : Int := 1 - f.bias
end Fmt

/-- What the bits of a floating-point value stand for: m × 2^e with a sign, an infinity, or NaN. -/
inductive Num where
  | nan
  | inf (neg : Bool)
  | fin (neg : Bool) (m : Nat) (e : Int)
  deriving DecidableEq, Repr

namespace Num

/-- The signed integer m. -/
def sgn (neg : Bool) (m : Nat) : Int := if neg then -(m : Int) else m

def isNeg : Num → Bool
  | .nan => false
  | .inf n => n
  | .fin n _ _ => n

def isFinite : Num → Bool
  | .fin _ _ _ => true
  | _ => false

def neg : Num → Num
  | .nan => .nan
  | .inf n => .inf (!n)
  | .fin n m e => .fin (!n) m e

def abs : Num → Num
  | .nan => .nan
  | .inf _ => .inf false
  | .fin _ m e => .fin false m e

/-- The exact integer as a number. -/
def ofInt (i : Int) : Num := .fin (i < 0) i.natAbs 0

/-- The exact sum. -/
def add : Num → Num → Num
  | .nan, _ | _, .nan => .nan
  | .inf a, .inf b => if a = b then .inf a else .nan
  | .inf a, _ => .inf a
  | _, .inf b => .inf b
  | .fin a m e, .fin b n f =>
    let g := min e f
    let x := sgn a (m * 2 ^ (e - g).toNat) + sgn b (n * 2 ^ (f - g).toNat)
    if x = 0 then .fin (a && b) 0 g else .fin (x < 0) x.natAbs g

def sub (x y : Num) : Num := x.add y.neg

/-- The exact product. -/
def mul : Num → Num → Num
  | .nan, _ | _, .nan => .nan
  | .inf a, .inf b => .inf (a != b)
  | .inf a, .fin b n _ => if n = 0 then .nan else .inf (a != b)
  | .fin a m _, .inf b => if m = 0 then .nan else .inf (a != b)
  | .fin a m e, .fin b n f => .fin (a != b) (m * n) (e + f)

/-- `a < b`; false when either is NaN. -/
def lt : Num → Num → Bool
  | .nan, _ | _, .nan => false
  | .inf a, .inf b => a && !b
  | .inf a, .fin _ _ _ => a
  | .fin _ _ _, .inf b => !b
  | .fin a m e, .fin b n f =>
    let g := min e f
    sgn a (m * 2 ^ (e - g).toNat) < sgn b (n * 2 ^ (f - g).toNat)

def le (a b : Num) : Bool :=
  match a, b with
  | .nan, _ | _, .nan => false
  | _, _ => !b.lt a

/-- The nearest integer, ties to even; 0 for NaN and infinities. -/
def rint : Num → Int
  | .fin a m e =>
    if 0 ≤ e then sgn a (m * 2 ^ e.toNat)
    else
      let d := (-e).toNat
      let q := m / 2 ^ d
      let r := m % 2 ^ d
      let half := 2 ^ (d - 1)
      sgn a (if half < r || (r = half && q % 2 = 1) then q + 1 else q)
  | _ => 0

/-- The largest integer that is not above the value; 0 for NaN and infinities. -/
def floor : Num → Int
  | .fin a m e => if 0 ≤ e then sgn a (m * 2 ^ e.toNat) else sgn a m / (2 ^ (-e).toNat : Int)
  | _ => 0

end Num

/-- Round m × 2^e, plus something below its last bit when `sticky`, to `p` fraction bits with quantum exponent at least `qmin`: the rounded significand and its exponent. -/
def roundQ (p : Nat) (qmin : Int) (m : Nat) (e : Int) (sticky : Bool) : Nat × Int :=
  if m = 0 then (0, qmin)
  else
    let q := max (e + (Nat.log2 m : Nat) - p) qmin
    if q ≤ e then (m * 2 ^ (e - q).toNat, q)
    else
      let d := (q - e).toNat
      let t := m / 2 ^ d
      let r := m % 2 ^ d
      let half := 2 ^ (d - 1)
      let up := half < r || (r = half && (sticky || t % 2 = 1))
      let t1 := if up then t + 1 else t
      if t1 = 2 ^ (p + 1) then (2 ^ p, q + 1) else (t1, q)

namespace Fmt

/-- The bits of ±t × 2^q, already rounded; an exponent beyond the format gives an infinity. -/
def pack (f : Fmt) (neg : Bool) (t : Nat) (q : Int) : Nat :=
  let s := if neg then 2 ^ (f.ebits + f.mbits) else 0
  if t < 2 ^ f.mbits then s + t
  else
    let ex := (q + f.mbits + f.bias).toNat
    if 2 ^ f.ebits - 1 ≤ ex then s + (2 ^ f.ebits - 1) * 2 ^ f.mbits
    else s + ex * 2 ^ f.mbits + (t - 2 ^ f.mbits)

/-- The canonical NaN: 0x7FC0_0000 in FP32 (R54). -/
def nan (f : Fmt) : Nat := (2 ^ f.ebits - 1) * 2 ^ f.mbits + 2 ^ (f.mbits - 1)

/-- The bits of a number rounded with RNE; `sticky` says that the exact value lies a little further from zero. -/
def roundS (f : Fmt) (sticky : Bool) : Num → Nat
  | .nan => f.nan
  | .inf n => (if n then 2 ^ (f.ebits + f.mbits) else 0) + (2 ^ f.ebits - 1) * 2 ^ f.mbits
  | .fin n m e =>
    let r := roundQ f.mbits (f.emin - f.mbits) m e sticky
    f.pack n r.1 r.2

def round (f : Fmt) (x : Num) : Nat := f.roundS false x

/-- What bits of an IEEE format stand for. -/
def decode (f : Fmt) (b : Nat) : Num :=
  let neg := b / 2 ^ (f.ebits + f.mbits) % 2 = 1
  let ex := b / 2 ^ f.mbits % 2 ^ f.ebits
  let fr := b % 2 ^ f.mbits
  if ex = 2 ^ f.ebits - 1 then (if fr = 0 then .inf neg else .nan)
  else if ex = 0 then .fin neg fr (f.emin - f.mbits)
  else .fin neg (2 ^ f.mbits + fr) ((ex : Int) - f.bias - f.mbits)

/-- FP8 E4M3: NaN is S.1111.111 and there are no infinities (Table 3-2). -/
def decodeE4m3 (b : Nat) : Num :=
  let neg := b / 128 % 2 = 1
  let ex := b / 8 % 16
  let fr := b % 8
  if ex = 15 && fr = 7 then .nan
  else if ex = 0 then .fin neg fr (-9)
  else .fin neg (8 + fr) ((ex : Int) - 10)

end Fmt

/-! ### FP32 operations (R54) -/

namespace F32

def num (a : W32) : Num := Fmt.f32.decode a.toNat
def ofNum (x : Num) : W32 := BitVec.ofNat 32 (Fmt.f32.round x)
def qnan : W32 := 0x7FC00000
def zero : W32 := 0
def one : W32 := 0x3F800000
def half : W32 := 0x3F000000
def posInf : W32 := 0x7F800000
def negInf : W32 := 0xFF800000

def add (a b : W32) : W32 := ofNum ((num a).add (num b))
def sub (a b : W32) : W32 := ofNum ((num a).sub (num b))
def mul (a b : W32) : W32 := ofNum ((num a).mul (num b))
/-- a × b + c with one rounding. -/
def fma (a b c : W32) : W32 := ofNum (((num a).mul (num b)).add (num c))
def ofInt (i : Int) : W32 := ofNum (Num.ofInt i)

/-- Correctly rounded quotient of two numbers. -/
def divNum : Num → Num → W32
  | .nan, _ | _, .nan => qnan
  | .inf _, .inf _ => qnan
  | .inf a, .fin b _ _ => if a != b then negInf else posInf
  | .fin a _ _, .inf b => ofNum (.fin (a != b) 0 0)
  | .fin a m e, .fin b n f =>
    if n = 0 then (if m = 0 then qnan else if a != b then negInf else posInf)
    else
      let k := 64 + Nat.log2 n
      let q := m * 2 ^ k / n
      let r := m * 2 ^ k % n
      BitVec.ofNat 32 (Fmt.f32.roundS (r ≠ 0) (.fin (a != b) q (e - f - k)))

def div (a b : W32) : W32 := divNum (num a) (num b)

def lt (a b : W32) : Bool := (num a).lt (num b)
def le (a b : W32) : Bool := (num a).le (num b)
def isNan (a : W32) : Bool := num a = .nan
def isFinite (a : W32) : Bool := (num a).isFinite
def abs (a : W32) : W32 := a &&& 0x7FFFFFFF
def neg (a : W32) : W32 := if isNan a then qnan else a ^^^ 0x80000000

/-- The maximum, NaN when either is NaN (R79). -/
def max (a b : W32) : W32 := if isNan a || isNan b then qnan else if lt a b then b else a
def min (a b : W32) : W32 := if isNan a || isNan b then qnan else if lt b a then b else a
def clamp (x lo hi : W32) : W32 := if isNan x then qnan else if lt x lo then lo else if lt hi x then hi else x

/-- RNE of n / d as an FP32 constant. -/
def ratio (n d : Nat) : W32 := divNum (.fin false n 0) (.fin false d 0)

/-! ### The functions whose value the manual bounds (R75, R76, R235, Table 3-10)

The manual gives a bound on each of them and no value: the value is a free one of Config, brought to the nearest end of the bound when it lies outside. The exact function is worked out to more than 60 bits, and each bound is 2^−60 of its own scale wider than the manual's. -/

/-- The next value above, and below, a finite value. -/
def up (r : W32) : W32 := if r = 0x80000000 then 1 else if r.msb then r - 1 else r + 1
def down (r : W32) : W32 := if r = 0 then 0x80000001 else if r.msb then r + 1 else r - 1

/-- The least value that is not below a number, and the greatest that is not above it. -/
def roundUp (x : Num) : W32 := if (num (ofNum x)).lt x then up (ofNum x) else ofNum x
def roundDown (x : Num) : W32 := if x.lt (num (ofNum x)) then down (ofNum x) else ofNum x

/-- The value, or the end of [lo, hi] that is nearer to it. -/
def within (lo hi : Num) (v : W32) : W32 :=
  if isNan v || (num v).lt lo then roundUp lo else if hi.lt (num v) then roundDown hi else v

/-- A value within one unit in the last place of an exact number. -/
def nearby (x : Num) (v : W32) : W32 :=
  let r := ofNum x
  if (num r).lt x then within (num r) (num (up r)) v
  else if x.lt (num r) then within (num (down r)) (num r) v
  else within (num (down r)) (num (up r)) v

/-- `n` in units of 2^−256. -/
def fixed (n : Int) : Num := .fin (n < 0) n.natAbs (-256)

/-- A value whose distance from `x` is at most `d`, both in units of 2^−256. -/
def nearFixed (x : Int) (d : Nat) (v : W32) : W32 := within (fixed (x - d)) (fixed (x + d)) v

/-- The magnitude of a finite value in units of 2^−256; the least FP32 value is 2^−149. -/
def magnitude : Num → Nat
  | .fin _ m e => m * 2 ^ (e + 256).toNat
  | _ => 0

/-- e^(−t), t and the result in units of 2^−256: the exponential series at t / 256, squared eight times; 0 from t = 128 on. -/
def expNeg (t : Nat) : Nat :=
  if 128 * 2 ^ 256 ≤ t then 0
  else
    let u := t / 256
    let series := (List.range 60).foldl (fun (a : Int × Int) (k : Nat) =>
      (a.1 + a.2, -(a.2 * u / (2 ^ 256 * (k + 1 : Int))))) ((0, 2 ^ 256) : Int × Int)
    (List.range 8).foldl (fun (x : Nat) _ => x * x / 2 ^ 256) series.1.toNat

/-- 1 / (1 + e^(−z)) for z of the given sign and magnitude, in units of 2^−256. -/
def logistic (neg : Bool) (t : Nat) : Nat :=
  let e := expNeg t
  (if neg then e else 2 ^ 256) * 2 ^ 256 / (2 ^ 256 + e)

/-- The largest of `f 0`, …, `f n`: a function of `n` that never falls, and is `f` itself where `f` never falls (R76). -/
def peak (f : Nat → W32) : Nat → W32
  | 0 => f 0
  | n + 1 => if lt (peak f n) (f (n + 1)) then f (n + 1) else peak f n

/-- The place of a value that is not NaN in the order of all of them, from −∞ at 0 over both zeros to +∞; and the value at a place. -/
def rank (y : W32) : Nat :=
  let m := (y &&& 0x7FFFFFFF).toNat
  if y.msb then 0x7F800000 - m else 0x7F800000 + m
def ranked (n : Nat) : W32 :=
  if n < 0x7F800000 then BitVec.ofNat 32 (0x80000000 + (0x7F800000 - n)) else BitVec.ofNat 32 (n - 0x7F800000)

/-- The magnitude of a value in units of 2^−256, large enough for the limit of every function here when it is infinite. -/
def reach (y : W32) : Nat := if isFinite y then magnitude (num y) else 2 ^ 400

/-- A value within 2^−23 of the logistic function, in [0, 1]. -/
def sigmoidNear (y : W32) : W32 :=
  clamp (nearFixed (logistic (num y).isNeg (reach y)) (2 ^ 233 + 2 ^ 196) (clamp (Config.sigmoid y) zero one)) zero one

/-- SIGMOID: within [0, 1], within 2^−23 of its value, and never falling as its argument rises: the free value at an argument is raised to the largest at any argument below it. -/
def sigmoid (y : W32) : W32 :=
  if isNan y then qnan else peak (fun n => sigmoidNear (ranked n)) (rank y)

/-- A value within 2^−22 of the hyperbolic tangent of y ≥ 0, in [0, 1]. -/
def tanhNear (y : W32) : W32 :=
  let e := expNeg (2 * reach y)
  clamp (nearFixed ((2 ^ 256 - e) * 2 ^ 256 / (2 ^ 256 + e) : Nat) (2 ^ 234 + 2 ^ 196) (Config.tanh y)) zero one

/-- TANH: within [−1, 1], odd, ±1 for |y| ≥ 9, within 2^−22 of its value, and never falling as its argument rises. -/
def tanh (y : W32) : W32 :=
  if isNan y then qnan
  else
    let m := if le 0x41100000 (abs y) then one else peak (fun n => tanhNear (BitVec.ofNat 32 n)) (abs y).toNat
    if (num y).isNeg then m ^^^ 0x80000000 else m

/-- The exponential inside SOFTMAX: exactly 0 below −104 (R213), of relative error at most 2^−22 where the result is 2^−126 or more, and from 0 to 2^−126 where it is less, which keeps SOFTMAX's output within its own bound (DEDUCED). -/
def exp (y : W32) : W32 :=
  if isNan y then qnan
  else if lt y 0xC2D00000 then zero
  else
    let e := expNeg (magnitude (num y))
    let x := if (num y).isNeg then e else if e = 0 then 0 else 2 ^ 512 / e
    if !isFinite y then Config.exp y
    else if 2 ^ 130 ≤ x then nearFixed x (x / 2 ^ 22 + x / 2 ^ 60) (Config.exp y)
    else within (fixed 0) (fixed (2 ^ 130)) (Config.exp y)

/-- The integer square root of a number below 2^600. -/
def isqrt (n : Nat) : Nat :=
  (List.range 300).foldl (fun (r : Nat) (i : Nat) => if (r + 2 ^ (299 - i)) * (r + 2 ^ (299 - i)) ≤ n then r + 2 ^ (299 - i) else r) 0

/-- The reciprocal square root inside the norms: of relative error at most 2^−22. -/
def rsqrt (y : W32) : W32 :=
  match num y with
  | .nan => qnan
  | .inf _ => Config.rsqrt y
  | .fin neg m e =>
    if neg || m = 0 then Config.rsqrt y
    else
      let even := e % 2 = 0
      let r := isqrt (2 ^ 512 / (if even then m else 2 * m))
      let d := r / 2 ^ 22 + r / 2 ^ 60
      let half := (if even then e else e - 1) / 2
      within (.fin false (r - d) (-256 - half)) (.fin false (r + d) (-256 - half)) (Config.rsqrt y)

/-- 2^60 × log2 of 1.m, for m in [2^200, 2^201): one bit for each squaring. -/
def logBits (x : Nat) : Nat :=
  ((List.range 62).foldl (fun (a : Nat × Nat) _ =>
    let y := a.1 * a.1 / 2 ^ 200
    if 2 ^ 201 ≤ y then (y / 2, 2 * a.2 + 1) else (y, 2 * a.2)) (x, 0)).2 / 4

/-- log2 of the tone stage: within 2^−20 of its value for a positive argument (R235). -/
def log2 (y : W32) : W32 :=
  match num y with
  | .nan => qnan
  | .inf _ => Config.log2 y
  | .fin neg m e =>
    if neg || m = 0 then Config.log2 y
    else
      let l := Nat.log2 m
      let bits := logBits (m * 2 ^ 200 / 2 ^ l)
      let x : Int := ((e + (l : Int)) * 2 ^ 60 + (bits : Int)) * 2 ^ 196
      nearFixed x (2 ^ 236 + 2 ^ 198) (Config.log2 y)

/-- √(2/π) in units of 2^−256, from its first 40 decimals. -/
def rootTwoOverPi : Nat := 7978845608028653558798921198687637369517 * 2 ^ 256 / 10 ^ 40

/-- GELU, tanh form, 0.5 y (1 + tanh(√(2/π) (y + 0.044715 y³))): within 2^−20 × max(1, |y|) of its value for a finite argument. -/
def gelu (y : W32) : W32 :=
  if isNan y then qnan
  else if !isFinite y then Config.gelu y
  else
    let t := magnitude (num y)
    let neg := (num y).isNeg
    let inner := t + 44715 * t * t * t / (2 ^ 512 * 1000000)
    let v : Nat := t * logistic neg (2 * rootTwoOverPi * inner / 2 ^ 256) / 2 ^ 256
    let d : Nat := Nat.max (2 ^ 256) t
    nearFixed (if neg then -(v : Int) else (v : Int)) (d / 2 ^ 20 + d / 2 ^ 60) (Config.gelu y)

/-- HARD_SIGMOID: within one unit in the last place of y × RNE(1/6) + 0.5, and clamped. -/
def hardSigmoid (y : W32) : W32 :=
  if isNan y then qnan
  else
    let x := ((num y).mul (num (ratio 1 6))).add (num half)
    clamp (if x.isFinite then nearby x (Config.hardSigmoid y) else ofNum x) zero one

def hardTanh (y : W32) : W32 := clamp y (0xBF800000) one

/-- Hard-swish: within one unit in the last place of y × HARD_SIGMOID(y). -/
def hardSwish (y : W32) : W32 :=
  let x := (num y).mul (num (hardSigmoid y))
  if x.isFinite then nearby x (Config.hardSwish y) else ofNum x

/-- ACT with its Value (Table 3-9). -/
def act (v : Nat) (y : W32) : W32 :=
  if v = 0 then (if isNan y then qnan else if lt y zero then zero else y)
  else if v = 1 then clamp y zero 0x40C00000
  else if v = 2 then mul y (sigmoid y)
  else if v = 3 then gelu y
  else hardSwish y

end F32

/-! ### Conversions (R55, Table 3-3) -/

/-- A value converted to a narrower format: its code, whether it was beyond range, and whether it was not finite. -/
structure Conv where
  code : Int
  sat : Bool
  nonFinite : Bool
  deriving DecidableEq, Repr

/-- Conversion to an integer range. -/
def convInt (lo hi : Int) (x : Num) : Conv :=
  match x with
  | .nan => ⟨0, false, true⟩
  | .inf n => ⟨if n then lo else hi, true, true⟩
  | .fin _ _ _ =>
    let r := x.rint
    ⟨max lo (min hi r), r < lo || hi < r, false⟩

/-- Conversion to FP8 E4M3: ±448 beyond range, 0x7F for NaN and infinities. -/
def convE4m3 : Num → Conv
  | .nan | .inf _ => ⟨0x7F, false, true⟩
  | .fin n m e =>
    let r := roundQ 3 (-9) m e false
    let above := (Num.fin false 448 0).lt (.fin false r.1 r.2)
    if above then ⟨if n then 0xFE else 0x7E, true, false⟩
    else
      let s : Int := if n then 128 else 0
      ⟨s + (if r.1 < 8 then (r.1 : Int) else (r.2 + 10) * 8 + (r.1 - 8)), false, false⟩

/-- Conversion to FP8 E5M2: ±57 344 beyond range. -/
def convE5m2 : Num → Conv
  | .nan => ⟨0x7F, false, true⟩
  | .inf n => ⟨if n then 0xFC else 0x7C, false, true⟩
  | .fin n m e =>
    let r := roundQ 2 (-16) m e false
    let above := (Num.fin false 57344 0).lt (.fin false r.1 r.2)
    if above then ⟨if n then 0xFB else 0x7B, true, false⟩
    else ⟨Fmt.e5m2.pack n r.1 r.2, false, false⟩

/-- Conversion to BF16: ±∞ beyond range. -/
def convBf16 (x : Num) : Conv :=
  match x with
  | .nan => ⟨0x7FC0, false, true⟩
  | .inf n => ⟨if n then 0xFF80 else 0x7F80, false, true⟩
  | .fin _ _ _ =>
    let b := Fmt.bf16.round x
    ⟨b, b % 32768 = 0x7F80, false⟩

/-- FP64 addition of an exact number (R82). -/
def f64Add (a : W64) (x : Num) : W64 :=
  BitVec.ofNat 64 (Fmt.f64.round ((Fmt.f64.decode a.toNat).add x))

end Sys2Proof.Machine
end

