-- ==== Sys2Proof/Machine/Pixel.lean ====
section
/-! DEFINITION. The stages of an image pipeline, bit for bit: linearisation, exposure merge, defect correction, demosaicing, colour, tone, scaling, output formats and statistics (R226, R230 to R237, R243, R244). -/

namespace Sys2Proof.Machine

/-- Bits of a RAW data type (R219). -/
def rawBits (dt : Nat) : Nat :=
  if dt = 0x2A then 8 else if dt = 0x2B then 10 else if dt = 0x2C then 12
  else if dt = 0x2D then 14 else if dt = 0x2E then 16 else 20

/-- CFA phase of a site. -/
def phaseOf (x y : Nat) : Nat := y % 2 * 2 + x % 2

/-- Colour of a site: 0 R, 1 G, 2 B (Table 8-11). -/
def siteColour (cfa x y : Nat) : Nat :=
  let p := phaseOf x y
  if cfa = 0 then (if p = 0 then 0 else if p = 3 then 2 else 1)
  else if cfa = 1 then (if p = 1 then 0 else if p = 2 then 2 else 1)
  else if cfa = 2 then (if p = 2 then 0 else if p = 1 then 2 else 1)
  else if cfa = 3 then (if p = 3 then 0 else if p = 0 then 2 else 1)
  else 1

namespace SensorCfg

/-- Entry of the linearisation table; an unwritten table holds i × 4 096. -/
def tableAt (c : SensorCfg) (i : Nat) : Nat :=
  if c.table.isEmpty then i * 4096 else field c.table (4 * i) 4 % 16777216

/-- R230: the linear value of a raw code. -/
def linear (c : SensorCfg) (x y code : Nat) : Nat :=
  let b := rawBits c.dataType
  let l :=
    if b ≤ 12 then c.tableAt (code * 2 ^ (12 - b))
    else
      let i := code / 2 ^ (b - 12)
      let f := code % 2 ^ (b - 12)
      let t0 : Int := c.tableAt i
      let t1 : Int := c.tableAt (min (i + 1) 4095)
      (t0 + (t1 - t0) * f / (2 ^ (b - 12) : Nat)).toNat
  l - (c.black[phaseOf x y]?).getD 0

def isBayer (c : SensorCfg) : Bool := c.cfa ≠ 4
/-- Distance of same-colour neighbours. -/
def dist (c : SensorCfg) : Nat := if c.isBayer then 2 else 1

/-- Defect-list membership (R248). -/
def listed (c : SensorCfg) (x y : Nat) : Bool :=
  (List.range (c.defects.length / 4)).any fun i => field c.defects (4 * i) 4 = y * 65536 + x

end SensorCfg

/-- R231: two exposures merged; all terms exact. -/
def mergeTwo (a b ratio lo hi : Nat) : Nat :=
  let w : Int := max 0 (min 256 (((hi : Int) - a) * 256 / ((hi : Int) - lo)))
  let s : Int := (w * a * 256 + (256 - w) * b * ratio + 32768) / 65536
  (min s 0xFFFFFFFF).toNat

/-- R231: the merged value of a site. `code e x y` is the raw code of exposure e. -/
def merged (c : SensorCfg) (t : Settings) (code : Nat → Nat → Nat → Nat) (x y : Nat) : Nat :=
  let v (e : Nat) := c.linear x y (code e x y)
  if c.exposures ≤ 1 then v 0
  else if c.exposures = 2 then mergeTwo (v 0) (v 1) t.ratio1 t.knee0Low t.knee0High
  else mergeTwo (v 0) (mergeTwo (v 1) (v 2) t.ratio2 t.knee1Low t.knee1High) t.ratio1 t.knee0Low t.knee0High

/-- A coordinate at distance `d` below or above `x`, mirrored at a true edge. -/
def below (x d : Nat) : Nat := if x < d then x + d else x - d
def above (x d n : Nat) : Nat := if n ≤ x + d then x - d else x + d

/-- The 8 same-colour neighbours, the 4 cross ones first. -/
def neighbours (m : Nat → Nat → Nat) (w h d x y : Nat) : List Nat :=
  let l := below x d
  let r := above x d w
  let u := below y d
  let b := above y d h
  [m l y, m r y, m x u, m x b, m l u, m r u, m l b, m r b]

def insertSorted (v : Nat) : List Nat → List Nat
  | [] => [v]
  | a :: as => if v ≤ a then v :: a :: as else a :: insertSorted v as

/-- Floor of the mean of the middle two of four values. -/
def middleTwo (l : List Nat) : Nat :=
  let s := l.foldr insertSorted []
  ((s[1]?).getD 0 + (s[2]?).getD 0) / 2

/-- R232: which defect rule replaces a site: 0 none, 1 the list, 2 detection. -/
def defectKind (c : SensorCfg) (m : Nat → Nat → Nat) (x y : Nat) : Nat :=
  if bit c.defectCfg 7 && c.listed x y then 1
  else if bit c.defectCfg 6 then
    let n := neighbours m c.width c.height c.dist x y
    let hi := n.foldl max 0
    let lo := n.foldl min (n.headD 0)
    let fl := c.defectCfg / 256
    let sh := c.defectCfg % 16
    let v := m x y
    if hi + fl + hi / 2 ^ sh < v || v + fl + lo / 2 ^ sh < lo then 2 else 0
  else 0

/-- R232: the corrected value of a frame with `v` valid rows. Defect correction of a short frame yields rows 0 to v − 3 (R226). The colour difference of the last demosaiced row takes the green of the row below it, which R233 forms from corrected row v − 2: the manual states no value for it, and it is a free value of use `n` (DESIGN CHOICE, log entry 66). -/
def corrected (c : SensorCfg) (v n : Nat) (m : Nat → Nat → Nat) (x y : Nat) : Nat :=
  if v < c.height && v < y + 3 then (Config.cutSite n x y).toNat
  else if defectKind c m x y = 0 then m x y
  else middleTwo ((neighbours m c.width c.height c.dist x y).take 4)

/-- R233: green at a site. -/
def greenAt (c : SensorCfg) (v : Nat → Nat → Nat) (x y : Nat) : Int :=
  if siteColour c.cfa x y = 1 then (v x y : Int)
  else
    let w := c.width
    let h := c.height
    let g1 : Int := v (below x 1) y
    let g2 : Int := v (above x 1 w) y
    let g3 : Int := v x (below y 1)
    let g4 : Int := v x (above y 1 h)
    let k : Int := v x y
    let gh := (g1 + g2) / 2
    let gv := (g3 + g4) / 2
    let dh : Nat := (g1 - g2).natAbs + (2 * k - v (below x 2) y - v (above x 2 w) y).natAbs
    let dv : Nat := (g3 - g4).natAbs + (2 * k - v x (below y 2) - v x (above y 2 h)).natAbs
    if dh < dv then gh else if dv < dh then gv else (gh + gv) / 2

/-- R233: channel j (0 R, 1 G, 2 B) of a demosaiced site. -/
def demosaic (c : SensorCfg) (v : Nat → Nat → Nat) (j x y : Nat) : Nat :=
  let clampU (i : Int) : Nat := (max 0 (min 0xFFFFFFFF i)).toNat
  if !c.isBayer then v x y
  else
    let own := siteColour c.cfa x y
    let g := greenAt c v x y
    if j = 1 then clampU g
    else if j = own then v x y
    else
      let l := below x 1
      let r := above x 1 c.width
      let u := below y 1
      let b := above y 1 c.height
      let diff (a e : Nat) : Int := (v a e : Int) - greenAt c v a e
      if own = 1 then
        if siteColour c.cfa l y = j then clampU (g + (diff l y + diff r y) / 2)
        else clampU (g + (diff x u + diff x b) / 2)
      else clampU (g + (diff l u + diff r u + diff l b + diff r b) / 4)

/-! ### Colour, tone and scaling (FP32) -/

def w32At (bs : List Byte) (i : Nat) : W32 := BitVec.ofNat 32 (field bs (4 * i) 4)

namespace PipeCfg

/-- Entry of the colour matrix (0 to 8) or of its offsets (9 to 11); an unwritten entry is the identity with zero offsets. -/
def matAt (p : PipeCfg) (i : Nat) : W32 :=
  if p.matrix.isEmpty then (if i = 0 || i = 4 || i = 8 then F32.one else F32.zero) else w32At p.matrix i

/-- Entry of the tone curve; unwritten: 64 i − floor(i / 1 024). -/
def curveAt (p : PipeCfg) (i : Nat) : Nat :=
  if p.curve.isEmpty then 64 * i - i / 1024 else field p.curve (2 * i) 2

def toneMode (p : PipeCfg) : Nat := bits p.control 9 8
def colourOut (p : PipeCfg) : Nat := bits p.control 13 12
def outFormat (p : PipeCfg) : Nat := bits p.control 19 16
def box (p : PipeCfg) : Bool := bit p.control 5
def acceptShort (p : PipeCfg) : Bool := bit p.control 3
def autoLock (p : PipeCfg) : Bool := bit p.control 2
def irq (p : PipeCfg) : Option Nat := if bit p.control 4 then some (bits p.control 27 24) else none

/-- Output planes: one for a monochrome sensor and for Y only. -/
def planes (p : PipeCfg) (c : SensorCfg) : Nat := if !c.isBayer || p.colourOut = 2 then 1 else 3

end PipeCfg

def gain (t : Settings) (j : Nat) : W32 := (t.gains[j]?).getD F32.one

/-- R234: colour of a site from the demosaiced channels. -/
def colour (c : SensorCfg) (p : PipeCfg) (t : Settings) (v : Nat → Nat) (i : Nat) : W32 :=
  let pj (j : Nat) := F32.mul (F32.mul (gain t j) (F32.ofInt (v j))) p.invWhite
  if !c.isBayer then F32.max (pj 1) F32.zero
  else
    let q := [0, 1, 2].foldl (fun a j => F32.add a (F32.mul (p.matAt (3 * i + j)) (pj j))) (p.matAt (9 + i))
    F32.max q F32.zero

/-- R235: the tone curve. -/
def tone (p : PipeCfg) (q : W32) : W32 :=
  if p.toneMode = 2 then F32.min q F32.one
  else
    let u :=
      if p.toneMode = 0 then F32.min q F32.one
      else if (F32.num q).lt (.fin false 1 (-1000)) then F32.zero
      else F32.clamp (F32.div (F32.add (F32.log2 q) (F32.ofInt 24)) (F32.ofInt 24)) F32.zero F32.one
    let x := F32.mul u (F32.ofInt 1024)
    let i := min (F32.num x).floor.toNat 1023
    let f := F32.sub x (F32.ofInt i)
    let a : Int := p.curveAt i
    let b : Int := p.curveAt (i + 1)
    F32.mul (F32.add (F32.ofInt a) (F32.mul f (F32.ofInt (b - a)))) (F32.ratio 1 65535)

/-- R235: the colour planes after the tone stage. -/
def planeValue (c : SensorCfg) (p : PipeCfg) (t : Settings) (v : Nat → Nat) (k : Nat) : W32 :=
  let o (i : Nat) := tone p (colour c p t v i)
  if !c.isBayer || p.colourOut = 0 then o k
  else
    let y := F32.add (F32.add (F32.mul (F32.ratio 2126 10000) (o 0)) (F32.mul (F32.ratio 7152 10000) (o 1)))
      (F32.mul (F32.ratio 722 10000) (o 2))
    if k = 0 then y
    else if k = 1 then F32.add F32.half (F32.mul (F32.sub (o 2) y) (F32.ratio 10000 18556))
    else F32.add F32.half (F32.mul (F32.sub (o 0) y) (F32.ratio 10000 15748))

/-- R236: position and taps of output coordinate `x` when `n` inputs give `m` outputs: first tap, second tap, and the weight of the second. -/
def taps (n m x : Nat) : Nat × Nat × W32 :=
  let s := F32.div (F32.ofInt n) (F32.ofInt m)
  let xs := F32.clamp (F32.sub (F32.mul (F32.add (F32.ofInt x) F32.half) s) F32.half) F32.zero (F32.ofInt ((n : Int) - 1))
  let i := (F32.num xs).floor.toNat
  (i, min (i + 1) (n - 1), F32.sub xs (F32.ofInt i))

/-- R236: one output element from the plane `a` of the crop window. -/
def scaled (p : PipeCfg) (a : Nat → Nat → W32) (x y : Nat) : W32 :=
  if p.box then
    let n := p.cropW / p.outW
    let m := p.cropH / p.outH
    let s := (List.range m).foldl (fun s j => (List.range n).foldl (fun s i =>
      F32.add s (a (x * n + i) (y * m + j))) s) F32.zero
    F32.mul s (F32.ratio 1 (n * m))
  else
    let (x0, x1, fx) := taps p.cropW p.outW x
    let (y0, y1, fy) := taps p.cropH p.outH y
    let h (r : Nat) := F32.add (a x0 r) (F32.mul fx (F32.sub (a x1 r) (a x0 r)))
    F32.add (h y0) (F32.mul fy (F32.sub (h y1) (h y0)))

/-- The last row of the crop window that output row `y` needs. -/
def lastTap (p : PipeCfg) (y : Nat) : Nat :=
  if p.box then (y + 1) * (p.cropH / p.outH) - 1 else (taps p.cropH p.outH y).2.1

/-- Demosaiced rows of a frame with V valid rows (R226). -/
def demosaiced (c : SensorCfg) (v : Nat) : Nat := if v < c.height then v - 4 else c.height

/-- ValidOutRows (R226). -/
def validOutRows (c : SensorCfg) (p : PipeCfg) (v : Nat) : Nat :=
  ((List.range p.outH).takeWhile fun y => p.cropY + lastTap p y < demosaiced c v).length

/-- R237: bytes of one output element. -/
def element (fmt : Nat) (o : W32) : List Byte :=
  if fmt = 0 then leBytes 1 (convInt 0 255 (F32.num (F32.mul o (F32.ofInt 255)))).code.toNat
  else if fmt = 1 then leBytes 1 (((convInt 0 255 (F32.num (F32.mul o (F32.ofInt 255)))).code + 128) % 256).toNat
  else if fmt = 2 then leBytes 2 (convInt 0 65535 (F32.num (F32.mul o (F32.ofInt 65535)))).code.toNat
  else leBytes 2 (convBf16 (F32.num o)).code.toNat

/-- The element of plane k at column x, row y of the output. -/
def outElement (c : SensorCfg) (p : PipeCfg) (t : Settings) (v n : Nat) (m : Nat → Nat → Nat) (k x y : Nat) : W32 :=
  let v := corrected c v n m
  let a (cx cy : Nat) : W32 := planeValue c p t (fun j => demosaic c v j (p.cropX + cx) (p.cropY + cy)) k
  scaled p a x y

/-- One output row of plane k. -/
def outRow (c : SensorCfg) (p : PipeCfg) (t : Settings) (v n : Nat) (m : Nat → Nat → Nat) (k y : Nat) : List Byte :=
  (List.range p.outW).flatMap fun x => element p.outFormat (outElement c p t v n m k x y)

/-! ### Statistics (R243, R244) -/

/-- Histogram bin of a merged value. -/
def histBin (m : Nat) : Nat :=
  let z := m + 1
  let t := Nat.log2 z
  min (8 * t + z * 8 / 2 ^ t % 8) 255

/-- Zone of a coordinate in a direction of size `n`. -/
def zoneOf (n x : Nat) : Nat :=
  let s := n / 32 * 2
  if s = 0 then 15 else min (x / s) 15

/-- Sites of the first V rows. -/
def sites (w v : Nat) : List (Nat × Nat) := (List.range v).flatMap fun y => (List.range w).map fun x => (x, y)

def meanBits (sum n : Nat) : List Byte := leBytes 4 (if n = 0 then 0 else (F32.ratio sum n).toNat)

/-- The statistics record after its 32-byte notice (Table 8-5). -/
def statsBody (c : SensorCfg) (code : Nat → Nat → Nat → Nat) (m : Nat → Nat → Nat) (v : Nat)
    (embedded : List Byte) : List Byte :=
  let all := sites c.width v
  let fixed := sites c.width (if v < c.height then v - 2 else v)
  let b := rawBits c.dataType
  let satur := (all.filter fun s => code (c.exposures - 1) s.1 s.2 = 2 ^ b - 1).length
  let stat := (fixed.filter fun s => defectKind c m s.1 s.2 = 1).length
  let dyn := (fixed.filter fun s => defectKind c m s.1 s.2 = 2).length
  let hist := (List.range 256).flatMap fun i =>
    leBytes 4 (all.filter fun s => histBin (m s.1 s.2) = i).length
  let zone (i : Nat) := all.filter fun s => zoneOf c.height s.2 * 16 + zoneOf c.width s.1 = i
  let col (i j : Nat) := (zone i).filter fun s => siteColour c.cfa s.1 s.2 = j
  let mean (i j : Nat) := meanBits (((col i j).map fun s => m s.1 s.2).foldl (· + ·) 0) (col i j).length
  let zones := (List.range 256).flatMap fun i =>
    mean i 0 ++ mean i 1 ++ mean i 2 ++ leBytes 4 (zone i).length
  let focus := (List.range 256).flatMap fun i =>
    meanBits (((col i 1).map fun s =>
      (((m (above s.1 2 c.width) s.2 : Nat) : Int) - (m s.1 s.2 : Nat)).natAbs).foldl (· + ·) 0) (col i 1).length
  leBytes 2 v ++ leBytes 2 0 ++ leBytes 4 satur ++ leBytes 4 stat ++ leBytes 4 dyn ++
  leBytes 2 (min 256 embedded.length) ++ List.replicate 14 0 ++ slice embedded 0 256 ++ hist ++ zones ++ focus

end Sys2Proof.Machine
end

