-- ==== Sys2Proof/Machine/Requests.lean ====
section
/-! DEFINITION. Requests of a partition: chunks and how they end, and the ending of everything a partition has taken. -/

namespace Sys2Proof.Machine

def StatSet.zero : StatSet := ⟨0, 0, 0, 0, 0, 0, 0, 0⟩

def Stream.free : Stream :=
  { state := .free, group := 0, next := 0, tag := 0, moveCount := 0, berth := none, lastEnd := 0
    framesSince := 0, gap := 0, image := [], chunks := [], heldResults := [], blob := []
    window := [], closing := none, exporting := none, exportTo := [], exportAddr := 0, exportDraw := 0
    stats := StatSet.zero }

def Group.idle : Group := ⟨[], none, 0, []⟩

def Seq.free : Seq := ⟨.free, 0, 0, 0, 0, 0, 0, 0, 0, [], []⟩

/-- Pool page `k` is one of the sequence's: its directory, a leaf, or a page that it maps. -/
def Seq.has (q : Seq) (k : Nat) : Bool :=
  q.dir = k || (q.leaves.any fun x => x.2 = some k) || q.pages.any fun x => x.2 = some k

def Pool.empty : Pool := ⟨[], []⟩

/-- The chunk is in a step. -/
def Chunk.inStep (c : Chunk) : Bool := match c.phase with | .inStep _ => true | _ => false

namespace State

def stream (s : State) (n : Nat) : Stream := NMap.get (fun _ => Stream.free) s.streams n
def setStream (s : State) (n : Nat) (x : Stream) : State :=
  { s with streams := NMap.set (fun _ => Stream.free) s.streams n x }
def updStream (s : State) (n : Nat) (f : Stream → Stream) : State := s.setStream n (f (s.stream n))

def group (s : State) (g : Nat) : Group := NMap.get (fun _ => Group.idle) s.groups g
def setGroup (s : State) (g : Nat) (x : Group) : State :=
  { s with groups := NMap.set (fun _ => Group.idle) s.groups g x }
def updGroup (s : State) (g : Nat) (f : Group → Group) : State := s.setGroup g (f (s.group g))

def seq (s : State) (q : Nat) : Seq := NMap.get (fun _ => Seq.free) s.seqs q
def setSeq (s : State) (q : Nat) (x : Seq) : State :=
  { s with seqs := NMap.set (fun _ => Seq.free) s.seqs q x }

def pool (s : State) (p : Nat) : Pool := NMap.get (fun _ => Pool.empty) s.pools p
def setPool (s : State) (p : Nat) (x : Pool) : State :=
  { s with pools := NMap.set (fun _ => Pool.empty) s.pools p x }

/-- First stream and number of streams of partition p. -/
def streamBase (s : State) (p : Nat) : Nat := s.rdn 0x5010 (p + 1)
def streamCount (s : State) (p : Nat) : Nat := s.rdn 0x5011 (p + 1)

/-- The partition whose range holds stream `n`. -/
def streamPart (s : State) (n : Nat) : Option Nat :=
  (List.range 128).find? fun p => s.streamBase p ≤ n && n < s.streamBase p + s.streamCount p

def seqBase (s : State) (p : Nat) : Nat := s.rdn 0x5810 (p + 1)
def seqCount (s : State) (p : Nat) : Nat := s.rdn 0x5811 (p + 1)

/-- The stream contexts of partition p that are not FREE. -/
def openStreams (s : State) (p : Nat) : List Nat :=
  (NMap.keys s.streams).filter fun n =>
    s.streamBase p ≤ n && n < s.streamBase p + s.streamCount p && (s.stream n).state ≠ .free

/-- The sequence contexts of partition p that are not FREE. -/
def openSeqs (s : State) (p : Nat) : List Nat :=
  (NMap.keys s.seqs).filter fun q =>
    s.seqBase p ≤ q && q < s.seqBase p + s.seqCount p && (s.seq q).state ≠ .free

/-! ### Chunks -/

/-- The device releases chunk slot `j` of stream `n`: the Seal reads zero (R164). -/
def releaseChunk (s : State) (n j : Nat) : State :=
  s.updStream n fun x =>
    let w := NMap.get (fun _ => []) x.window j
    { x with window := NMap.set (fun _ => []) x.window j (w.take 0x3C ++ [0, 0, 0, 0] ++ w.drop 0x40) }

/-- The record of a chunk (Table 11-4). -/
def chunkRecord (s : State) (p n : Nat) (c : Chunk) (status info : Nat) (replayed : Bool) : Record :=
  { seq := c.seq, status := status, opcode := 0x80, chunk := true, held := false
    replayed := replayed, tag := c.tag, stream := n - s.streamBase p, slot := c.slot
    detail := 0, info := BitVec.ofNat 32 info, endTime := s.time
    irq := if c.irq then some (s.rdn 0x701B (p + 1)) else none, mirror := false, pre := [] }

/-- A chunk of stream `n` ends: it leaves the stream's taken chunks, a slot that it still holds is released, and its record is written unless a feed sealed it (R164, R290). A chunk that was in a step reports A + P (Table 11-4). -/
def endChunk (s : State) (p n : Nat) (c : Chunk) (status : Nat) (replayed : Bool) : State :=
  let s1 := s.updStream n fun x => { x with chunks := x.chunks.filter (· ≠ c) }
  let s2 := if c.inStep then s1 else s1.releaseChunk n c.slot
  match c.feed with
  | some _ => s2
  | none => s2.endWith p (s.chunkRecord p n c status (if c.inStep then s.time - c.sealTime else 0) replayed)

/-- End every taken chunk of stream `n` that satisfies `f`, in order of take. -/
def endChunks (s : State) (p n : Nat) (f : Chunk → Bool) (status : Nat) : State :=
  ((s.stream n).chunks.filter f).foldl (fun s c => s.endChunk p n c status false) s

/-- Take stream `n` out of every step of its group. -/
def leaveSteps (s : State) (n : Nat) : State :=
  s.updGroup (s.stream n).group fun g =>
    { g with steps := g.steps.map fun t => { t with lanes := t.lanes.filter fun x => x.2 ≠ n } }

/-- Frames without those that loads under way had pinned. -/
def dropLoads (js : List LoadJob) (fs : NMap FrameUse) : NMap FrameUse :=
  fs.filter fun y => !(js.any fun j => y.2 = .image j.planId || y.2 = .checkpoint j.planId)

/-- What carries out requests of partition p lets go of them: its invocations and plan loads, its EDGE_RUN and REPROCESS, its running CLOSE and EXPORT. A stream whose export has begun stays so: the source never admits a chunk of it again (R180). -/
def letGo (s : State) (p : Nat) : State :=
  let keep (r : FrameDone) : Bool := match r.req with
    | some (q, _, _) => q ≠ p
    | none => true
  let e0 : Edge := ⟨none, []⟩
  let s1 := { s.updPart p fun x => { x with invs := [], loads := [], frames := dropLoads x.loads x.frames } with
    edges := (NMap.keys s.edges).foldl (fun m e =>
      let x := NMap.get (fun _ => e0) m e
      NMap.set (fun _ => e0) m e { x with job := x.job.filter fun j => j.live || j.part ≠ p }) s.edges
    pipes := (NMap.keys s.pipes).foldl (fun m k =>
      let x := NMap.get (fun _ => Pipe.idle) m k
      NMap.set (fun _ => Pipe.idle) m k { x with ready := x.ready.filter keep }) s.pipes }
  (s1.openStreams p).foldl (fun s n => s.updStream n fun x =>
    { x with closing := none, exporting := x.exporting.map fun _ => 64 }) s1

/-- End everything that partition p has taken with one status: every descriptor and every chunk, moving no data and keeping every stream, sequence and plan (R315). -/
def endTaken (s : State) (p status : Nat) : State :=
  let s1 := s.letGo p
  let s2 := ((s1.part p).work.filter fun w => w.phase ≠ .ended).foldl
    (fun s w => s.endWork p w.slot status 0 0 false) s1
  (s2.openStreams p).foldl
    (fun s n => (s.leaveSteps n).endChunks p n (fun _ => true) status) s2

/-- Fence partition p (R315, R357). -/
def fencePart (s : State) (p : Nat) : State :=
  ((s.updPart p fun x => { x with fenced := true }).raise 0x7001 4).endTaken p 0x70

/-! ### The work of the device -/

/-- Partition p has a descriptor or chunk taken and not ended, or a record waits (Table 12-4, WORK). -/
def partWork (s : State) (p : Nat) : Bool :=
  (s.part p).work.any (fun w => w.phase ≠ .ended) || !(s.part p).waiting.isEmpty ||
  (s.openStreams p).any fun n => !(s.stream n).chunks.isEmpty

/-- A descriptor or chunk of any partition is taken and not ended (R403). -/
def anyTaken (s : State) : Bool :=
  s.partKeys.any (fun p => (s.part p).work.any fun w => w.phase ≠ .ended) ||
  (NMap.keys s.streams).any fun n => !(s.stream n).chunks.isEmpty

end State

end Sys2Proof.Machine
end

