-- ==== Sys2Proof/Machine/Report.lean ====
section
/-! DEFINITION. Reporting: EMCY messages and the error register, fault records, the halt, and security events. -/

namespace Sys2Proof.Machine

def Lss.idle : Lss := ⟨false, none, none, none, 0⟩
def Can.off : Can := ⟨0, 0, 0, 3, 0, 0, 0, none, Lss.idle, [], false⟩

namespace State

def can (s : State) (n : Nat) : Can := NMap.get (fun _ => Can.off) s.cans n
def setCan (s : State) (n : Nat) (x : Can) : State :=
  { s with cans := NMap.set (fun _ => Can.off) s.cans n x }
def updCan (s : State) (n : Nat) (f : Can → Can) : State := s.setCan n (f (s.can n))

/-! ### The error register and EMCY -/

/-- A field-port condition of Table 16-6 is active: a controller is error passive or bus-off, or a consumed heartbeat is missing (R437). -/
def fieldCondition (s : State) : Bool :=
  (s.can 0).err = 1 || (s.can 0).err = 2 || (s.can 1).err = 1 || (s.can 1).err = 2 || !s.hbLost.isEmpty

/-- `1001:00 ErrorRegister` (R437, Table 13-8). -/
def errReg (s : State) : Byte :=
  s.faults.errBits ||| (if s.fieldCondition then 0x11 else 0)

/-- A COB-ID entry's value on controller n: one still at its default follows the node-ID (R430). -/
def cobValue (s : State) (n : Nat) (v : W64) : Nat :=
  if v.toNat < Od.followMark then v.toNat else (v.toNat - Od.followMark) + (s.can n).node

/-- Controller n is powered, in use, not held and not bus-off: it can send (R438, R440). -/
def canSends (s : State) (n : Nat) : Bool :=
  3 ≤ s.power.state && 1 ≤ (s.can n).nmt && (s.can n).err < 2 && !s.faults.heldCans.contains n

/-- Send a frame on controller n. -/
def canSend (s : State) (n cob : Nat) (data : List Byte) : State :=
  if s.canSends n then s.emit (.can n (cob % 2048) data) else s

/-- EMCY runs in Pre-operational and Operational (R431). -/
def emcyRuns (s : State) (n : Nat) : Bool :=
  s.canSends n && ((s.can n).nmt = 2 || (s.can n).nmt = 3)

def emcyBytes (m : W16 × Byte × BitVec 40) : List Byte :=
  leBytes 2 m.1.toNat ++ [m.2.1] ++ leBytes 5 m.2.2.toNat

/-- Send or queue an EMCY message on controller n behind the inhibit time (R437). -/
def emcyOn (s : State) (n : Nat) (m : W16 × Byte × BitVec 40) : State :=
  let cob := s.cobValue n (s.rd 0x1014 0)
  if !s.emcyRuns n || bit cob 31 then s
  else if (s.can n).inhibited then
    if (s.can n).emcy.length < 16 then s.updCan n fun c => { c with emcy := c.emcy ++ [m] } else s
  else
    let s1 := s.canSend n cob (emcyBytes m)
    if s.rdn 0x1015 0 = 0 then s1 else s1.updCan n fun c => { c with inhibited := true }

/-- Enter an error code at the head of `1003`, which keeps the last 16 (R437). -/
def noteError (s : State) (v : Nat) : State :=
  let s1 := (List.range 15).foldl
    (fun t k => t.wr 0x1003 (16 - k) (t.rd 0x1003 (15 - k))) s
  (s1.wrn 0x1003 1 v).wrn 0x1003 0 (min 16 (s.rdn 0x1003 0 + 1))

/-- Send an EMCY message on every controller on which EMCY runs; an error code other than 0 enters `1003` (R365, R437). `rest` holds bytes 3 to 7. -/
def emcy (s : State) (code : W16) (rest : BitVec 40) : State :=
  let m := (code, s.errReg, rest)
  let s1 := if code = 0 then s else s.noteError (code.toNat + 65536 * (rest.toNat % 256))
  (s1.emcyOn 0 m).emcyOn 1 m

/-- The field-port EMCY of controller n (Table 16-6): byte 3 is 0xC0 + n, byte 4 as given. Its message carries bits 0 and 4 of the error register. -/
def fieldEmcy (s : State) (n : Nat) (code : W16) (b4 : Nat) : State :=
  let m := (code, s.errReg ||| 0x11, BitVec.ofNat 40 (0xC0 + n + 256 * b4))
  ((s.noteError (code.toNat + 65536 * (0xC0 + n))).emcyOn 0 m).emcyOn 1 m

/-- When the error register has become zero, the device sends error code 0x0000 (R437). -/
def emcyIfClear (before s : State) : State :=
  if before.errReg ≠ 0 && s.errReg = 0 then s.emcy 0 0 else s

/-! ### Fault records -/

/-- EMCY error code of a fault source (Table 13-8). -/
def emcyCode (source : Nat) : W16 :=
  if source = 0x30 then 0x8100 else if source = 0x40 then 0x4200
  else if source = 0x41 then 0x3100 else if source = 0xF0 then 0x6100 else 0x5000

/-- Error register bits of a fault source (Table 13-8). -/
def emcyBits (source : Nat) : Byte :=
  if source = 0x30 then 0x11 else if source = 0x40 then 0x09
  else if source = 0x41 then 0x05 else 0x81

/-- EMCY of a fault record (R365): bytes 3 to 7 are Source, Class, UnitKind and Unit. -/
def faultEmcy (s : State) (source cls kind unit : Nat) : State :=
  s.emcy (emcyCode source)
    (BitVec.ofNat 40 (source + 256 * cls + 65536 * kind + 16777216 * unit))

def anyHandling (s : State) : Bool := s.faults.records.any FaultRec.handling

def updFaults (s : State) (f : Faults → Faults) : State := { s with faults := f s.faults }

/-- Change the oldest record that is HANDLING. -/
def updFirst (f : FaultRec → FaultRec) : List FaultRec → List FaultRec
  | [] => []
  | r :: rs => if r.handling then f r :: rs else r :: updFirst f rs

/-- Merge an error into a record (R350). -/
def mergeInto (cls kind unit : Nat) (r : FaultRec) : FaultRec :=
  let r1 := { r with merged := min 0xFFFF (r.merged + 1) }
  let r2 := if (kind ≠ r.kind || unit ≠ r.unit) && r.secondKind = 0xFF then
      { r1 with secondKind := kind, secondUnit := unit, otherUnit := true } else r1
  if cls = 3 then { r2 with cls := 3, escalated := true } else r2

/-- Stop everything and report (R353): tiles, pipelines and edge engines stop with the halt itself. The crash dump of sources 0xF0 to 0xF3 is written (R408). -/
def halt (s : State) (source cp component : Nat) : State :=
  let s1 := s.updFaults fun f => { f with mode := .halted, faultN := true }
  let s2 := { s1 with persist := { s1.persist with fatalPending := true } }
  let s3 := s2.emit (.aer "Uncorrectable Internal Error")
  if 0xF0 ≤ source then
    let dig := match s3.link.image with
      | some i => i.digest
      | none => List.replicate 32 0
    let (n, s4) := (s3.draw.1, s3.draw.2.draw.2)
    { s4 with link := { s4.link with
        dump := some ⟨source, cp, component, s3.time, BitVec.ofNat 32 (s3.rdn 0x2200 2), dig, n⟩ } }
  else s3

/-- A class 2 or 3 error: it opens a record, or merges into the oldest record that is HANDLING; class 3 halts, and its EMCY is sent even where its record is a merged one (R346, R349 to R353, R365; the last is the model's reading, DEDUCED, log entry 102). -/
def openFault (s : State) (source cls kind unit detail cp component : Nat) : State :=
  let s0 := if cls = 2 then (s.bump32 0x9003 6 1).updFaults fun f =>
      { f with mode := if f.mode = .normal then .fault else f.mode, lastEvent := s.time, faultN := true }
    else s
  let s1 :=
    if s.anyHandling then
      let t := (s0.updFaults fun f => { f with records := updFirst (mergeInto cls kind unit) f.records }).raise 0x9001 1
      if cls = 3 then (t.updFaults fun f => { f with errBits := f.errBits ||| emcyBits source }).faultEmcy source cls kind unit else t
    else
      let r : FaultRec :=
        { seq := s.faults.nextSeq, source := source, cls := cls, kind := kind, handling := true
          otherUnit := false, escalated := false, replayed := false, unit := unit
          secondKind := 0xFF, secondUnit := 0xFFFF, merged := 0, raiseTime := s.time
          handleMicros := 0, detail := BitVec.ofNat 32 detail }
      let t := s0.updFaults fun f =>
        { f with records := (f.records ++ [r]).drop (f.records.length + 1 - 32)
                 nextSeq := f.nextSeq + 1, errBits := f.errBits ||| emcyBits source }
      let t := t.faultEmcy source cls kind unit
      if cls = 2 then (t.raise 0x9001 0).emit (.aer "Corrected Internal Error") else t
  if cls = 3 then s1.halt source cp component else s1

/-- A corrected error (class 0) and a contained error (class 1) are counted (R346). -/
def corrected (s : State) : State := s.bump64 0x9003 4 1
def contained (s : State) : State := s.bump64 0x9003 5 1

/-! ### Security events -/

/-- A security event of Table 14-7: its log record, flag and counter, and the fence of its partition when `SecurityFenceMask` asks for it (R380). -/
def logSecurity (s : State) (kind : Nat) (p : Option Nat) (detail : W64) : State :=
  let r : SecRec := ⟨s.sec.nextSeq, kind, p.getD 0xFF, detail, s.time⟩
  let s1 := { s with sec := { s.sec with
    log := (s.sec.log ++ [r]).drop (s.sec.log.length + 1 - 64), nextSeq := s.sec.nextSeq + 1 } }
  let s2 := s1.raise 0xA001 kind
  match p with
  | some q =>
    if bit (s.rdn 0xA002 1) kind && !(s.part q).fenced then s2.fencePart q else s2
  | none => s2

/-- A security event, which waits for the adoption when MARKED_READ meets a live update's hold (Table 14-12). -/
def security (s : State) (kind : Nat) (p : Option Nat) (detail : W64) : State :=
  match p with
  | some q =>
    if s.link.hold && kind = 2 then { s with link := { s.link with lateMarks := s.link.lateMarks ++ [(q, detail)] } }
    else s.logSecurity kind p detail
  | none => s.logSecurity kind p detail

end State

end Sys2Proof.Machine
end

