-- ==== Sys2Proof/Machine/Fabric.lean ====
section
/-! DEFINITION. The grid of tiles: the logical-to-physical map, who owns a tile, what a tile holds, and the clock it runs at. -/

namespace Sys2Proof.Machine

/-! ### The map (R21, R22) -/

/-- The physical column behind logical column `x` when the map skips the given columns, rising. -/
def physCol (skips : List Nat) (x : Nat) : Nat :=
  skips.foldl (fun c k => if k ≤ c then c + 1 else c) x

/-- The logical column behind physical column `c`; none for a skipped column and for a spare not in use. -/
def logCol (skips : List Nat) (c : Nat) : Option Nat :=
  if skips.contains c then none
  else
    let x := c - (skips.filter (· < c)).length
    if x < 64 then some x else none

/-- Insert a number into a rising list without repeats. -/
def insertNat (n : Nat) : List Nat → List Nat
  | [] => [n]
  | m :: ms => if n < m then n :: m :: ms else if n = m then m :: ms else m :: insertNat n ms

namespace State

def updFabric (s : State) (f : Fabric → Fabric) : State := { s with fabric := f s.fabric }

/-- Physical columns fenced in row `y`, rising. -/
def fencedCols (s : State) (y : Nat) : List Nat :=
  ((s.fabric.fenced.filter fun p => p / 66 = y).map (· % 66)).foldl (fun l c => insertNat c l) []

def skipsOf (s : State) (y : Nat) : List Nat := NMap.get (fun _ => []) s.fabric.skips y

/-- The physical tile behind logical tile `n` (R24). -/
def phys (s : State) (n : Nat) : Nat := n / 64 * 66 + physCol (s.skipsOf (n / 64)) (n % 64)

/-- The logical tile in service on physical tile `p`. -/
def logical (s : State) (p : Nat) : Option Nat :=
  (logCol (s.skipsOf (p / 66)) (p % 66)).map (p / 66 * 64 + ·)

/-- Logical tile `n` is usable: its physical tile is not fenced (R22, R23). -/
def usable (s : State) (n : Nat) : Bool := !s.fabric.fenced.contains (s.phys n)

/-- Logical tile `n` lies at or east of the failed column of a row that shifts (Table 2-16). -/
def shifting (s : State) (n : Nat) : Bool :=
  s.fabric.shifts.any fun h => h.row = n / 64 && decide (h.col ≤ s.phys n % 66)

/-- Logical tile `n` is usable, or will be once its row has shifted (R50). -/
def usableSoon (s : State) (n : Nat) : Bool :=
  s.usable n || s.fabric.shifts.any fun h => h.row = n / 64 && h.col = s.phys n % 66

/-- A failed tile in column `c` of row `y` can be replaced by a shift: the row has a spare left, and no unusable tile stands in the way of the tiles that would move (R48; the second condition is a DESIGN CHOICE, log entry 70). -/
def canShift (s : State) (y c : Nat) : Bool :=
  let f := s.fencedCols y
  f.length < 2 && f.all fun k => decide (k < c) || (s.skipsOf y).contains k

/-- The map of R22 built afresh for the tiles fenced now. -/
def buildMap (s : State) : State :=
  let m := (List.range 8).foldl (fun m y => NMap.set (fun _ => []) m y ((s.fencedCols y).take 2)) []
  s.updFabric fun f => { f with skips := m, shifts := [] }

/-- The two spares of row `y` minus its fenced tiles; 0 for a row with an unusable logical tile (`3000:05`). -/
def rowSparesLeft (s : State) (y : Nat) : Nat :=
  if (List.range 64).all (fun x => s.usable (y * 64 + x)) then 2 - (s.fencedCols y).length else 0

def sparesRemaining (s : State) : Nat := ((List.range 8).map s.rowSparesLeft).foldl (· + ·) 0

def tilesUnusable (s : State) : Nat := ((List.range 512).filter fun n => !s.usable n).length

/-- `3003` RowSpares of row `y` (Table 2-19). The spec gives no order of its columns First, Second and Third: the model lists them by rising column, not by time of fencing (DESIGN CHOICE, log entry 73). -/
def rowSpares (s : State) (y : Nat) : Nat :=
  let cols := s.fencedCols y
  let at_ (i : Nat) := (cols[i]?).getD 0xFF
  let test := ((cols.take 2).filter fun x => s.fuse.testFenced.contains (y * 66 + x)).length
  at_ 2 * 16777216 + at_ 1 * 65536 + at_ 0 * 256 + test * 4 + min 2 cols.length

/-- After a tile has been fenced: ROW_EXHAUSTED when the row has used both spares or lost a logical tile, SPARE_LOW when the spares left are at or below the threshold (Table 2-18). -/
def spareFlags (s : State) (y : Nat) : State :=
  let s1 := if s.rowSparesLeft y = 0 then s.raise 0x3001 1 else s
  if s1.sparesRemaining ≤ s1.rdn 0x3002 2 then s1.raise 0x3001 2 else s1

/-! ### Owners -/

/-- The rectangle of partition p: X, Y, W, H (Table 11-11). -/
def rect (s : State) (p : Nat) : Nat × Nat × Nat × Nat :=
  let v := s.rdn 0x7011 (p + 1)
  (bits v 5 0, bits v 10 8, bits v 22 16, bits v 27 24)

def inRect (r : Nat × Nat × Nat × Nat) (n : Nat) : Bool :=
  r.1 ≤ n % 64 && n % 64 < r.1 + r.2.2.1 && r.2.1 ≤ n / 64 && n / 64 < r.2.1 + r.2.2.2

/-- Partition p owns logical tile `n` (R298). -/
def ownsTile (s : State) (p n : Nat) : Bool := inRect (s.rect p) n

def tileOwner (s : State) (n : Nat) : Option Nat := (List.range 128).find? fun p => s.ownsTile p n

def tileCount (s : State) (p : Nat) : Nat := (s.rect p).2.2.1 * (s.rect p).2.2.2

/-- The sentinel partition: the partition of the stage 1 feed (Table 1-2). -/
def sentinel (s : State) : Option Nat :=
  let f := s.rdn 0x6850 2
  if f < 8 then
    let p := s.rdn 0x6900 (f + 1)
    if p < 128 then some p else none
  else none

/-! ### What the tiles hold -/

def halves (s : State) (n : Nat) : Halves := NMap.get (fun _ => ⟨none, none, false⟩) s.fabric.halves n
def setHalves (s : State) (n : Nat) (h : Halves) : State :=
  s.updFabric fun f => { f with halves := NMap.set (fun _ => ⟨none, none, false⟩) f.halves n h }

def findPlan (s : State) (p : Nat) (id : W64) : Option Loaded :=
  (s.part p).plans.find? fun l => l.plan.planId = id

def updPlan (s : State) (p : Nat) (id : W64) (f : Loaded → Loaded) : State :=
  s.updPart p fun x => { x with plans := x.plans.map fun l => if l.plan.planId = id then f l else l }

def findInv (s : State) (p : Nat) (id : W64) : Option Invocation :=
  (s.part p).invs.find? fun v => v.planId = id

def updInv (s : State) (p : Nat) (id : W64) (f : Invocation → Invocation) : State :=
  s.updPart p fun x => { x with invs := x.invs.map fun v => if v.planId = id then f v else v }

def dropInv (s : State) (p : Nat) (id : W64) : State :=
  s.updPart p fun x => { x with invs := x.invs.filter fun v => v.planId ≠ id }

end State

/-- The plan that runs for a loaded plan: its degraded variant once R49 has put it in place. -/
def Loaded.active (l : Loaded) : Plan :=
  if l.onVariant then l.variant.getD l.plan else l.plan

/-- Kind and parameter record of the plan that runs: each manifest entry has its own (R465). -/
def Loaded.activeKind (l : Loaded) : Nat := if l.onVariant then l.variantKind else l.kind
def Loaded.activeParams (l : Loaded) : List Byte := if l.onVariant then l.variantParams else l.params

namespace State

/-- The running configuration half of logical tile `n`. -/
def runningOn (s : State) (n : Nat) : Option (Nat × W64) := (s.halves n).running

/-- The SLOT record that the running configuration gives tile `n`. -/
def slotOn (s : State) (n : Nat) : Option (Loaded × SlotRec) := do
  let (p, id) ← s.runningOn n
  let l ← s.findPlan p id
  let i := l.place.idxOf n
  let r ← l.active.slots[i]?
  some (l, r)

/-- The tiles that run the gang of tile `n`, its lead tile first (R35). -/
def gangTiles (s : State) (n : Nat) : List Nat :=
  match s.slotOn n with
  | none => [n]
  | some (l, r) =>
    let g := r.gang
    let tiles := (l.active.slots.zip l.place).filter (fun (x : SlotRec × Nat) => x.1.gang = g)
    let lead := ((l.active.gangs.find? fun x => x.gang = g).map GangRec.lead).getD r.slot
    let first := (tiles.filter fun x => x.1.slot = lead).map Prod.snd
    first ++ (tiles.filter fun x => x.1.slot ≠ lead).map Prod.snd

/-- An invocation or a stream step runs on the configuration of plan `id` of partition p. -/
def planRuns (s : State) (p : Nat) (id : W64) : Bool :=
  ((s.part p).invs.any fun v => v.planId = id && !v.stopped) ||
  (List.range 64).any fun g =>
    s.rdn 0x5100 (g + 1) = p && s.rd 0x5102 (g + 1) = id && !(s.group g).steps.isEmpty

/-- The power state runs logical tile `n`: ACTIVE, or WATCH for the sentinel partition's tiles (Table 12-1). -/
def tileServed (s : State) (n : Nat) : Bool :=
  s.power.state = 4 || (s.power.state = 3 && s.sentinel.any fun p => s.ownsTile p n)

/-- A loaded plan's configuration that logical tile `n` holds: that of its running half, else of the other (R26). -/
def configOn (s : State) (n : Nat) : Option (Nat × W64) := (s.halves n).running <|> (s.halves n).staged

/-- The State field of TileState (Table 2-20): the spec does not say what makes a tile IDLE rather than OFF or LOADED, and the model never reports 1 (DESIGN CHOICE, log entry 71). -/
def tileMode (s : State) (n : Nat) : Nat :=
  if !s.usable n then
    match s.fabric.shifts.find? fun h => h.row = n / 64 && h.col = s.phys n % 66 with
    | some h => if h.moving then 5 else 4
    | none => 6
  else if s.fabric.shifts.any fun h =>
      h.moving && h.row = n / 64 && h.col ≤ s.phys n % 66 then 5
  else if !s.tileServed n then 0
  else match s.configOn n with
    | none => 0
    | some (p, id) =>
      if (s.part p).invs.any fun v => v.planId = id && (v.faulted || v.stopped || v.paused) then 4
      else if s.planRuns p id then 3 else 2

/-- `3100` TileState (Table 2-20). -/
def tileState (s : State) (n : Nat) : Nat :=
  let m := ((s.slotOn n).map fun x => x.2.mask).getD 0
  (s.tileOwner n).getD 0xFF * 16777216 + s.phys n * 16384 + m * 256 + s.tileMode n

/-! ### Clocks (R34, R35, R330, R334) -/

/-- A value rounded down to a multiple of 25 and clamped to 200 to 1 800 (R34, R338). -/
def roundClock (v : Nat) : Nat := max 200 (min 1800 (v / 25 * 25))

/-- Fused ceiling of physical tile `p`. -/
def testCeiling (s : State) (p : Nat) : Nat := (NMap.find p s.fuse.tileCeiling).getD 1800

/-- Ageing ceiling of physical tile `p` (R342). -/
def ageCeiling (s : State) (p : Nat) : Nat :=
  s.testCeiling p - NMap.get (fun _ => 0) s.persist.lowered p

/-- The table point at or above a clock: multiples of 100 MHz (R330). -/
def railPoint (mhz : Nat) : Nat := max 200 (min 1800 ((mhz + 99) / 100 * 100))

/-- f_rail of the present state (R330). -/
def fRail (s : State) : Nat :=
  if s.power.state = 3 then s.rdn 0x8002 7 else railPoint (s.rdn 0x8002 6)

/-- The rail voltage that R330 commands for f_rail. -/
def railVolts (s : State) : Nat :=
  (s.fuse.vf[(railPoint s.fRail - 200) / 100]?).getD 0 + s.rdn 0x8012 1

/-- `8100` TileCeilingMHz of logical tile `n` (R330). -/
def ceiling (s : State) (n : Nat) : Nat :=
  min s.fRail (min (s.testCeiling (s.phys n)) (s.ageCeiling (s.phys n)))

/-- The smallest compute factor, in units of 1/65 536. -/
def computeFactor (s : State) : Nat :=
  min s.power.kc (min s.power.ki (s.power.kt * 256))

/-- The clock request of logical tile `n` that counts now: while its row shifts, the one from before the shift (R50). -/
def clockRequest (s : State) (n : Nat) : Nat :=
  match s.fabric.shifts.find? fun h => h.row = n / 64 && decide (h.col ≤ s.phys n % 66) with
  | some h => (h.requests[n % 64]?).getD (s.rdObj 0x3110 n)
  | none => s.rdObj 0x3110 n

/-- The clock of logical tile `n`, 0 while gated, and the fixed 1.2 GHz while it shifts (Table 2-16 step 3): the lead tile's request and the ceilings of the gang, then the host limit, the cap, the supply limits, and a droop's stretch of the gang (R35, R334, R337 to R339). -/
def tileClock (s : State) (n : Nat) : Nat :=
  if s.tileMode n = 0 || s.tileMode n = 6 || !s.tileServed n then 0
  else if s.tileMode n = 5 then 1200
  else
    let g := s.gangTiles n
    let lead := g.headD n
    let c := g.foldl (fun a t => min a (s.ceiling t)) (min (s.clockRequest lead) (s.rdn 0x8002 5))
    let c1 := max 200 (c * s.computeFactor / 65536 / 25 * 25)
    let c2 := if s.power.tripped then 200 else c1
    let c3 := if s.power.avsFault then min c2 (s.rdn 0x8002 7) else c2
    let c4 := if g.any s.fabric.drooping.contains then c3 / 2 else c3
    if s.power.lowSupply then c4 / 2 else c4

/-! ### Placement (R43 step 8) -/

/-- The tiles of a plan's slots with the footprint's origin on logical tile `o`, when every slot lands on a usable tile of partition p. -/
def placeAt (s : State) (r : Nat × Nat × Nat × Nat) (slots : List SlotRec) (o : Nat) : Option (List Nat) :=
  let tiles := slots.map fun x => (o / 64 + x.dy) * 64 + (o % 64 + x.dx)
  if (slots.all fun x => o % 64 + x.dx < 64 && o / 64 + x.dy < 8) &&
     (tiles.all fun t => inRect r t && s.usableSoon t) then some tiles else none

/-- The placement at the lowest origin that serves, in the rectangle `r`. That the origin "nearest logical tile 0" is the lowest-numbered one is the model's reading (DESIGN CHOICE, log entry 72). A tile that a running shift will replace serves, and what needs it waits (R50). -/
def placeIn (s : State) (r : Nat × Nat × Nat × Nat) (pl : Plan) : Option (List Nat) :=
  (List.range 512).findSome? (s.placeAt r pl.slots)

def placement (s : State) (p : Nat) (pl : Plan) : Option (List Nat) := s.placeIn (s.rect p) pl

end State

end Sys2Proof.Machine
end

