-- ==== Sys2Proof/Machine/Memory.lean ====
section
/-! DEFINITION. The partition view and the memory tiers behind it: translation of addresses, reads and writes of each tier, lines, merge buffers, weight marks and poison. -/

namespace Sys2Proof.Machine

/-! ### The partition view (Table 4-1) -/

/-- A region of the partition view, with the offset of an address in it. -/
inductive Region where
  | slotWindow (slot off : Nat)
  | state (off : Nat)
  | window (off : Nat)
  | weight (off : Nat)
  | host (addr : Nat)
  deriving DecidableEq, Repr

/-- The region of an address; none for an address outside every region (R87). -/
def region (a : Nat) : Option Region :=
  if a ≤ 0x1FFFFFFF then some (.slotWindow (a / 0x100000) (a % 0x100000))
  else if 0x40000000 ≤ a && a ≤ 0x43FFFFFF then some (.state (a - 0x40000000))
  else if 0x001000000000 ≤ a && a ≤ 0x0017FFFFFFFF then some (.window (a - 0x001000000000))
  else if 0x100000000000 ≤ a && a ≤ 0x13FFFFFFFFFF then some (.weight (a - 0x100000000000))
  else if 0x800000000000 ≤ a && a ≤ 0xFFFFFFFFFFFF then some (.host a)
  else none

namespace State

def channelFirst (s : State) (p : Nat) : Nat := s.rdn 0x7012 (p + 1)
def channelCount (s : State) (p : Nat) : Nat := s.rdn 0x7013 (p + 1)
def ways (s : State) (p : Nat) : Nat := s.rdn 0x7014 (p + 1)

/-- Partition p owns channel `c` (R298). -/
def ownsChannel (s : State) (p c : Nat) : Bool :=
  s.channelFirst p ≤ c && c < s.channelFirst p + s.channelCount p

def channelOwner (s : State) (c : Nat) : Option Nat := (List.range 128).find? fun p => s.ownsChannel p c

def ownsGranule (s : State) (p g : Nat) : Bool :=
  s.rdn 0x7015 (p + 1) ≤ g && g < s.rdn 0x7015 (p + 1) + s.rdn 0x7016 (p + 1)

def granuleOwner (s : State) (g : Nat) : Option Nat := (List.range 128).find? fun p => s.ownsGranule p g

/-- `WindowBytes`: C × (127 − 8w) MiB (R95). -/
def windowBytes (s : State) (p : Nat) : Nat := s.channelCount p * ((127 - 8 * s.ways p) * 0x100000)
/-- `WeightFrames`: 128 × w × C (R96). -/
def weightFrames (s : State) (p : Nat) : Nat := 128 * s.ways p * s.channelCount p
/-- `StateSliceBytes` (R93). -/
def sliceBytes (s : State) (p : Nat) : Nat := s.rdn 0x7016 (p + 1) * 0x40000

/-- Channel and channel offset of a window offset (R95). -/
def windowLoc (s : State) (p a : Nat) : Nat × Nat :=
  let c := s.channelCount p
  let n := a / 4096
  (s.channelFirst p + n % c, n / c * 4096 + a % 4096)

/-- Channel and channel offset of byte `o` of frame `f` (R96, Table 4-3). -/
def frameLoc (s : State) (p f o : Nat) : Nat × Nat :=
  let c := s.channelCount p
  let w := s.ways p
  (s.channelFirst p + f % c,
    (127 - 8 * w + 8 * (f / c / 128)) * 0x100000 + f / c % 128 * 0x10000 + o)

/-- Key of a bonded-memory byte. -/
def bkey (c o : Nat) : Nat := c * 0x8000000 + o

/-- Absolute state store offset of a slice offset (R93). -/
def stateLoc (s : State) (p o : Nat) : Nat := s.rdn 0x7015 (p + 1) * 0x40000 + o

/-! ### Bytes of the tiers -/

def updMem (s : State) (f : Mem → Mem) : State := { s with mem := f s.mem }

def bytesAt (d : Nat → Byte) (m : NMap Byte) (a : Nat) : Nat → List Byte
  | 0 => []
  | n + 1 => NMap.get d m a :: bytesAt d m (a + 1) n

def putBytes (d : Nat → Byte) (m : NMap Byte) (a : Nat) : List Byte → NMap Byte
  | [] => m
  | b :: bs => putBytes d (NMap.set d m a b) (a + 1) bs

end State

/-- What an unlisted byte of unit `u` reads as: 0, or a free value once the unit has been off. -/
def Mem.base (m : Mem) (u a : Nat) : Byte :=
  match NMap.get (fun _ => 0) m.lost u with
  | 0 => 0
  | n + 1 => Config.lostByte n a

/-- The unit of a bonded-memory key: its channel, or 1024 more in the channel's reserved megabyte, which is cleared on its own (Table 4-3, R379). -/
def Mem.bondedUnit (a : Nat) : Nat := if a % 0x8000000 < 0x7F00000 then a / 0x8000000 else 1024 + a / 0x8000000

/-- The same for a key of each tier: 512 tiles of 1 MiB, 256 granules of 256 KiB, 256 channels of 128 MiB. -/
def Mem.tileBase (m : Mem) (a : Nat) : Byte := if a < 0x20000000 then m.base (512 + a / 0x100000) a else 0
def Mem.stateBase (m : Mem) (a : Nat) : Byte := if a < 0x4000000 then m.base (256 + a / 0x40000) a else 0
def Mem.bondedBase (m : Mem) (a : Nat) : Byte := if a < 0x800000000 then m.base (Mem.bondedUnit a) a else 0

/-- The canonical form of every memory: keys strictly rising, and no entry equal to what an unlisted key reads as. -/
abbrev Mem.wf (m : Mem) : Prop :=
  NMap.wf (fun _ => 0) m.lost ∧ NMap.wf m.tileBase m.tile ∧ NMap.wf m.stateBase m.state ∧
  NMap.wf m.bondedBase m.bonded ∧ NMap.wf (fun _ => none) m.host ∧ NMap.wf (fun _ => false) m.marks ∧
  NMap.wf (fun _ => false) m.poisonTile ∧ NMap.wf (fun _ => false) m.poisonState ∧
  NMap.wf (fun _ => false) m.poisonBonded

/-- The number of units that `lost` numbers. -/
def Mem.units : Nat := 1280

/-- What `lost` holds for unit `u` once the units that `gone` selects have lost their contents, at use `n` of a free value. -/
def Mem.lostUse (m : Mem) (gone : Nat → Bool) (n u : Nat) : Nat :=
  if gone u then n + 1 else NMap.get (fun _ => 0) m.lost u

/-- The memories once the units that `gone` selects have lost their contents. -/
def Mem.lose (m : Mem) (gone : Nat → Bool) (n : Nat) : Mem :=
  let keep {α : Type} (unit : Nat → Nat) (x : NMap α) : NMap α := x.filter fun e => !gone (unit e.1)
  { m with lost := (List.range Mem.units).filterMap fun u =>
             if m.lostUse gone n u = 0 then none else some (u, m.lostUse gone n u)
           tile := keep (fun a => 512 + a / 0x100000) m.tile
           marks := keep (fun a => 512 + a / 32768) m.marks
           poisonTile := keep (fun a => 512 + a / 131072) m.poisonTile
           state := keep (fun a => 256 + a / 0x40000) m.state
           poisonState := keep (fun a => 256 + a / 0x8000) m.poisonState
           bonded := keep Mem.bondedUnit m.bonded
           poisonBonded := keep (fun a => a / 2097152) m.poisonBonded
           merge := m.merge.filter fun e => !gone e.channel }

/-- What a start leaves of the memories: the tiles, the granules and the reserved megabytes as they were, and nothing in the rest of the channels (R379). -/
def Mem.started (m : Mem) : Mem :=
  { m with bonded := m.bonded.filter fun x => 0x7F00000 ≤ x.1 % 0x8000000
           poisonBonded := m.poisonBonded.filter fun x => 0x1FC000 ≤ x.1 % 0x200000
           merge := [], clearing := []
           lost := m.lost.filter fun x => 256 ≤ x.1 }

namespace State

/-- `n` bytes of each tier from a key on. -/
def tileBytes (s : State) (a n : Nat) : List Byte := bytesAt s.mem.tileBase s.mem.tile a n
def stateBytes (s : State) (a n : Nat) : List Byte := bytesAt s.mem.stateBase s.mem.state a n
def bondedRaw (s : State) (a : Nat) : Byte := NMap.get s.mem.bondedBase s.mem.bonded a

/-! ### Bonded memory lines (R97 to R101, R115) -/

/-- The merge buffer entry of a line. -/
def mergeOf (s : State) (c l : Nat) : Option MergeEntry :=
  s.mem.merge.find? fun e => e.channel = c && e.line = l

/-- A byte of a channel as a read returns it: a held write of the merge buffer comes first (R98). -/
def bondedByte (s : State) (c o : Nat) : Byte :=
  match s.mergeOf c (o / 64) with
  | some e => if e.mask.getLsbD (o % 64) then e.data.extractLsb' (8 * (o % 64)) 8
      else s.bondedRaw (bkey c o)
  | none => s.bondedRaw (bkey c o)

/-- Poison key of a line. -/
def lineKey (c l : Nat) : Nat := c * 2097152 + l

def linePoisoned (s : State) (c l : Nat) : Bool := NMap.get (fun _ => false) s.mem.poisonBonded (lineKey c l)

def setPoison (s : State) (c l : Nat) (v : Bool) : State :=
  s.updMem fun m => { m with poisonBonded := NMap.set (fun _ => false) m.poisonBonded (lineKey c l) v }

/-- Store bytes in a channel; a write that covers whole lines ends their poison, and a partial write into a poisoned line is discarded (R115). -/
def bondedStore (s : State) (c o : Nat) (bs : List Byte) : State :=
  let l := o / 64
  if o % 64 = 0 && bs.length = 64 then
    (s.updMem fun m => { m with bonded := putBytes m.bondedBase m.bonded (bkey c o) bs }).setPoison c l false
  else if s.linePoisoned c l then s
  else s.updMem fun m => { m with bonded := putBytes m.bondedBase m.bonded (bkey c o) bs }

/-- The bytes of a merge entry that are held, from bit `i` on, written over the line's bytes. -/
def mergeLine (e : MergeEntry) (old : List Byte) : List Byte :=
  (List.range 64).map fun i =>
    if e.mask.getLsbD i then e.data.extractLsb' (8 * i) 8 else (old[i]?).getD 0

/-- Release the merge buffer entry of a line: read, merge and write (R100). -/
def releaseLine (s : State) (c l : Nat) : State :=
  match s.mergeOf c l with
  | none => s
  | some e =>
    let s1 := s.updMem fun m => { m with merge := m.merge.filter fun x => x.channel ≠ c || x.line ≠ l }
    if s1.linePoisoned c l && e.mask ≠ BitVec.allOnes 64 then s1
    else s1.bondedStore c (64 * l) (mergeLine e (bytesAt s1.mem.bondedBase s1.mem.bonded (bkey c (64 * l)) 64))

/-- Release every entry of a partition's channels, as a cheap point and the end of an invocation do (R100). -/
def releaseAll (s : State) (p : Nat) : State :=
  (s.mem.merge.filter fun e => s.ownsChannel p e.channel).foldl (fun s e => s.releaseLine e.channel e.line) s

/-- A write within one line by the control processors or through a BAR: it reaches the line's entry first, then the line (R101). -/
def privWriteLine (s : State) (c o : Nat) (bs : List Byte) : State :=
  (s.releaseLine c (o / 64)).bondedStore c o bs

/-- A privileged write of any length, cut at line boundaries; `fuel` bounds the number of lines. -/
def privWriteN (c : Nat) : Nat → Nat → List Byte → State → State
  | 0, _, _, s => s
  | k + 1, o, bs, s =>
    if bs.isEmpty then s
    else
      let n := 64 - o % 64
      privWriteN c k (o + n) (bs.drop n) (s.privWriteLine c o (bs.take n))

def privWrite (s : State) (c o : Nat) (bs : List Byte) : State :=
  privWriteN c (bs.length / 64 + 2) o bs s

/-- A tile's write within one line (R99): a whole line is written at once and drops its entry; any other goes into the line's entry, the oldest of 16 entries giving way; an entry that has become whole is written without a read. -/
def tileWriteLine (s : State) (c o : Nat) (bs : List Byte) : State :=
  let l := o / 64
  if o % 64 = 0 && bs.length = 64 then
    (s.updMem fun m => { m with merge := m.merge.filter fun x => x.channel ≠ c || x.line ≠ l }).bondedStore c o bs
  else
    let s1 : State := match s.mergeOf c l with
      | some _ => s
      | none =>
        let mine := s.mem.merge.filter fun (e : MergeEntry) => e.channel = c
        let s0 : State := if 16 ≤ mine.length then
            match mine with
            | e :: _ => s.releaseLine c e.line
            | [] => s
          else s
        s0.updMem fun m => { m with merge := m.merge ++ [(⟨c, l, 0, 0⟩ : MergeEntry)] }
    let put (e : MergeEntry) : MergeEntry :=
      if e.channel = c && e.line = l then
        (List.range bs.length).foldl (fun e i =>
          let k := o % 64 + i
          { e with mask := e.mask ||| BitVec.ofNat 64 (2 ^ k)
                   data := (e.data &&& ~~~(BitVec.ofNat 512 (0xFF * 2 ^ (8 * k)))) |||
                     BitVec.ofNat 512 (((bs[i]?).getD 0).toNat * 2 ^ (8 * k)) }) e
      else e
    let s2 := s1.updMem fun m => { m with merge := m.merge.map put }
    match s2.mergeOf c l with
    | some e => if e.mask = BitVec.allOnes 64 then s2.releaseLine c l else s2
    | none => s2

/-- Read bytes of a partition's window (R95). -/
def readWindow (s : State) (p a : Nat) : Nat → List Byte
  | 0 => []
  | n + 1 =>
    let (c, o) := s.windowLoc p a
    s.bondedByte c o :: readWindow s p (a + 1) n

/-- A line of window bytes [o, o + n) is poisoned. -/
def windowPoison (s : State) (p o n : Nat) : Bool :=
  n ≠ 0 && (List.range (n / 64 + 2)).any fun i => 64 * i < o % 64 + n &&
    (let (c, x) := s.windowLoc p (o / 64 * 64 + 64 * i); s.linePoisoned c (x / 64))

/-- A line that a write of window bytes [o, o + n) covers only in part is poisoned: that part is discarded, and the writer ends with MEM_UE (R115). -/
def windowEdge (s : State) (p o n : Nat) : Bool :=
  n ≠ 0 && ((o % 64 ≠ 0 && s.windowPoison p o 1) || ((o + n) % 64 ≠ 0 && s.windowPoison p (o + n - 1) 1))

/-- Write bytes to a partition's window by the device's own engines, cut at line boundaries. -/
def writeWindowN (p : Nat) (tile : Bool) : Nat → Nat → List Byte → State → State
  | 0, _, _, s => s
  | k + 1, a, bs, s =>
    if bs.isEmpty then s
    else
      let n := 64 - a % 64
      let (c, o) := s.windowLoc p a
      let s1 := if tile then s.tileWriteLine c o (bs.take n) else s.privWriteLine c o (bs.take n)
      writeWindowN p tile k (a + n) (bs.drop n) s1

/-- A write by a pipeline, an edge engine, a copy or the stream engine. -/
def writeWindow (s : State) (p a : Nat) (bs : List Byte) : State :=
  writeWindowN p false (bs.length / 64 + 2) a bs s

/-- A write by a tile of the partition (R99). -/
def tileWriteWindow (s : State) (p a : Nat) (bs : List Byte) : State :=
  writeWindowN p true (bs.length / 64 + 2) a bs s

/-! ### Local memory and weight marks (R42, R115) -/

/-- A byte of a logical tile's local memory. -/
def tileByte (s : State) (n o : Nat) : Byte := NMap.get s.mem.tileBase s.mem.tile (n * 0x100000 + o)

def markKey (n o : Nat) : Nat := n * 32768 + o / 32

def marked (s : State) (n o : Nat) : Bool := NMap.get (fun _ => false) s.mem.marks (markKey n o)

/-- The first marked line of tile `n` that bytes [o, o + len) touch. -/
def markedIn (s : State) (n o len : Nat) : Option Nat :=
  ((List.range (len / 32 + 2)).find? fun i => 32 * i < o % 32 + len && s.marked n (o / 32 * 32 + 32 * i)).map
    fun i => o / 32 * 32 + 32 * i

/-- Marks after a write of bytes [o, o + len): a weight write marks every line it touches; any other write unmarks a line that it covers whole. -/
def markWrite (m : NMap Bool) (n o len : Nat) (weight : Bool) : NMap Bool :=
  if len = 0 then m
  else (List.range ((o + len - 1) / 32 - o / 32 + 1)).foldl (fun m i =>
    let l := o / 32 + i
    if weight then NMap.set (fun _ => false) m (n * 32768 + l) true
    else if o ≤ 32 * l && 32 * l + 32 ≤ o + len then NMap.set (fun _ => false) m (n * 32768 + l) false
    else m) m

/-- Poison after a write: a word that the write covers whole is clean. -/
def poisonWrite (m : NMap Bool) (base o len : Nat) : NMap Bool :=
  if len = 0 then m
  else (List.range ((o + len - 1) / 8 - o / 8 + 1)).foldl (fun m i =>
    let w := o / 8 + i
    if o ≤ 8 * w && 8 * w + 8 ≤ o + len then NMap.set (fun _ => false) m (base + w) false else m) m

/-- A write of bytes from key `k` on into local memory or the state store: what falls in a word that it covers in part and that is poisoned is discarded (R115). -/
def putWords (d : Nat → Byte) (bad : NMap Bool) (m : NMap Byte) (k : Nat) (bs : List Byte) : NMap Byte :=
  (List.range bs.length).foldl (fun m i =>
    let w := (k + i) / 8
    let whole := k ≤ 8 * w && 8 * w + 8 ≤ k + bs.length
    if !whole && NMap.get (fun _ => false) bad w then m
    else NMap.set d m (k + i) ((bs[i]?).getD 0)) m

/-- A poisoned word lies in keys [k, k + n). -/
def wordsBad (bad : NMap Bool) (k n : Nat) : Bool :=
  n ≠ 0 && (List.range (n / 8 + 2)).any fun i => 8 * i < k % 8 + n && NMap.get (fun _ => false) bad (k / 8 + i)

/-- A word that keys [k, k + n) cover only in part is poisoned: a write there ends its request with MEM_UE (R115). -/
def wordsEdge (bad : NMap Bool) (k n : Nat) : Bool :=
  n ≠ 0 && ((k % 8 ≠ 0 && wordsBad bad k 1) || ((k + n) % 8 ≠ 0 && wordsBad bad (k + n - 1) 1))

/-- What a tile's local memory holds after a write. -/
def putTile (s : State) (n o : Nat) (bs : List Byte) : NMap Byte :=
  putWords s.mem.tileBase s.mem.poisonTile s.mem.tile (n * 0x100000 + o) bs

/-- Write a tile's local memory, keeping marks and poison (R42, R115). -/
def writeTile (s : State) (n o : Nat) (bs : List Byte) (weight : Bool) : State :=
  let t := s.putTile n o bs
  s.updMem fun m =>
    { m with tile := t
             marks := markWrite m.marks n o bs.length weight
             poisonTile := poisonWrite m.poisonTile (n * 131072) o bs.length }

/-- Clear a range of keys of a map. -/
def clearRange {α : Type} (lo hi : Nat) (m : NMap α) : NMap α := m.filter fun x => x.1 < lo || hi ≤ x.1

/-- Write zero to every marked line of a tile, which loses its marks (R377). -/
def zeroMarked (s : State) (n : Nat) : State :=
  let ls := (s.mem.marks.filter fun x => n * 32768 ≤ x.1 && x.1 < (n + 1) * 32768).map Prod.fst
  ls.foldl (fun s k => s.updMem fun m =>
    { m with tile := putBytes m.tileBase m.tile (k * 32) (List.replicate 32 0)
             marks := NMap.set (fun _ => false) m.marks k false
             poisonTile := clearRange (k * 4) (k * 4 + 4) m.poisonTile }) s

/-- Clear a tile's local memory (R379). -/
def clearTile (s : State) (n : Nat) : State :=
  s.updMem fun m =>
    { m with lost := NMap.set (fun _ => 0) m.lost (512 + n) 0
             tile := clearRange (n * 0x100000) ((n + 1) * 0x100000) m.tile
             marks := clearRange (n * 32768) ((n + 1) * 32768) m.marks
             poisonTile := clearRange (n * 131072) ((n + 1) * 131072) m.poisonTile }

/-- Clear a channel's window part and ways: all but the reserved megabyte (R379). -/
def clearChannel (s : State) (c : Nat) : State :=
  s.updMem fun m =>
    { m with lost := NMap.set (fun _ => 0) m.lost c 0
             bonded := clearRange (bkey c 0) (bkey c 0x7F00000) m.bonded
             poisonBonded := clearRange (lineKey c 0) (lineKey c 0x1FC000) m.poisonBonded
             merge := m.merge.filter fun e => e.channel ≠ c }

def clearGranule (s : State) (g : Nat) : State :=
  s.updMem fun m =>
    { m with lost := NMap.set (fun _ => 0) m.lost (256 + g) 0
             state := clearRange (g * 0x40000) ((g + 1) * 0x40000) m.state
             poisonState := clearRange (g * 0x8000) ((g + 1) * 0x8000) m.poisonState }

/-- Units that `off` selects are powered off and lose what they hold (Table 12-2); a channel loses its reserved megabyte with the rest. -/
def loseUnits (s : State) (off : Nat → Bool) : State :=
  s.draw.2.updMem fun m => m.lose (fun u => off (if 1024 ≤ u then u - 1024 else u)) s.draw.1

/-- Read bytes of a partition's state store slice. -/
def readState (s : State) (p o n : Nat) : List Byte := s.stateBytes (s.stateLoc p o) n

/-- Write bytes of a partition's state store slice; words covered whole are clean, and poisoned words covered in part stay (R115). -/
def writeState (s : State) (p o : Nat) (bs : List Byte) : State :=
  let a := s.stateLoc p o
  s.updMem fun m => { m with state := putWords m.stateBase m.poisonState m.state a bs
                             poisonState := poisonWrite m.poisonState 0 a bs.length }

/-- Replace the running configuration of a tile: its marked lines are zeroed first (R377). -/
def configure (s : State) (n : Nat) (c : Option (Nat × W64)) : State :=
  (s.zeroMarked n).setHalves n { (s.zeroMarked n).halves n with running := c }

/-! ### Frames of the weight cache (R102 to R106) -/

def frame (s : State) (p f : Nat) : FrameUse := NMap.get (fun _ => .empty) (s.part p).frames f
def setFrame (s : State) (p f : Nat) (u : FrameUse) : State :=
  s.updPart p fun x => { x with frames := NMap.set (fun _ => .empty) x.frames f u }

/-- A page's pin count: the sum over the partition's loaded plans (R105). -/
def pinCount (s : State) (p page : Nat) : Nat :=
  ((s.part p).plans.map fun l => NMap.get (fun _ => 0) l.pins page).foldl (· + ·) 0

/-- A frame's contents keep it from being evicted. -/
def framePinned (s : State) (p f : Nat) : Bool :=
  f < s.rdn 0x5812 (p + 1) ||
  match s.frame p f with
  | .empty => false
  | .page n _ => 0 < s.pinCount p n
  | .filling _ => true
  | _ => true

/-- Frames that are pinned for good: pins, images, checkpoints, swap slots, pool and staging frames, but not frames being filled. -/
def frameHeld (s : State) (p f : Nat) : Bool :=
  f < s.rdn 0x5812 (p + 1) ||
  match s.frame p f with
  | .empty | .filling _ => false
  | .page n _ => 0 < s.pinCount p n
  | _ => true

def pinnedFrames (s : State) (p : Nat) : Nat :=
  ((List.range (s.weightFrames p)).filter (s.frameHeld p)).length

/-- The frame that holds a page, and whether it is resident. -/
def pageFrame (s : State) (p page : Nat) : Option Nat :=
  ((s.part p).frames.find? fun x => match x.2 with | .page n _ => n = page | _ => false).map Prod.fst

/-- The frame a migration takes: an empty one, else the least recently read one that nothing keeps (R106). -/
def victim (s : State) (p : Nat) : Option Nat :=
  let all := (List.range (s.weightFrames p)).filter fun f => !s.framePinned p f
  match all.find? fun f => s.frame p f = .empty with
  | some f => some f
  | none =>
    let age (f : Nat) : Nat := match s.frame p f with | .page _ t => t | _ => 0
    all.foldl (fun b f => match b with
      | none => some f
      | some g => if age f < age g then some f else some g) none

/-- Take `n` frames for `u`, evicting as a migration would, when at least 16 frames then stay unpinned (R102, R103, R155). -/
def pinFrames (p : Nat) (u : FrameUse) : Nat → State → Option State
  | 0, s => some s
  | k + 1, s =>
    match s.victim p with
    | none => none
    | some f => pinFrames p u k (s.setFrame p f u)

def tryPin (s : State) (p n : Nat) (u : FrameUse) : Option State :=
  if s.pinnedFrames p + n + 16 ≤ s.weightFrames p then pinFrames p u n s else none

/-- A unit of partition p is still being cleared: its accesses wait (R379). -/
def clearingOf (s : State) (p : Nat) : Bool :=
  s.mem.clearing.any fun u => match u with
    | .channel c => s.channelOwner c.val = some p
    | .granule g => s.granuleOwner g.val = some p
    | .tile n => s.tileOwner n.val = some p

/-- Channel `c` is still being cleared. -/
def clearingChannel (s : State) (c : Nat) : Bool :=
  s.mem.clearing.any fun u => match u with
    | .channel k => k.val = c
    | _ => false

/-- A channel is powered: it is not fenced, and the state is ACTIVE, or WATCH for the sentinel partition's (Table 12-2). -/
def channelPowered (s : State) (c : Nat) : Bool :=
  !s.persist.fencedChannels.contains c &&
  (s.power.state = 4 || (s.power.state = 3 && (s.channelOwner c).isSome && s.channelOwner c = s.sentinel))

/-- A channel serves accesses: it is powered and owned, and reads ON (Table 4-8, Table 13-5). -/
def channelOn (s : State) (c : Nat) : Bool := s.channelPowered c && (s.channelOwner c).isSome

/-- `4100` ChannelState (Table 4-8). -/
def channelState (s : State) (c : Nat) : Nat :=
  let o := s.channelOwner c
  o.getD 0xFF * 16777216 + ((o.map s.ways).getD 0) * 1048576 +
    ((s.persist.repairs.filter fun r => r.channel = c).length) * 4096 +
    (if s.persist.fencedChannels.contains c then 2 else b2n (s.channelOn c))

/-- Empty every frame of partition p that `f` selects. -/
def emptyFrames (s : State) (p : Nat) (f : FrameUse → Bool) : State :=
  s.updPart p fun x => { x with frames := x.frames.filter fun y => !f y.2 }

end State

end Sys2Proof.Machine
end

