-- ==== Sys2Proof/Machine/Take.lean ====
section
/-! DEFINITION. Taking a descriptor: the seal, the checks at take, what holds a taken descriptor, and its start (R299 to R305, R314, R389, R402). -/

namespace Sys2Proof.Machine

/-! ### The checks at take (R301, step 1) -/

/-- The fields of an operation's body, as (offset, bytes): every other byte of the body is reserved. -/
def bodyFields (op : Nat) : Option (List (Nat × Nat)) :=
  match op with
  | 0x01 => some [(0, 2), (8, 8)]
  | 0x02 => some [(0, 8)]
  | 0x03 => some [(0, 9), (0x10, 64)]
  | 0x04 => some [(0, 4)]
  | 0x40 => some [(0, 3), (4, 12)]
  | 0x41 => some [(0, 2)]
  | 0x42 => some [(0, 1), (8, 12)]
  | 0x43 => some [(0, 2), (8, 24)]
  | 0x44 => some [(0, 3), (4, 12)]
  | 0x50 => some [(0, 7), (8, 4), (0x10, 8)]
  | 0x51 => some [(0, 2)]
  | 0x52 => some [(0, 12), (0x10, 8)]
  | 0x53 => some [(0, 2), (4, 4)]
  | 0x54 => some [(0, 0x1A)]
  | 0x60 => some [(0, 1), (4, 12)]
  | 0x61 => some [(0, 1), (4, 0x34)]
  | _ => none

/-- Every byte of the body outside the fields is zero. -/
def bodyClean (raw : BitVec 1024) (fs : List (Nat × Nat)) : Bool :=
  (List.range 88).all fun i =>
    (fs.any fun f => f.1 ≤ i && i < f.1 + f.2) || dBody raw i 1 = 0

/-- The reserved fields outside the body are zero (Table 11-1). -/
def headClean (raw : BitVec 1024) : Bool :=
  dFlags raw < 4 && dVector raw < 16 && dPriority raw < 4 && dfield raw 0x10 8 = 0 &&
  dfield raw 0x19 3 = 0 && dfield raw 0x78 4 = 0

namespace State

/-- The feature that an operation needs is active (R402). -/
def opAllowed (s : State) (op : Nat) : Bool :=
  if op = 0x42 || op = 0x43 || op = 0x44 then s.feature 1 && s.feature 2
  else if 0x40 ≤ op && op ≤ 0x44 then s.feature 1
  else if 0x50 ≤ op && op ≤ 0x54 then s.feature 3
  else if op = 0x60 then s.feature 4
  else if op = 0x61 then s.feature 5
  else true

/-- WaitPipeline is 0xFF or a pipeline of the partition. -/
def waitPipeOk (s : State) (p : Nat) (k : Nat) : Bool :=
  k = 0xFF || (k < 8 && s.rdn 0x6101 (k + 1) = p)

/-- Step 1 of R301, with the features of R402. -/
def takeOk (s : State) (p : Nat) (raw : BitVec 1024) : Bool :=
  match bodyFields (dOpcode raw) with
  | none => false
  | some fs => headClean raw && bodyClean raw fs && s.waitPipeOk p (dWaitPipe raw) && s.opAllowed (dOpcode raw)

/-! ### Frame waits (R303, R238) -/

end State

/-- The rows beyond ValidOutRows of a short frame's buffer (R226, R228). -/
def FrameDone.blank (d : FrameDone) (b : Nat) : Option Blank :=
  if d.note.rows < d.cfg.outH then
    some { base := d.cfg.base + b * d.cfg.bufStride, planes := if d.mono || bits d.cfg.control 13 12 = 2 then 1 else 3
           planeStride := d.cfg.planeStride, lineStride := d.cfg.lineStride
           rowBytes := d.cfg.outW * (if bits d.cfg.control 19 16 ≤ 1 then 1 else 2)
           first := d.note.rows, rows := d.cfg.outH }
  else none

/-- What a frame wait says of a descriptor. -/
inductive Wait where
  | ready (hold : Option (Nat × Option Blank))
  | wait
  | short
  | missed
  deriving DecidableEq, Repr

namespace State

/-- Holder `h` holds a buffer of pipeline `k`. -/
def hold (s : State) (k h : Nat) (b : Nat × Option Blank) : State :=
  s.updPipe k fun x => { x with holds := if x.holds.any fun y => y.holder = h then x.holds else x.holds ++ [⟨b.1, h, b.2⟩] }

/-- R303 for a descriptor of partition p that waits on frame `seq` of pipeline `k`. -/
def frameWait (s : State) (p slot k seq : Nat) : Wait :=
  if k = 0xFF then .ready none
  else
    let x := s.pipe k
    match x.holds.find? fun h => h.holder = p * 64 + slot with
    | some h => .ready (some (h.buffer, h.blank))
    | none =>
      match x.recent with
      | [] => .wait
      | n :: _ =>
        let d := (n.note.frameSeq + 4294967296 - seq) % 4294967296
        if 2147483648 ≤ d then .wait
        else if 16 ≤ d then .missed
        else
          match x.recent.find? fun m => m.note.frameSeq = seq with
          | none => .missed
          | some m =>
            let later := x.recent.takeWhile fun m => m.note.frameSeq ≠ seq
            match m.note.buffer with
            | none => .missed
            | some b =>
              if later.any fun l => l.note.buffer = some b then .missed
              else if bit m.note.flags 0 && !bit m.cfg.control 3 then .short
              else .ready (some (b, m.blank b))

/-! ### What holds a taken descriptor (R304, R314) -/

/-- Where a table of `n` bytes of an ATTEND of plan `id` lies: 0 in a buffer that the partition reaches, 0x10 beyond the end of its buffer, 0x24 outside R88. A table in the weight range counts as outside (log entry 79, DEDUCED). -/
def tableAt (s : State) (p : Nat) (id : W64) (a n : Nat) : Nat :=
  let inside (o size : Nat) : Nat := if size ≤ o then 0x24 else if size < o + n then 0x10 else 0
  match region a with
  | some (.host _) => inside a 0x1000000000000
  | some (.window o) => inside o (s.windowBytes p)
  | some (.state o) => inside o (s.sliceBytes p)
  | some (.slotWindow k o) => inside (k * 0x100000 + o) (((s.findPlan p id).elim 0 fun l => l.active.slotCount) * 0x100000)
  | _ => 0x24

/-- An ATTEND's lane table: in host memory as it was fetched, else as it stands in the partition's memory. -/
def laneTable (s : State) (p : Nat) (w : Work) : List Byte :=
  let n := 8 * dBody w.raw 0x18 2
  let id := BitVec.ofNat 64 (dBody w.raw 0 8)
  if s.tableAt p id (dBody w.raw 8 8) n ≠ 0 then []
  else match region (dBody w.raw 8 8) with
    | some (.host _) => slice w.extra 0 n
    | some (.window o) => s.readWindow p o n
    | some (.state o) => s.readState p o n
    | some (.slotWindow k o) =>
      s.tileBytes ((((s.findPlan p id).bind fun l => l.place[k]?).getD 0) * 0x100000 + o) n
    | _ => []

/-- The contexts of sequences that a descriptor names (R190). A running ATTEND names those of its lanes. -/
def seqsOf (s : State) (p : Nat) (w : Work) : List Nat :=
  let op := dOpcode w.raw
  if op = 0x50 || op = 0x51 || op = 0x53 then [dBody w.raw 0 2]
  else if op = 0x52 then [dBody w.raw 0 2, dBody w.raw 2 2]
  else if op = 0x54 then
    match (s.part p).invs.find? fun v => v.attend && v.slot = w.slot with
    | some v => v.lanes.map fun l => l.seq - s.rdn 0x5810 (p + 1)
    | none =>
      let table := s.laneTable p w
      (List.range (min (table.length / 8) (dBody w.raw 0x18 2))).map fun i => field table (8 * i) 2
  else []

/-- The PlanId that a PLAN_LOAD, PLAN_UNLOAD or INVOKE names. -/
def planOf (w : Work) : Option Nat :=
  let op := dOpcode w.raw
  if op = 0x01 then some (dBody w.raw 8 8)
  else if op = 0x02 || op = 0x03 then some (dBody w.raw 0 8)
  else none

/-- The PlanId that any descriptor names: that of an ATTEND's plan too. -/
def planNamed (w : Work) : Option Nat := if dOpcode w.raw = 0x54 then some (dBody w.raw 0 8) else planOf w

/-- Works of partition p taken before the one in `slot` and not completed. -/
def earlier (s : State) (p slot : Nat) : List Work :=
  ((s.part p).work.takeWhile fun w => w.slot ≠ slot).filter fun w => w.phase ≠ .ended

/-- The power state runs partition p: ACTIVE, or WATCH for the sentinel partition (Table 12-1, R215, R325). -/
def powered (s : State) (p : Nat) : Bool :=
  s.power.state = 4 || (s.power.state = 3 && s.sentinel = some p)

/-- Tiles on which something of partition p other than plan `id` runs now. -/
def busyTiles (s : State) (p : Nat) (id : W64) : List Nat :=
  (s.part p).plans.flatMap fun l =>
    if l.plan.planId ≠ id && s.planRuns p l.plan.planId then l.place else []

/-- The plan's tiles are free for an invocation that starts now (R304, R310): no other plan runs on them, no other invocation of the plan does, and none shifts (Table 2-16 step 2). -/
def tilesFree (s : State) (p : Nat) (id : W64) : Bool :=
  match s.findPlan p id with
  | none => true
  | some l =>
    !((s.part p).invs.any fun v => v.planId = id) && !(l.place.any fun t => (s.busyTiles p id).contains t || s.shifting t)

/-- Starts hold: a live update's hold, or the restart of the scheduler (R406, Table 15-11). -/
def startsHold (s : State) : Bool := s.link.hold || s.link.restarting.contains 2

/-- An EDGE_RUN waits for its engine: one run at a time, in the order of the seals, in ACTIVE (R270, R272). -/
def edgeWaits (s : State) (before : List Work) (w : Work) : Bool :=
  let e := dBody w.raw 0 1
  s.power.state ≠ 4 ||
  ((NMap.find e s.edges).bind fun x => x.job).isSome ||
  before.any fun b => dOpcode b.raw = 0x61 && dBody b.raw 0 1 = e

/-- No host holds the lease: nothing starts, but for a CLOSE or a SEQ_CLOSE while a CAN controller holds it (R314, R367, Table 6-11). -/
def leaseHolds (s : State) (op : Nat) : Bool :=
  s.rdn 0x2100 3 ≠ 1 && !((op = 0x41 || op = 0x51) && 2 ≤ s.rdn 0x2100 3)

/-- Something other than its frame wait and its plan's tiles holds the descriptor in `slot` (R304, R314). -/
def heldApart (s : State) (p slot : Nat) (w : Work) : Bool :=
  let before := s.earlier p slot
  let op := dOpcode w.raw
  !s.serves || s.startsHold || s.leaseHolds op || !s.powered p ||
  (bit (dFlags w.raw) 1 && !before.isEmpty) ||
  (before.any fun e => (s.seqsOf p e).any fun q => (s.seqsOf p w).contains q) ||
  (match planOf w with
    | none => false
    | some id => before.any fun e => planNamed e = some id) ||
  (op = 0x61 && s.edgeWaits before w) ||
  (op = 0x60 && s.faults.heldPipes.contains (dBody w.raw 0 1))

/-- PlanId of the plan that an INVOKE or ATTEND runs. -/
def runPlan (w : Work) : Option W64 :=
  let op := dOpcode w.raw
  if op = 0x03 || op = 0x54 then some (BitVec.ofNat 64 (dBody w.raw 0 8)) else none

/-- An invocation of higher priority that was stopped waits for one of these tiles (R310). -/
def stoppedAbove (s : State) (p : Nat) (id : W64) (prio : Nat) : Bool :=
  match s.findPlan p id with
  | none => false
  | some l => (s.part p).invs.any fun v => v.stopped && v.planId ≠ id &&
      (match s.findWork p v.slot, s.findPlan p v.planId with
        | some w, some k => prio < dPriority w.raw && k.place.any l.place.contains
        | _, _ => false)

/-- The tiles of the plan that the descriptor runs hold it (R304, R310). -/
def tilesHold (s : State) (p : Nat) (w : Work) : Bool :=
  match runPlan w with
  | none => false
  | some id => !s.tilesFree p id || s.stoppedAbove p id (dPriority w.raw)

/-- Something other than its frame wait holds the descriptor in `slot` (R304, R314). -/
def held (s : State) (p slot : Nat) (w : Work) : Bool := s.heldApart p slot w || s.tilesHold p w

/-- A descriptor whose frame has its notice holds the frame's buffer from then on (R303). -/
def holdFrame (s : State) (p slot k : Nat) (b : Option (Nat × Option Blank)) : State :=
  match b with
  | none => s
  | some n => s.hold k (p * 64 + slot) n

/-- The operation begins: its phase and, for a frame wait, the hold on the frame's buffer. -/
def begin (s : State) (p slot k : Nat) (b : Option (Nat × Option Blank)) : State :=
  (s.setPhase p slot .running).holdFrame p slot k b

/-- The frame wait of the descriptor in `slot` is judged, and the descriptor starts with `go` when nothing holds it. -/
def tryStart (s : State) (p slot : Nat) (go : State → Nat → Work → State) : State :=
  match s.findWork p slot with
  | none => s
  | some w =>
    if w.phase ≠ .held then s
    else
      let k := dWaitPipe w.raw
      match s.frameWait p slot k (dWaitSeq w.raw) with
      | .wait => s
      | .short => s.endWork p slot 0x60 0 0 false
      | .missed => s.endWork p slot 0x61 0 0 false
      | .ready b => if s.held p slot w then s.holdFrame p slot k b else go (s.begin p slot k b) p w

/-! ### Taking (R299, R300) -/

/-- A write that the window drops: counted, and flagged with DESC_DROP (R300). -/
def dropDesc (s : State) (p : Nat) : State := (s.bump32 0x7027 (p + 1) 1).raise 0x7001 0

/-- The window of partition p, or its mirror, takes seals (R297, R402). -/
def takesSeals (s : State) (p : Nat) (mirror : Bool) : Bool :=
  s.negotiated && s.enabled p && (mirror || s.feature 0)

/-- The seal of a slot image is good: [31:16] 0x5EA2 and [15:0] the low half of Seq (R299). -/
def sealGood (raw : BitVec 1024) : Bool := dSeal raw = 0x5EA20000 + dSeq raw % 65536

/-- The slot's bytes as the window holds them. -/
def setWindow (s : State) (p slot : Nat) (raw : BitVec 1024) : State :=
  s.updPart p fun x => { x with window := NMap.set (fun _ => 0) x.window slot raw }

/-- A landed seal write leaves the image `raw` in `slot`: the write is dropped, takes nothing, or takes the descriptor, which is checked at take, ends at once, or goes on with `next`. -/
def takeWith (s : State) (p slot : Nat) (mirror : Bool) (raw : BitVec 1024) (extra : List Byte)
    (next : State → State) : State :=
  if !s.serves || !s.enabled p then s
  else if !s.takesSeals p mirror || (s.findWork p slot).isSome then s.dropDesc p
  else
    let s1 := s.setWindow p slot raw
    if !sealGood raw then s1
    else
      let w : Work := { slot := slot, raw := raw, mirror := mirror, phase := .held, extra := extra }
      let s2 := (s1.updPart p fun x => { x with work := x.work ++ [w] }).bump64 0x7026 (p + 1) 1
      if (s.part p).fenced then s2.endWork p slot 0x70 0 0 false
      else if !s2.takeOk p raw then s2.endWork p slot 0x12 0 0 false
      else next s2

/-- The same for a descriptor that waits, or starts with `go`. -/
def take (s : State) (p slot : Nat) (mirror : Bool) (raw : BitVec 1024) (extra : List Byte)
    (go : State → Nat → Work → State) : State :=
  s.takeWith p slot mirror raw extra fun t => t.tryStart p slot go

/-- A descriptor command: the seal write of a slot whose image names operation `op`. R389 gives no effect to a seal behind which an earlier write of its slot could be reordered. -/
def takeDesc (s : State) (op : Nat) (d : DescImage) (extra : List Byte)
    (go : State → Nat → Work → State) : Host.Outcome State Fault Refusal :=
  if d.reorderable then .fault .sealReordered
  else if dOpcode d.raw ≠ op then .next s
  else .next (s.take d.part.val d.slot.val d.mirror d.raw extra go)

end State

end Sys2Proof.Machine
end

