-- ==== Sys2Proof/Machine/Camera.lean ====
section
/-! DEFINITION. Camera ports, frames, exposure settings, frame notices, raw capture, re-processing and the I²C masters (R219 to R250). -/

namespace Sys2Proof.Machine

def Sensor.idle : Sensor := ⟨none, Settings.first, none, [], 0⟩
def I2c.idle : I2c := ⟨false, 5, [], 0, [], none, []⟩

/-- ceil64. -/
def ceil64 (n : Nat) : Nat := (n + 63) / 64 * 64
def ceilDiv (a b : Nat) : Nat := (a + b - 1) / b

/-- Raw codes of a line of packed pixels of `b` bits, as CSI-2 packs them (PRESUMED: the packing is that of the CSI-2 standard R219 names). -/
def unpack (b n : Nat) (bs : List Byte) : List Nat :=
  let at_ (i : Nat) : Nat := ((bs[i]?).getD 0).toNat
  (List.range n).map fun i =>
    if b = 8 then at_ i
    else if b = 10 then at_ (i / 4 * 5 + i % 4) * 4 + at_ (i / 4 * 5 + 4) / 4 ^ (i % 4) % 4
    else if b = 12 then at_ (i / 2 * 3 + i % 2) * 16 + at_ (i / 2 * 3 + 2) / 16 ^ (i % 2) % 16
    else if b = 14 then
      let low := at_ (i / 4 * 7 + 4) + 256 * at_ (i / 4 * 7 + 5) + 65536 * at_ (i / 4 * 7 + 6)
      at_ (i / 4 * 7 + i % 4) * 64 + low / 64 ^ (i % 4) % 64
    else if b = 16 then at_ (2 * i) * 256 + at_ (2 * i + 1)
    else
      let o := i / 2 * 5 + i % 2 * 2
      let low := at_ (i / 2 * 5 + 4) / 16 ^ (i % 2)
      (at_ o * 4 + low / 4 % 4) * 1024 + at_ (o + 1) * 4 + low % 4

namespace State

def sensor (s : State) (n : Nat) : Sensor := NMap.get (fun _ => Sensor.idle) s.sensors n
def setSensor (s : State) (n : Nat) (x : Sensor) : State :=
  { s with sensors := NMap.set (fun _ => Sensor.idle) s.sensors n x }
def updSensor (s : State) (n : Nat) (f : Sensor → Sensor) : State := s.setSensor n (f (s.sensor n))
def i2cM (s : State) (m : Nat) : I2c := NMap.get (fun _ => I2c.idle) s.i2cs m
def setI2c (s : State) (m : Nat) (x : I2c) : State :=
  { s with i2cs := NMap.set (fun _ => I2c.idle) s.i2cs m x }

/-- A host holds the lease. -/
def hostLease (s : State) : Bool := s.rdn 0x2100 3 = 1

/-! ### Bindings (R221 to R223) -/

/-- The configuration of sensor n that the entries hold now. -/
def sensorCfg (s : State) (n : Nat) : SensorCfg :=
  let b := s.rdn 0x6020 (n + 1)
  let ty := s.rdn 0x6021 (n + 1)
  let sz := s.rdn 0x6023 (n + 1)
  { port := bits b 31 30, vc := bits b 27 24, exposures := bits b 23 22, staggered := bit b 21
    cfa := bits b 15 12, dataType := bits b 7 0, types := [bits b 7 0, ty % 256, ty / 256]
    width := sz % 65536, height := sz / 65536, part := s.rdn 0x6024 (n + 1)
    black := [0, 1, 2, 3].map fun k => s.rdn (0x6030 + k) (n + 1) % 16777216
    table := s.dmn [] 0x6040 (n + 1), defects := s.dmn [] 0x6041 (n + 1)
    defectCfg := s.rdn 0x6042 (n + 1), rawBase := s.rdn 0x6028 (n + 1)
    rawSlots := s.rdn 0x6029 (n + 1), rawSlotBytes := s.rdn 0x602A (n + 1) }

/-- The configuration of pipeline k that the entries hold now. -/
def pipeCfg (s : State) (k : Nat) : PipeCfg :=
  let c := s.rdn 0x6102 (k + 1)
  let o := s.rdn 0x6103 (k + 1)
  { part := s.rdn 0x6101 (k + 1), cropX := bits c 15 0, cropY := bits c 31 16, cropW := bits c 47 32
    cropH := bits c 63 48, outW := o % 65536, outH := o / 65536, control := s.rdn 0x6104 (k + 1)
    base := s.rdn 0x6105 (k + 1), bufStride := s.rdn 0x6106 (k + 1)
    planeStride := s.rdn 0x6107 (k + 1), lineStride := s.rdn 0x6108 (k + 1)
    buffers := s.rdn 0x6109 (k + 1), statsBase := s.rdn 0x610A (k + 1)
    noticeAddr := s.rdn 0x610B (k + 1), noticeCount := s.rdn 0x610C (k + 1)
    invWhite := BitVec.ofNat 32 (s.rdn 0x610D (k + 1)), matrix := s.dmn [] 0x610E (k + 1)
    curve := s.dmn [] 0x610F (k + 1) }

end State

/-- Exposure of a channel under a binding, if the binding uses the channel (R221). -/
def SensorCfg.exposureOn (c : SensorCfg) (port vc : Nat) : Option Nat :=
  if c.exposures = 0 || c.port ≠ port then none
  else if c.staggered then (if vc = c.vc then some 0 else none)
  else if c.vc ≤ vc && vc < c.vc + c.exposures then some (vc - c.vc) else none

namespace State

/-- The sensor whose frame in progress, or else whose binding, uses a channel, with the exposure. -/
def channelSensor (s : State) (port vc : Nat) : Option (Nat × Nat) :=
  (List.range 16).findSome? fun n =>
    let c := match (s.sensor n).frame with
      | some f => f.cfg
      | none => s.sensorCfg n
    (c.exposureOn port vc).map fun e => (n, e)

/-- The sensor whose exposure 0 the present binding puts on a channel. -/
def startSensor (s : State) (port vc : Nat) : Option Nat :=
  (List.range 16).find? fun n => (s.sensorCfg n).exposureOn port vc = some 0

/-- Port `port` is powered and receives: enabled, in ACTIVE, or in WATCH for the sentinel partition's live pipeline (Table 12-2, R402). -/
def portOn (s : State) (port : Nat) : Bool :=
  s.serves && !s.without 4 && bit (s.rdn 0x6010 (port + 1)) 0 &&
  (s.power.state = 4 || (s.power.state = 3 && (List.range 8).any fun k =>
    some (s.rdn 0x6101 (k + 1)) = s.sentinel && s.rdn 0x6100 (k + 1) < 16 &&
    (s.sensorCfg (s.rdn 0x6100 (k + 1))).port = port))

/-- The live pipeline of sensor n that processes its next frame now (R223, R249). -/
def livePipe (s : State) (n : Nat) : Option Nat :=
  (List.range 8).find? fun k =>
    s.rdn 0x6100 (k + 1) = n &&
    (s.power.state = 4 || (s.power.state = 3 && some (s.rdn 0x6101 (k + 1)) = s.sentinel &&
      (s.sensor n).divided % s.rdn 0x6002 1 = 0))

/-- A dropped packet is counted (R220). -/
def dropPacket (s : State) (port : Nat) (n : Option Nat) : State :=
  let s1 := match n with
    | some k => s.bump32 0x6064 (k + 1) 1
    | none => s.bump32 0x6011 (port + 1) 1
  s1.raise 0x6001 3

/-! ### Writing into a partition's memory -/

/-- Write bytes at a bonded-window address of partition p. -/
def putWindow (s : State) (p a : Nat) (bs : List Byte) : State :=
  match region a with
  | some (.window o) => s.writeWindow p o bs
  | _ => s

/-- Read bytes at a bonded-window address of partition p. -/
def getWindow (s : State) (p a n : Nat) : List Byte :=
  match region a with
  | some (.window o) => s.readWindow p o n
  | _ => List.replicate n 0

/-! ### Buffers (R238) -/

def bufferFree (s : State) (k n : Nat) : Bool :=
  !bit (s.rdn 0x6110 (k + 1)) n && !(s.pipe k).holds.any fun h => h.buffer = n

/-- The next buffer in rotation that is neither locked nor held. -/
def nextBuffer (s : State) (k count : Nat) : Option Nat :=
  ((List.range count).map fun i => ((s.pipe k).next + i) % count).find? (s.bufferFree k)

/-- Take a buffer for a frame, or drop the frame (R238). A held pipeline drops every frame (Table 13-4). -/
def takeBuffer (s : State) (k count : Nat) : Option Nat × State :=
  match (if s.faults.heldPipes.contains k then none else s.nextBuffer k count) with
  | some b => (some b, s.updPipe k fun x => { x with next := (b + 1) % count })
  | none => (none, (s.bump32 0x6112 (k + 1) 1).raise 0x6001 4)

/-! ### Processing a frame -/

end State

/-- Valid input rows V of a frame (R225). -/
def Frame.valid (f : Frame) : Nat :=
  let rows := (List.range (max 1 f.cfg.exposures)).foldl
    (fun a e => min a (NMap.get (fun _ => 0) f.counts e)) f.cfg.height
  match f.cut with
  | some c => min rows c
  | none => rows

/-- The raw code of exposure e at (x, y). -/
def Frame.code (f : Frame) (e x y : Nat) : Nat :=
  ((NMap.get (fun _ => []) f.lines (e * 16384 + y))[x]?).getD 0

/-- The 32 bytes of a frame notice (Table 8-2). -/
def Notice.bytes (n : Notice) : List Byte :=
  leBytes 4 n.frameSeq ++ leBytes 4 n.gen ++ leBytes 8 n.start ++ leBytes 2 n.rows ++
  leBytes 1 (n.buffer.getD 0xFF) ++ leBytes 1 n.sensor ++ leBytes 4 n.flags ++ leBytes 4 n.dropped ++
  leBytes 4 n.seq

namespace State

/-- Write the output rows and the statistics record of a frame, and keep its notice for the notice step (R237, R239, R243). -/
def outputFrame (s : State) (k : Nat) (pc : PipeCfg) (n : Nat) (f : Frame) (extraFlags : Nat)
    (req : Option (Nat × Nat × Nat)) : State :=
  let v := f.valid
  let short := v < f.cfg.height
  let m := merged f.cfg f.set f.code
  let (draw, s) := if short then s.draw else (0, s)
  let rows := match f.buffer with
    | some _ => validOutRows f.cfg pc v
    | none => 0
  let seq := s.rdn 0x6113 (k + 1)
  let note : Notice :=
    { frameSeq := f.seq, gen := f.set.gen, start := f.start, rows := rows, buffer := f.buffer
      sensor := n
      flags := b2n short + 2 * b2n f.long + 4 * b2n short + extraFlags + 32 * b2n f.buffer.isNone + 64 * b2n f.late
      dropped := f.dropped, seq := seq }
  let s1 := s.bump32 0x6113 (k + 1) 1
  let s2 := match f.buffer with
    | none => s1
    | some b =>
      (List.range (pc.planes f.cfg)).foldl (fun s c => (List.range rows).foldl (fun s y =>
        s.putWindow pc.part (pc.base + b * pc.bufStride + c * pc.planeStride + y * pc.lineStride)
          (outRow f.cfg pc f.set v draw m c y)) s) s1
  let s3 := s2.putWindow pc.part (pc.statsBase + seq % pc.buffers * 8192)
    (note.bytes ++ statsBody f.cfg f.code m v f.embedded)
  s3.updPipe k fun x => { x with ready := x.ready ++ [⟨note, pc, !f.cfg.isBayer, req⟩] }

/-- Bytes of one pixel in a raw slot, and of one line (R245). -/
def pixelBytes (c : SensorCfg) : Nat := if rawBits c.dataType ≤ 16 then 2 else 4
def rawLine (c : SensorCfg) : Nat := ceil64 (c.width * pixelBytes c)

/-- Raw capture of a frame (R245, Table 8-6). -/
def rawCapture (s : State) (n : Nat) (f : Frame) (noFe : Bool) : State :=
  let c := f.cfg
  if c.rawSlots = 0 || s.power.state ≠ 4 || 128 ≤ c.part then s
  else
    let base := c.rawBase + f.seq % c.rawSlots * c.rawSlotBytes
    let v := f.valid
    let head := leBytes 4 0x57415243 ++ leBytes 1 n ++ leBytes 1 c.exposures ++ leBytes 1 c.dataType ++
      leBytes 1 c.cfa ++ leBytes 2 c.width ++ leBytes 2 c.height ++ leBytes 2 v ++
      leBytes 2 (b2n (v < c.height) + 2 * b2n f.long + 4 * b2n noFe) ++ leBytes 4 f.seq ++
      leBytes 4 f.set.gen ++ leBytes 8 f.start ++ slice f.set.raw 0 32
    (List.range c.exposures).foldl (fun s e => (List.range v).foldl (fun s y =>
      s.putWindow c.part (base + 64 + (e * c.height + y) * rawLine c)
        ((List.range c.width).flatMap fun x => leBytes (pixelBytes c) (f.code e x y))) s)
      (s.putWindow c.part base head)

/-- `k` lines of sensor n's frame are discarded: each counts, and LINE_DROP is set (R225, R227). -/
def discardLines (s : State) (n k : Nat) : State :=
  (List.range k).foldl (fun s _ => (s.bump64 0x6063 (n + 1) 1).raise 0x6001 2) s

end State

/-- The frame without the lines that it keeps of rows that cannot exist, from row `v` on, which are discarded; and how many they are (R225). -/
def Frame.cutLines (f : Frame) (v : Nat) : Frame × Nat :=
  let gone := (f.lines.filter fun x => v ≤ x.1 % 16384).length
  ({ f with lines := f.lines.filter fun x => x.1 % 16384 < v, dropped := f.dropped + gone }, gone)

namespace State

/-- A frame of sensor n ends (R224 to R227): the lines of rows that some exposure never sent are discarded; raw capture, the pipeline's output, and the counters follow. -/
def endFrame (s : State) (n : Nat) (noFe : Bool) : State :=
  match (s.sensor n).frame with
  | none => s
  | some f0 =>
    let (f, gone) := f0.cutLines f0.valid
    let s0 := (s.updSensor n fun x => { x with frame := none }).discardLines n gone
    let s1 := if f.valid < f.cfg.height then (s0.bump32 0x6061 (n + 1) 1).raise 0x6001 0 else s0
    let s2 := if f.long then (s1.bump32 0x6062 (n + 1) 1).raise 0x6001 1 else s1
    let s3 := s2.rawCapture n f noFe
    match f.pipe with
    | none => s3
    | some (k, pc) => s3.outputFrame k pc n f (16 * b2n noFe) none

/-! ### Settings at a Frame Start (R241, R242) -/

/-- FrameSeq a is at or before b, modulo 2^32. -/
def seqLe (a b : Nat) : Bool := (b + 4294967296 - a) % 4294967296 < 2147483648

/-- The settings that frame `seq` carries: the last issued ones that apply by then; and whether that frame is their late first one. -/
def applySettings (s : State) (n seq : Nat) : State × Bool :=
  let x := s.sensor n
  let due := x.issued.filter fun i => match i.applies with | some a => seqLe a seq | none => false
  match due.getLast? with
  | none => (s, false)
  | some i =>
    let s1 := s.setSensor n { x with current := i.set
                                     issued := x.issued.filter fun j => !(due.contains j) }
    (s1.wrn 0x6052 (n + 1) i.set.gen, i.late && i.applies = some seq)

/-- What waits for the bus of master m takes it when the bus is free: a settings record before the host transaction (R247). The writes of a settings record go out one by one until it ends. -/
def grantI2c (s : State) (m : Nat) : State :=
  let x := s.i2cM m
  match x.bus, x.queue with
  | some _, _ => s
  | none, n :: rest => s.setI2c m { x with bus := some (some n), queue := rest }
  | none, [] => if x.busy then (s.setI2c m { x with bus := some none }).emit (.i2c m x.host x.readBytes) else s

/-- What has the bus of master m lets go of it. -/
def freeI2c (s : State) (m : Nat) : State := (s.setI2c m { s.i2cM m with bus := none }).grantI2c m

/-- The bytes of one write of a settings record on the bus, under `SensorI2c` `cfg`. -/
def settingsWrite (cfg : Nat) (w : W32) : List Byte :=
  leBytes 1 (cfg % 128) ++ [w.extractLsb' 24 8, w.extractLsb' 16 8] ++
  (if bit cfg 13 then [w.extractLsb' 8 8, w.extractLsb' 0 8] else [w.extractLsb' 0 8])

/-- The waiting record is issued at frame `seq`: its writes wait for the sensor's I²C master, and one without I²C writes applies N frames later. -/
def issueSettings (s : State) (n seq : Nat) : State :=
  let x := s.sensor n
  match x.waiting with
  | none => s
  | some t =>
    let now := !t.i2c || t.writes.isEmpty
    let i : IssuedSettings :=
      { set := t, issuedAt := seq
        applies := if now then some ((seq + s.rdn 0x6026 (n + 1)) % 4294967296) else none, late := false
        i2c := s.rdn 0x6025 (n + 1) }
    let s1 := s.setSensor n { x with waiting := none, issued := x.issued ++ [i] }
    if now then s1
    else
      let m := bits i.i2c 15 14
      (s1.setI2c m { s1.i2cM m with queue := (s1.i2cM m).queue ++ [n] }).grantI2c m

/-- A Frame Start on the channel of exposure 0 of sensor n begins a frame (R224). -/
def beginFrame (s : State) (n : Nat) : State :=
  let s0 := s.endFrame n true
  let seq := (s0.rdn 0x6053 (n + 1) + 1) % 4294967296
  let s1 := (s0.bump64 0x6060 (n + 1) 1).wrn 0x6053 (n + 1) seq
  let (s2, late) := s1.applySettings n seq
  let s3 := s2.issueSettings n seq
  let k := s3.livePipe n
  let s4 := s3.updSensor n fun x => { x with divided := x.divided + 1 }
  let (b, s5) := match k with
    | some k => s4.takeBuffer k (s4.pipeCfg k).buffers
    | none => (none, s4)
  let c := s5.sensorCfg n
  let f : Frame :=
    { seq := seq, start := s5.time, cfg := c, set := (s5.sensor n).current, late := late
      pipe := k.map fun k => (k, s5.pipeCfg k), buffer := b
      begun := if c.staggered then List.range c.exposures else [0], ended := [], counts := []
      lines := [], cut := none, dropped := 0, long := false, embedded := [] }
  s5.updSensor n fun x => { x with frame := some f }

def updFrame (s : State) (n : Nat) (g : Frame → Frame) : State :=
  s.updSensor n fun x => { x with frame := x.frame.map g }

end State

/-- FRAME_START: a Frame Start packet on a virtual channel. One whose header fails is no Frame Start: LONG_PACKET drops it. -/
def execFrameStart (port : Fin 4) (vc : Fin 16) (s : State) : Host.Outcome State Fault Refusal :=
  .next <|
    if !s.portOn port.val then s
    else match s.startSensor port.val vc.val with
      | some n => s.beginFrame n
      | none =>
        match s.channelSensor port.val vc.val with
        | some (n, e) => s.updFrame n fun f => { f with begun := if f.begun.contains e then f.begun else e :: f.begun }
        | none => s.dropPacket port.val none

namespace State

/-- The exposure whose line a long packet carries, if its data type is one that the binding expects (R219, R222). -/
def lineExposure (c : SensorCfg) (e dataType : Nat) : Option Nat :=
  if c.staggered then (List.range c.exposures).find? fun i => (c.types[i]?).getD 0 = dataType
  else if dataType = c.dataType then some e else none

/-- A line of a frame (R225, R227): beyond Height or after the cut it is discarded, a bad one cuts the frame, a good one is kept. -/
def putLine (s : State) (n e : Nat) (good : Bool) (codes : List Nat) : State :=
  match (s.sensor n).frame with
  | none => s
  | some f =>
    let y := NMap.get (fun _ => 0) f.counts e
    let g := { f with counts := NMap.set (fun _ => 0) f.counts e (y + 1) }
    let drop (f : Frame) : State :=
      ((s.updFrame n fun _ => { f with dropped := f.dropped + 1 }).bump64 0x6063 (n + 1) 1).raise 0x6001 2
    if f.cfg.height ≤ y then drop { g with long := true }
    else
      let past : Bool := match f.cut with | some c => c ≤ y | none => false
      if past then drop g
      else if good && f.begun.contains e then
        s.updFrame n fun _ => { g with lines := NMap.set (fun _ => []) g.lines (e * 16384 + y) codes }
      else
        let (h, gone) := { g with cut := some y }.cutLines y
        (s.updFrame n fun _ => h).discardLines n gone

end State

/-- LONG_PACKET: a long packet with its header, its checks and its bytes (R220, R225, R229). With a data type of a short packet, 0x00 to 0x0F, it stands for a short packet that no row of its own starts: a Line Start or Line End is ignored, and any whose header has a multi-bit error is dropped (R219, R220; the model's reading of the row, log entry 67). -/
def execLongPacket (port : Fin 4) (vc : Fin 16) (dataType : BitVec 6) (wordCount : Nat)
    (eccOk crcOk fifoFull : Bool) (bytes : List Byte) (s : State) : Host.Outcome State Fault Refusal :=
  .next <|
    if !s.portOn port.val then s
    else if dataType.toNat < 0x10 then
      (if eccOk then s else s.dropPacket port.val ((s.channelSensor port.val vc.val).map Prod.fst))
    else match s.channelSensor port.val vc.val with
      | none => s.dropPacket port.val none
      | some (n, e) =>
        let c := match (s.sensor n).frame with
          | some f => f.cfg
          | none => s.sensorCfg n
        if dataType.toNat = 0x12 then
          if eccOk && crcOk then s.updFrame n fun f => { f with embedded := (f.embedded ++ bytes).take 256 }
          else (s.dropPacket port.val (some n)).putLine n e false []
        else
          match State.lineExposure c e dataType.toNat with
          | none => (s.dropPacket port.val (some n)).putLine n e false []
          | some x =>
            let b := rawBits c.dataType
            let good := wordCount = ceilDiv (c.width * b) 8 && !fifoFull
            if eccOk && crcOk then s.putLine n x good (unpack b c.width bytes)
            else (s.dropPacket port.val (some n)).putLine n x false []

/-- FRAME_END: the frame ends once every exposure's channel has sent its Frame End (R224). -/
def execFrameEnd (port : Fin 4) (vc : Fin 16) (s : State) : Host.Outcome State Fault Refusal :=
  .next <|
    if !s.portOn port.val then s
    else match s.channelSensor port.val vc.val with
      | none => s.dropPacket port.val none
      | some (n, e) =>
        match (s.sensor n).frame with
        | none => s
        | some f =>
          let ended := if f.ended.contains e then f.ended else e :: f.ended
          if f.cfg.staggered || f.cfg.exposures ≤ ended.length then s.endFrame n false
          else s.updFrame n fun f => { f with ended := ended }

/-- FRAME_TIMEOUT: no packet for the frame within `FrameTimeoutMicros` (R224). -/
def execFrameTimeout (sensor : Fin 16) (s : State) : Host.Outcome State Fault Refusal :=
  .next (if s.serves then s.endFrame sensor.val true else s)

namespace State

/-- A notice is written to its ring and its message sent (R239). -/
def putNotice (s : State) (k : Nat) (n : Notice) (pc : PipeCfg) : State :=
  let s1 := (s.toHost (s.busAddr pc.part (pc.noticeAddr + n.seq % pc.noticeCount * 32)) n.bytes).bump64 0x6111 (k + 1) 1
  match pc.irq with
  | some v => s1.msix (pc.part + 1) v
  | none => s1

/-- The descriptors that wait on a noticed frame: those that may not start on it end, the others hold its buffer (R228, R238, R303). -/
def releaseWaiters (s : State) (k : Nat) : State :=
  let p := s.rdn 0x6101 (k + 1)
  if 128 ≤ p then s
  else
    ((s.part p).work.filter fun w => w.phase = .held && dWaitPipe w.raw = k).foldl (fun s w =>
      match s.frameWait p w.slot k (dWaitSeq w.raw) with
      | .short => s.endWork p w.slot 0x60 0 0 false
      | .missed => s.endWork p w.slot 0x61 0 0 false
      | .ready (some b) => s.hold k (p * 64 + w.slot) b
      | _ => s) s

/-- The notice step of the oldest processed frame of pipeline k: the notice unless the lease has lapsed (Table 8-7), the lock, the waiting descriptors, and the end of a REPROCESS. -/
def noticeStep (s : State) (k : Nat) : State :=
  match (s.pipe k).ready with
  | [] => s
  | d :: rest =>
    let n := d.note
    let pc := d.cfg
    let s0 := s.updPipe k fun x => { x with ready := rest, recent := (d :: x.recent).take 16 }
    let s1 :=
      if !s0.hostLease then s0.raise 0x6001 9
      else if s0.busMaster (pc.part + 1) then s0.putNotice k n pc
      else s0.updPipe k fun x => { x with unsent := x.unsent ++ [(n, pc)] }
    let s2 := match n.buffer with
      | some b => if pc.autoLock then s1.wrn 0x6110 (k + 1) (s1.rdn 0x6110 (k + 1) ||| 2 ^ b) else s1
      | none => s1
    let s3 := s2.releaseWaiters k
    match d.req with
    | some (p, slot, st) => s3.endWork p slot (if n.buffer.isNone then 0x61 else st) 0 0 false
    | none => s3

/-- Notices of function `fn` that waited for its Bus Master Enable are written (R391). -/
def flushNotices (fn : Nat) (s : State) (k : Nat) : State :=
  let go := (s.pipe k).unsent.filter fun x => x.2.part + 1 = fn
  go.foldl (fun s x => s.putNotice k x.1 x.2) (s.updPipe k fun x => { x with unsent := x.unsent.filter fun y => y.2.part + 1 ≠ fn })

end State

/-! ### Settings records (R240 to R242) -/

/-- The parameters of a settings record (Table 8-3). -/
def parseSettings (r : List Byte) (gen : Nat) : Settings :=
  { gen := gen, i2c := bit (field r 0 2) 0, ratio1 := field r 4 2, ratio2 := field r 6 2
    knee0Low := field r 8 4, knee0High := field r 0xC 4, knee1Low := field r 0x10 4
    knee1High := field r 0x14 4
    gains := [0, 1, 2].map fun i => BitVec.ofNat 32 (field r (0x18 + 4 * i) 4)
    writes := (List.range (field r 2 1)).map fun i => BitVec.ofNat 32 (field r (0x30 + 4 * i) 4)
    raw := slice r 4 32 }

/-- R240: the device accepts the record. -/
def settingsOk (r : List Byte) : Bool :=
  let t := parseSettings r 0
  let gainOk (g : W32) : Bool := F32.isFinite g && F32.le F32.zero g && F32.le g 0x41800000
  field r 2 1 ≤ 32 && r.length = 48 + 4 * field r 2 1 &&
  field r 0 2 < 2 && field r 3 1 = 0 && field r 0x24 8 = 0 && field r 0x2C 4 = 0 &&
  0x100 ≤ t.ratio1 && 0x100 ≤ t.ratio2 && t.ratio1 * t.ratio2 ≤ 256 * 65536 &&
  t.knee0Low < t.knee0High && t.knee1Low < t.knee1High &&
  t.knee0High ≤ 0xFFFFFF && t.knee1High ≤ 0xFFFFFF && t.gains.all gainOk

namespace State

/-- A settings record is written: refused, or accepted as the next generation, which replaces a waiting one (R240, R242). -/
def writeSettings (s : State) (n : Nat) (r : List Byte) : State :=
  if !settingsOk r then s.raise 0x6001 7
  else
    let gen := (s.rdn 0x6051 (n + 1) + 1) % 4294967296
    let s1 := s.wrn 0x6051 (n + 1) gen
    let s2 := match (s1.sensor n).waiting with
      | some _ => (s1.bump32 0x6054 (n + 1) 1).raise 0x6001 6
      | none => s1
    s2.updSensor n fun x => { x with waiting := some (parseSettings r gen) }

end State

/-- SETTINGS_I2C_DONE: the writes of the oldest issued record end (R242). With `ok` all of them went out; otherwise those up to the one that was not acknowledged or timed out did, and the rest never go: which one it was is a free value (log entry 68). -/
def execSettingsI2cDone (sensor : Fin 16) (ok : Bool) (s : State) : Host.Outcome State Fault Refusal :=
  .next <|
    let n := sensor.val
    let x := s.sensor n
    match (if s.alive then x.issued.find? fun i => i.applies = none else none) with
    | none => s
    | some i =>
      let m := bits i.i2c 15 14
      if (s.i2cM m).bus ≠ some (some n) then s
      else
      let (k, s) := if ok then (0, s) else s.draw
      let went := if ok then i.set.writes else i.set.writes.take (Config.freeNat k % i.set.writes.length + 1)
      let s := (went.foldl (fun s w => s.emit (.i2c m (State.settingsWrite i.i2c w) 0)) s).freeI2c m
      let drop := x.issued.filter fun j => j ≠ i
      if !ok then (s.setSensor n { x with issued := drop }).raise 0x6001 8
      else
        let last := s.rdn 0x6053 (n + 1)
        let late := State.seqLe ((i.issuedAt + 1) % 4294967296) last
        let a := (i.issuedAt + (if late then 1 else 0) + s.rdn 0x6026 (n + 1)) % 4294967296
        let j := { i with applies := some a, late := late }
        let s1 := s.setSensor n { x with issued := x.issued.map fun y => if y = i then j else y }
        if late then s1.raise 0x6001 5 else s1

/-! ### REPROCESS (R246) -/

namespace State

/-- The frame that a raw slot holds, of the Height that its header names. -/
def rawFrame (s : State) (p a : Nat) (c0 : SensorCfg) (h : List Byte) (buffer : Option Nat)
    (pipe : Option (Nat × PipeCfg)) : Frame :=
  let c := { c0 with height := field h 0xA 2 }
  let v := min (field h 0xC 2) c.height
  let line (e y : Nat) : List Nat :=
    let bs := s.getWindow p (a + 64 + (e * c.height + y) * rawLine c) (c.width * pixelBytes c)
    (List.range c.width).map fun x => field bs (x * pixelBytes c) (pixelBytes c)
  let keys := (List.range c.exposures).flatMap fun e => (List.range v).map fun y => (e, y)
  { seq := field h 0x10 4, start := s.time, cfg := c
    set := { parseSettings (List.replicate 4 0 ++ slice h 0x20 32 ++ List.replicate 12 0) (field h 0x14 4) with raw := slice h 0x20 32 }
    late := false, pipe := pipe, buffer := buffer, begun := List.range c.exposures, ended := []
    counts := (List.range c.exposures).foldl (fun m e => NMap.set (fun _ => 0) m e v) []
    lines := keys.foldl (fun m k => NMap.set (fun _ => []) m (k.1 * 16384 + k.2) (line k.1 k.2)) []
    cut := if v < c.height then some v else none, dropped := 0, long := false, embedded := [] }

end State

/-! ### I²C masters (R247) -/

namespace State

/-- A 36-byte write of `I2cTransfer` starts a transaction, which waits behind settings records for the bus; while one waits or runs, a write is aborted and changes nothing: the abort code. -/
def startI2c (s : State) (m : Nat) (data : List Byte) : State × Nat :=
  let x := s.i2cM m
  if x.busy then (s, 0x08000022)
  else if data.length ≠ 36 then (s, 0x06070010)
  else if 32 < field data 1 1 || 32 < field data 2 1 || 128 ≤ field data 0 1 || field data 3 1 ≠ 0 then (s, 0x06090030)
  else
    ((s.setI2c m { x with busy := true, status := 4, data := [], readBytes := field data 2 1
                          host := slice data 0 1 ++ slice data 4 (field data 1 1) }).grantI2c m, 0)

/-- The 36 bytes that a read of `I2cTransfer` returns. -/
def readI2c (s : State) (m : Nat) : List Byte :=
  let x := s.i2cM m
  [0, 0, 0] ++ leBytes 1 x.status ++ slice (if x.busy then [] else x.data) 0 32

end State

/-- I2C_TRANSFER_DONE: a host transaction ends with its Status and the bytes read. -/
def execI2cTransferDone (m : Fin 4) (status : Fin 4) (data : List Byte) (s : State) :
    Host.Outcome State Fault Refusal :=
  .next <|
    let x := s.i2cM m.val
    if s.alive && x.busy && x.bus = some none then
      (s.setI2c m.val { x with busy := false, status := status.val
                               data := if status.val = 0 then slice data 0 x.readBytes else [] }).freeI2c m.val
    else s

end Sys2Proof.Machine
end

