-- ==== Sys2Proof/Machine/Edge.lean ====
section
/-! DEFINITION. The edge engines: their programs, arithmetic, live runs, EDGE_RUN and notices (R253, R254, R265 to R273). -/

namespace Sys2Proof.Machine

/-! ### Programs (Table 9-6, R266) -/

/-- Output size in one direction (R253). -/
def outSize (n before after kernel stride : Nat) : Int :=
  ((n : Int) + before + after - kernel) / stride + 1

/-- A signed value of `n` bits. -/
def signed (n v : Nat) : Int := if v < 2 ^ (n - 1) then v else (v : Int) - 2 ^ n

namespace EdgeProg

def kind (g : List Byte) : Nat := field g 4 1
def kh (g : List Byte) : Nat := field g 5 1
def kw (g : List Byte) : Nat := field g 6 1
def sy (g : List Byte) : Nat := field g 7 1 / 16
def sx (g : List Byte) : Nat := field g 7 1 % 16
def cin (g : List Byte) : Nat := field g 8 2
def cout (g : List Byte) : Nat := field g 0xA 2
def top (g : List Byte) : Nat := field g 0xC 1
def bottom (g : List Byte) : Nat := field g 0xD 1
def left (g : List Byte) : Nat := field g 0xE 1
def right (g : List Byte) : Nat := field g 0xF 1
def padKind (g : List Byte) : Nat := field g 0x10 1
def inFormat (g : List Byte) : Nat := field g 0x11 1
def inZero (g : List Byte) : Int := signed 16 (field g 0x12 2)
def act (g : List Byte) : Nat := field g 0x14 1
def outFormat (g : List Byte) : Nat := field g 0x15 1
def outZero (g : List Byte) : Int := signed 8 (field g 0x16 1)
def outMul (g : List Byte) : W32 := BitVec.ofNat 32 (field g 0x18 4)
def bytes (g : List Byte) : Nat := field g 0x1C 4
def scale (g : List Byte) (o : Nat) : W32 := BitVec.ofNat 32 (field g (0x40 + 4 * o) 4)
def bias (g : List Byte) (o : Nat) : W32 := BitVec.ofNat 32 (field g (0x40 + 4 * cout g + 4 * o) 4)
def weight (g : List Byte) (o c ky kx : Nat) : Int :=
  signed 8 (field g (0x40 + 8 * cout g + ((o * cin g + c) * kh g + ky) * kw g + kx) 1)

/-- Length that the header implies. -/
def length (g : List Byte) : Nat := ceil64 (64 + 8 * cout g + cout g * cin g * kh g * kw g)

/-- Every field is in its range (R266). -/
def ok (g : List Byte) : Bool :=
  field g 0 4 = 0x45474450 && kind g ≤ 1 && 1 ≤ kh g && kh g ≤ 7 && 1 ≤ kw g && kw g ≤ 7 &&
  1 ≤ sy g && sy g ≤ 4 && 1 ≤ sx g && sx g ≤ 4 &&
  1 ≤ cin g && cin g ≤ (if kind g = 0 then 4 else 256) &&
  1 ≤ cout g && cout g ≤ (if kind g = 0 then 64 else 8) &&
  top g < kh g && bottom g < kh g && left g < kw g && right g < kw g &&
  padKind g ≤ 1 && inFormat g ≤ 1 && -128 ≤ inZero g && inZero g ≤ 255 && act g ≤ 2 &&
  outFormat g ≤ (if kind g = 0 then 1 else 2) && field g 0x17 1 = 0 &&
  (outFormat g ≠ 0 || (F32.isFinite (outMul g) && (F32.num (outMul g)).abs ≠ F32.num F32.zero)) &&
  bytes g = length g && slice g 0x20 32 = List.replicate 32 0

def outH (g : List Byte) (h : Nat) : Int := outSize h (top g) (bottom g) (kh g) (sy g)
def outW (g : List Byte) (w : Nat) : Int := outSize w (left g) (right g) (kw g) (sx g)

/-- Output planes and bytes of an output element (R268). -/
def planes (g : List Byte) : Nat := if outFormat g = 2 then 1 else cout g
def elem (g : List Byte) : Nat := if outFormat g = 0 then 1 else 2

end EdgeProg

/-! ### Arithmetic (R265) -/

/-- The tap value minus InZero: a zero-padding tap gives 0, a replicate tap the nearest edge element (R254). -/
def edgeTap (g : List Byte) (w h : Nat) (input : Nat → Nat → Nat → Nat) (c : Nat) (y x : Int) : Int :=
  let inside := 0 ≤ y && y < h && 0 ≤ x && x < w
  if !inside && EdgeProg.padKind g = 0 then 0
  else
    let yy := (max 0 (min ((h : Int) - 1) y)).toNat
    let xx := (max 0 (min ((w : Int) - 1) x)).toNat
    let v := input c yy xx
    (if EdgeProg.inFormat g = 0 then (v : Int) else signed 8 v) - EdgeProg.inZero g

/-- acc of output channel o at (yo, xo), exact. -/
def edgeAcc (g : List Byte) (w h : Nat) (input : Nat → Nat → Nat → Nat) (o yo xo : Nat) : Int :=
  (List.range (EdgeProg.cin g)).foldl (fun a c => (List.range (EdgeProg.kh g)).foldl (fun a ky =>
    (List.range (EdgeProg.kw g)).foldl (fun a kx =>
      a + EdgeProg.weight g o c ky kx *
        edgeTap g w h input c ((yo * EdgeProg.sy g + ky : Nat) - (EdgeProg.top g : Int))
          ((xo * EdgeProg.sx g + kx : Nat) - (EdgeProg.left g : Int))) a) a) 0

/-- y of output channel o after the activation. -/
def edgeValue (g : List Byte) (w h : Nat) (input : Nat → Nat → Nat → Nat) (o yo xo : Nat) : W32 :=
  let y := F32.add (F32.mul (F32.ofInt (edgeAcc g w h input o yo xo)) (EdgeProg.scale g o)) (EdgeProg.bias g o)
  if EdgeProg.act g = 1 then F32.max y F32.zero
  else if EdgeProg.act g = 2 then F32.clamp y F32.zero 0x40C00000 else y

/-- The lowest channel with the largest y. -/
def edgeIndex (g : List Byte) (w h : Nat) (input : Nat → Nat → Nat → Nat) (yo xo : Nat) : Nat :=
  ((List.range (EdgeProg.cout g)).foldl (fun (b : Nat × W32) o =>
    let y := edgeValue g w h input o yo xo
    if F32.isNan b.2 && !F32.isNan y || F32.lt b.2 y then (o, y) else b)
    (0, edgeValue g w h input 0 yo xo)).1

/-- Bytes of output element (plane o, row yo, column xo). -/
def edgeElement (g : List Byte) (w h : Nat) (input : Nat → Nat → Nat → Nat) (o yo xo : Nat) : List Byte :=
  if EdgeProg.outFormat g = 2 then leBytes 2 (edgeIndex g w h input yo xo)
  else
    let y := edgeValue g w h input o yo xo
    if EdgeProg.outFormat g = 1 then leBytes 2 (convBf16 (F32.num y)).code.toNat
    else
      let x := F32.num (F32.mul y (EdgeProg.outMul g))
      let t := match x with
        | .inf neg => if neg then -128 else 127
        | _ => x.rint + EdgeProg.outZero g
      leBytes 1 ((max (-128) (min 127 t)) % 256).toNat

/-- Output rows computed: all, or on a short frame those whose taps lie in the valid rows or in top padding (R267). -/
def edgeRows (g : List Byte) (short : Bool) (h valid : Nat) : Nat :=
  let ho := (EdgeProg.outH g h).toNat
  if !short then ho
  else ((List.range ho).takeWhile fun y =>
    (y * EdgeProg.sy g + EdgeProg.kh g : Nat) - (EdgeProg.top g : Int) ≤ valid).length

namespace State

def edge (s : State) (e : Nat) : Edge := NMap.get (fun _ => ⟨none, []⟩) s.edges e
def setEdge (s : State) (e : Nat) (x : Edge) : State :=
  { s with edges := NMap.set (fun _ => ⟨none, []⟩) s.edges e x }

/-- The edge program at an address: its header, then as many bytes as the header implies. -/
def readProgram (s : State) (p a : Nat) : List Byte :=
  let h := s.getWindow p a 64
  if EdgeProg.ok (h) then s.getWindow p a (EdgeProg.length h) else h

/-! ### Notices (R268, Table 9-7, Table 9-8) -/

/-- The notice ring of engine e as its entries have it now. -/
def edgeRing (s : State) (e : Nat) : EdgeRing :=
  ⟨s.rdn 0x6501 (e + 1), s.rdn 0x6508 (e + 1), s.rdn 0x6509 (e + 1), s.rdn 0x650A (e + 1)⟩

/-- Write the edge notice with NoticeSeq `seq` to its ring entry and send the message. -/
def putEdgeNotice (s : State) (r : EdgeRing) (seq : Nat) (bs : List Byte) : State :=
  let s1 := s.toHost (s.busAddr r.part (r.addr + seq % r.count * 32)) bs
  if bit r.control 4 then s1.msix (r.part + 1) (bits r.control 27 24) else s1

/-- A notice of engine e: withheld while no host holds the lease, waiting while Bus Master Enable is clear. -/
def edgeNotice (s : State) (e : Nat) (r : EdgeRing) (frameSeq gen start rows : Nat) (buffer : Option Nat) (flags micros seq : Nat) : State :=
  let bs := leBytes 4 frameSeq ++ leBytes 4 gen ++ leBytes 8 start ++ leBytes 2 rows ++
    leBytes 1 (buffer.getD 0xFF) ++ leBytes 1 e ++ leBytes 4 flags ++ leBytes 4 micros ++ leBytes 4 seq
  if !s.hostLease then s.raise 0x6401 4
  else if s.busMaster (r.part + 1) then s.putEdgeNotice r seq bs
  else
    let x := s.edge e
    s.setEdge e { x with unsent := x.unsent ++ [(r, seq, bs)] }

/-- Edge notices of function `fn` that waited for its Bus Master Enable are written (R391). -/
def flushEdge (fn : Nat) (s : State) (e : Nat) : State :=
  let x := s.edge e
  let go := x.unsent.filter fun y => y.1.part + 1 = fn
  go.foldl (fun s y => s.putEdgeNotice y.1 y.2.1 y.2.2) (s.setEdge e { x with unsent := x.unsent.filter fun y => y.1.part + 1 ≠ fn })

/-- A frame is skipped: a notice with SKIPPED, the counter, and the flag, if the reason has one (R267, Table 13-4). -/
def skipEdge (s : State) (e : Nat) (n : Notice) (flag : Option Nat) : State :=
  let seq := s.rdn 0x650E (e + 1)
  let s0 := (s.bump32 0x650E (e + 1) 1).bump32 0x650C (e + 1) 1
  let s1 := match flag with
    | some b => s0.raise 0x6401 b
    | none => s0
  s1.edgeNotice e (s.edgeRing e) n.frameSeq n.gen s.time 0 none (b2n (bit n.flags 0) + 2) 0 seq

/-! ### Live runs (R267) -/

/-- Engine e meets a processed frame of its pipeline. -/
def edgeFrame (s : State) (k : Nat) (d : FrameDone) (e : Nat) : State :=
  let n := d.note
  let pc := d.cfg
  if s.rdn 0x6500 (e + 1) ≠ k || s.without 5 then s
  else match n.buffer with
    | none => s
    | some b =>
      let p := s.rdn 0x6501 (e + 1)
      if s.faults.heldEdges.contains e then s.skipEdge e n none
      else if (s.edge e).job.isSome then s.skipEdge e n (some 1)
      else if bit n.flags 0 && !pc.acceptShort then s.skipEdge e n (some 0)
      else
        let g := s.readProgram p (s.rdn 0x6502 (e + 1))
        let planes := if d.mono || pc.colourOut = 2 then 1 else 3
        if !EdgeProg.ok g || EdgeProg.outH g pc.outH ≤ 0 || EdgeProg.outW g pc.outW ≤ 0 ||
            EdgeProg.cin g ≠ planes || EdgeProg.inFormat g ≠ pc.outFormat then s.skipEdge e n (some 2)
        else
          let seq := s.rdn 0x650E (e + 1)
          let ob := seq % s.rdn 0x6507 (e + 1)
          let j : EdgeJob :=
            { programAddr := s.rdn 0x6502 (e + 1), ring := s.edgeRing e, live := true, part := p, slot := 0, frameSeq := n.frameSeq, gen := n.gen
              short := bit n.flags 0, pipe := k, buffer := b, start := s.time, program := g
              input := [pc.base + b * pc.bufStride, pc.planeStride, pc.lineStride, pc.outW, pc.outH, n.rows]
              output := [s.rdn 0x6503 (e + 1) + ob * s.rdn 0x6504 (e + 1), s.rdn 0x6505 (e + 1), s.rdn 0x6506 (e + 1)]
              outBuffer := ob, seq := seq, corrected := false, blank := none }
          let s1 := (s.bump32 0x650E (e + 1) 1).setEdge e { s.edge e with job := some j }
          s1.hold k (65536 + e) (b, none)

end State

/-- Argument `i` of a list of a run. -/
def edgeArg (l : List Nat) (i : Nat) : Nat := (l[i]?).getD 0

/-- Output rows of a run. -/
def EdgeJob.rows (j : EdgeJob) : Nat := edgeRows j.program j.short (edgeArg j.input 4) (edgeArg j.input 5)

/-- The rows of the output that a run writes: address and length of each. -/
def EdgeJob.outRows (j : EdgeJob) : List (Nat × Nat) :=
  let n := (EdgeProg.outW j.program (edgeArg j.input 3)).toNat * EdgeProg.elem j.program
  (List.range (EdgeProg.planes j.program)).flatMap fun o => (List.range j.rows).map fun y =>
    (edgeArg j.output 0 + o * edgeArg j.output 1 + y * edgeArg j.output 2, n)

/-- The rows of the input that a run reads: on a short frame the valid ones. -/
def EdgeJob.inRows (j : EdgeJob) : List (Nat × Nat) :=
  (List.range (EdgeProg.cin j.program)).flatMap fun c =>
    (List.range (if j.short then edgeArg j.input 5 else edgeArg j.input 4)).map fun y =>
      (edgeArg j.input 0 + c * edgeArg j.input 1 + y * edgeArg j.input 2, edgeArg j.input 3)

namespace State

/-- A line of the window that holds bytes [x.1, x.1 + x.2) is poisoned. -/
def rowPoison (s : State) (p : Nat) (x : Nat × Nat) : Bool :=
  match region x.1 with
  | some (.window o) => s.windowPoison p o x.2
  | _ => false

/-- A run reads a poisoned line, or writes one in part (R115, R270). -/
def edgePoison (s : State) (j : EdgeJob) : Bool :=
  s.rowPoison j.part (j.programAddr, EdgeProg.length j.program) ||
  j.inRows.any (s.rowPoison j.part) ||
  j.outRows.any fun x => match region x.1 with
    | some (.window o) => s.windowEdge j.part o x.2
    | _ => false

/-- The output rows of a run are written. -/
def edgeOutput (s : State) (j : EdgeJob) : State :=
  let g := j.program
  let w := edgeArg j.input 3
  let h := edgeArg j.input 4
  let input (c y x : Nat) : Nat :=
    let a := edgeArg j.input 0 + c * edgeArg j.input 1 + y * edgeArg j.input 2 + x
    field (blanked j.blank a (s.getWindow j.part a 1)) 0 1
  let wo := (EdgeProg.outW g w).toNat
  (List.range (EdgeProg.planes g)).foldl (fun t o => (List.range j.rows).foldl (fun t y =>
    t.putWindow j.part (edgeArg j.output 0 + o * edgeArg j.output 1 + y * edgeArg j.output 2)
      ((List.range wo).flatMap fun x => edgeElement g w h input o y x)) t) s

/-! ### EDGE_RUN (R270) -/

/-- Addresses [a, a + n) lie in the bonded window of partition p (R88). -/
def inWindow (s : State) (p a n : Nat) : Bool :=
  match region a with
  | some (.window o) => o + n ≤ s.windowBytes p
  | _ => false

end State

/-- FRAME_NOTICE: the notice step of a pipeline's oldest processed frame, and the start of the edge engines bound to it. -/
def execFrameNotice (k : Fin 8) (s : State) : Host.Outcome State Fault Refusal :=
  .next <|
    if !s.serves then s
    else match (s.pipe k.val).ready with
      | [] => s
      | d :: _ => [0, 1].foldl (fun s e => s.edgeFrame k.val d e) (s.noticeStep k.val)

end Sys2Proof.Machine
end

