-- ==== Sys2Proof/Machine/PlanImage.lean ====
section
/-! DEFINITION. Tile plan images: their records, and the checks of the load steps (R37 to R45, R53, R63, R65, R67, R72, R74, R80, R81, R89, R109, R209, R252, R376, R465 to R468, R470). -/

namespace Sys2Proof.Machine

/-! ### Reading the records -/

/-- Offset and record count of the section of type `ty` (Table 2-7). -/
def section_ (img : List Byte) (ty : Nat) : Option (Nat × Nat) :=
  (List.range (min 16 (field img 0x38 1))).findSome? fun i =>
    let o := 0x80 + 8 * i
    if field img o 1 = ty then some (field img (o + 4) 4, field img (o + 2) 2) else none

/-- The records of a section, each as its bytes. -/
def records (img : List Byte) (ty size : Nat) : List (List Byte) :=
  match section_ img ty with
  | none => []
  | some (o, n) => (List.range n).map fun i => slice img (o + i * size) size

/-- The low 48 bits of an address field. -/
def addr48 (r : List Byte) (o : Nat) : Nat := field r o 6

def parseSlot (r : List Byte) : SlotRec :=
  ⟨field r 0 2, field r 2 1, field r 3 1, field r 4 2, field r 6 1, field r 8 4, field r 0xC 4⟩

def parseGang (r : List Byte) : GangRec :=
  ⟨field r 0 2, field r 2 1, field r 3 1, field r 4 1, field r 5 1, field r 6 1, field r 7 1, field r 8 2⟩

def parseFeed (r : List Byte) : FeedRec :=
  ⟨field r 0 2, field r 2 2, field r 4 2, field r 6 2, field r 8 4, field r 0xC 2, field r 0xE 1,
    bit (field r 0xF 1) 0⟩

def parsePost (r : List Byte) : PostRec :=
  { copy := 0, slot := field r 0 2, gang := field r 2 2
    stages := (List.range (min 8 (field r 4 1))).map fun i => field r (8 + i) 1
    outFormat := field r 5 1, statsIn := bit (field r 6 2) 0, statsOut := bit (field r 6 2) 1
    symmetric := bit (field r 6 2) 2, param := addr48 r 0x10, aux := addr48 r 0x18
    auxStride := field r 0x20 4, auxFormat := field r 0x24 1, outStream := field r 0x26 2
    colSum := addr48 r 0x28, outMul := BitVec.ofNat 32 (field r 0x30 4), rowScale := field r 0x34 6
    setIn := field r 0x3A 2, setOut := field r 0x3C 2 }

/-- The POST records in order, each numbered among those of its slot. -/
def parsePosts (rs : List (List Byte)) : List PostRec :=
  rs.foldl (fun (ps : List PostRec) r =>
    let x := parsePost r
    ps ++ [{ x with copy := (ps.filter fun y => y.slot = x.slot).length }]) []

def parseStream (r : List Byte) : StreamRec :=
  { source := addr48 r 0, dest := addr48 r 8, rowBytes := field r 0x10 4, rowCount := field r 0x14 4
    srcStride := field r 0x18 4, dstStride := field r 0x1C 4, index := field r 0x20 2
    elemBits := field r 0x22 1, kind := field r 0x23 1, slot := field r 0x24 2
    transpose := bit (field r 0x26 2) 0, weightSource := bit (field r 0x26 2) 1 }

def parseCheap (r : List Byte) : CheapRec :=
  let f := field r 2 2
  ⟨field r 0 2, bit f 0, bit f 1, bit f 2, bit f 3, field r 4 4, field r 8 2, field r 0xA 2, field r 0xC 4⟩

def parseLive (r : List Byte) : LiveRec := ⟨addr48 r 0, field r 8 4, field r 0xC 2, field r 0xE 1⟩
def parseHint (r : List Byte) : HintRec := ⟨field r 0 4, field r 4 4, field r 8 4, field r 0xC 1⟩

/-- The plan that an image's bytes describe (Table 2-6). -/
def parsePlan (img : List Byte) : Plan :=
  let fl := field img 0x3C 4
  let slots := (records img 1 16).map parseSlot
  { planId := BitVec.ofNat 64 (field img 8 8), digest := BitVec.ofNat 256 (field img 0x10 32)
    planBytes := field img 0x30 4, slotCount := field img 0x34 2, gangCount := field img 0x36 2
    variant := field img 0x39 1, hasCheckpoints := bit fl 0, inputsPreserved := bit fl 1
    latencyMode := bit fl 2, streamPlan := bit fl 3, maxGap := field img 0x40 4
    ckptBytes := field img 0x44 4, clockTarget := field img 0x48 2, nominal := field img 0x4C 4
    degradedId := BitVec.ofNat 64 (field img 0x50 8), wBase := field img 0x58 8
    wBytes := field img 0x60 8, slots := slots, gangs := (records img 2 16).map parseGang
    feeds := (records img 3 16).map parseFeed, posts := parsePosts (records img 4 64)
    streams := (records img 5 48).map parseStream, cheaps := (records img 6 16).map parseCheap
    lives := (records img 7 16).map parseLive, hints := (records img 8 16).map parseHint
    configs := slots.map fun r => slice img r.cfgOff r.cfgBytes
    imageDigest := Config.shake256 img 32 }

/-- The Value of stage `i` of a POST record: the copy in its slot's CONFIG block (R466). -/
def Plan.value (p : Plan) (r : PostRec) (i : Nat) : Nat :=
  (Config.controlWord ((p.configs[r.slot]?).getD []) r.copy i).toNat

/-! ### Step 2 -/

def headerOk (img : List Byte) (bytes : Nat) : Bool :=
  field img 0 4 = 0x4E4C5054 && field img 5 1 = 1 && field img 4 1 ≤ 0 && field img 6 2 = 0x80 &&
  field img 0x30 4 = bytes && bytes % 64 = 0 && bytes ≤ 0x2000000 && 0x100 + 3312 ≤ bytes

/-! ### Step 4 -/

/-- Bytes of a record of each section type; 0 for the variable CONFIG section. -/
def recordSize (ty : Nat) : Nat :=
  if ty = 1 || ty = 2 || ty = 3 || ty = 6 || ty = 7 || ty = 8 then 16
  else if ty = 4 then 64 else if ty = 5 then 48 else 0

/-- The extent of a section: CONFIG ends with the last of the slots' blocks. -/
def sectionEnd (img : List Byte) (ty : Nat) : Nat :=
  match section_ img ty with
  | none => 0
  | some (o, n) =>
    if ty = 9 then ((records img 1 16).map fun r => field r 8 4 + field r 0xC 4).foldl max o
    else o + n * recordSize ty

/-- The directory: types known, each at most once, 64-byte aligned, apart, all required ones there, the padding before the signature block the least, and its last three bytes zero (R37, R38). -/
def directoryOk (img : List Byte) : Bool :=
  let n := field img 0x38 1
  let sig := field img 0x30 4 - 3312
  let tys := (List.range (min 16 n)).map fun i => field img (0x80 + 8 * i) 1
  let span (ty : Nat) : Nat × Nat := (((section_ img ty).map Prod.fst).getD 0, sectionEnd img ty)
  let last := (tys.map fun t => (span t).2).foldl max 0
  1 ≤ n && n ≤ 16 &&
  (tys.all fun t => 1 ≤ t && t ≤ 9) && tys.Nodup &&
  ((List.range (min 16 n)).all fun i => field img (0x80 + 8 * i + 1) 1 = 0) &&
  (slice img (0x80 + 8 * n) (128 - 8 * n)).all (· = 0) &&
  (tys.all fun t => (span t).1 % 64 = 0 && 0x100 ≤ (span t).1 && (span t).2 ≤ sig) &&
  (tys.all fun t => tys.all fun u => t = u || (span t).2 ≤ (span u).1 || (span u).2 ≤ (span t).1) &&
  ([1, 2, 3, 4, 5, 6, 9].all fun t => tys.contains t) &&
  (tys.contains 7 || ((records img 6 16).all fun r => field r 0xA 2 = 0)) &&
  last ≤ sig && sig - last < 64 && (slice img last (sig - last)).all (· = 0) &&
  slice img (sig + 3309) 3 = [0, 0, 0]

/-- Reserved fields of the header and of every record are zero. -/
def reservedOk (img : List Byte) : Bool :=
  field img 0x3A 2 = 0 && field img 0x3C 4 < 16 && field img 0x4A 2 = 0 &&
  (slice img 0x68 24).all (· = 0) &&
  ((records img 1 16).all fun r => field r 6 1 < 16 && field r 7 1 = 0) &&
  ((records img 2 16).all fun r => field r 0xA 6 = 0) &&
  ((records img 3 16).all fun r => field r 0xF 1 < 2) &&
  ((records img 4 64).all fun r => 1 ≤ field r 4 1 && field r 4 1 ≤ 8 && field r 6 2 < 8 && field r 0x16 2 = 0 && field r 0x1E 2 = 0 &&
    field r 0x25 1 = 0 && field r 0x2E 2 = 0 && field r 0x3E 2 = 0 &&
    (slice r (8 + min 8 (field r 4 1)) (8 - min 8 (field r 4 1))).all (· = 0)) &&
  ((records img 5 48).all fun r => field r 6 2 = 0 && field r 0xE 2 = 0 && field r 0x26 2 < 4 && field r 0x28 8 = 0) &&
  ((records img 6 16).all fun r => field r 2 2 < 16) &&
  ((records img 7 16).all fun r => field r 6 2 = 0 && field r 0xF 1 = 0) &&
  ((records img 8 16).all fun r => field r 0xD 3 = 0)

/-- Products per cell per cycle in quarters (Table 3-5). -/
def rate4 (kind cols : Nat) : Nat :=
  if kind = 0 then 16 else if kind = 1 then (if cols = 1 then 4 else if cols = 2 then 8 else 16)
  else if kind = 5 then 1 else 4

/-- The reduction length K of a gang whose passes have `steps` steps. The manual does not say what a BF16 gang does with a Steps that is not a multiple of four: K is rounded down (DESIGN CHOICE, log entry 63). -/
def GangRec.depth (g : GangRec) (steps : Nat) : Nat :=
  steps * rate4 g.kind g.cols / 4 * (if g.mode = 0 then 8 else 1)

namespace Plan

def popcount (m : Nat) : Nat := b2n (bit m 0) + b2n (bit m 1) + b2n (bit m 2) + b2n (bit m 3)

/-- Slots of gang `g`. -/
def gangSlots (p : Plan) (g : Nat) : List SlotRec := p.slots.filter fun r => r.gang = g

/-- SLOT and GANG records (R27, R39, R53, R65). -/
def gridOk (p : Plan) : Bool :=
  1 ≤ p.slotCount && p.slotCount ≤ 512 && 1 ≤ p.gangCount && p.gangCount ≤ 512 &&
  p.slots.map SlotRec.slot = List.range p.slotCount &&
  p.gangs.map GangRec.gang = List.range p.gangCount &&
  (p.slots.map fun r => (r.dx, r.dy)).Nodup &&
  (p.slots.all fun r => r.dx < 64 && r.dy < 8 && r.gang < p.gangCount && 64 ≤ r.cfgBytes && r.cfgBytes ≤ 32768) &&
  p.gangs.all fun g =>
    let mine := p.gangSlots g.gang
    let rows := (g.rows + 3) / 4
    let lead := (p.slots[g.lead]?).getD ⟨0, 0, 0, 0xFFFF, 0, 0, 0⟩
    g.mode ≤ 1 && (g.rows = 1 || g.rows = 2 || g.rows = 4 || g.rows = 8) && 1 ≤ g.cols &&
    g.rows * g.cols ≤ 64 &&
    (if g.mode = 0 then g.rows = 1 && g.cols = 1 else g.rows * g.cols ≠ 1) &&
    (if g.kind ≤ 1 then 1 ≤ g.codeBits && g.codeBits ≤ 4 && g.acc = 1
      else if g.kind = 2 then g.codeBits = 0 && g.acc = 0
      else g.kind ≤ 5 && g.codeBits = 0 && g.acc = 1) &&
    (g.kind ≠ 1 || g.cols = 1 || g.cols = 2 || g.cols = 4 || g.cols % 8 = 0) &&
    lead.gang = g.gang && g.lead < p.slotCount && mine.length = rows * g.cols &&
    (mine.all fun r => lead.dx ≤ r.dx && r.dx < lead.dx + g.cols && lead.dy ≤ r.dy && r.dy < lead.dy + rows) &&
    (mine.all fun r => if g.mode = 0 then 1 ≤ popcount r.mask else popcount r.mask = min g.rows 4)

/-- FEED records (R61, R63, R67, R71, R470). The manual does not say what ActStream and WeightStream hold for a slot that feeds only rows or only columns: both must name streams of the right kind and slot (DESIGN CHOICE, log entry 64). It states no ElementBits for the weight stream of kinds 2 to 5: those of the weights that R470 gives, 8 or 16, are required (DESIGN CHOICE, log entry 65). -/
def feedOk (p : Plan) (f : FeedRec) : Bool :=
  match p.gangs.find? (fun g => g.gang = f.gang), p.streams[f.act]?, p.streams[f.weight]? with
  | some g, some a, some w =>
    (p.gangSlots g.gang).any (fun r => r.slot = f.slot) &&
    a.kind = 1 && w.kind = 2 && a.slot = f.slot && w.slot = f.slot && 1 ≤ f.passes && 1 ≤ f.steps &&
    f.scaleMode ≤ 2 && (!f.zeroPoint || g.kind ≤ 2) &&
    (2 ≤ g.kind || g.depth f.steps % 64 = 0) && (f.scaleMode ≠ 2 || a.rowBytes = g.depth f.steps + 8) &&
    (if g.kind ≤ 2 then
      (if f.scaleMode = 1 then a.elemBits = 16 || a.elemBits = 32 else a.elemBits = 8)
    else if g.kind ≤ 4 then
      (if f.scaleMode = 0 then a.elemBits = 8 || a.elemBits = 16 || a.elemBits = 32
        else if f.scaleMode = 1 then a.elemBits = 16 || a.elemBits = 32 else a.elemBits = 8)
    else f.scaleMode = 0 && (a.elemBits = 16 || a.elemBits = 32)) &&
    w.elemBits = (if g.kind ≤ 1 then g.codeBits else if g.kind = 5 then 16 else 8)
  | _, _, _ => false

/-- A range touches the weight range. -/
def inWeights (x : Nat × Nat) : Bool := x.1 < 0x140000000000 && 0x100000000000 < x.1 + x.2

/-- STREAM records (Table 2-11, R109). -/
def streamOk (p : Plan) (r : StreamRec) : Bool :=
  1 ≤ r.rowBytes && r.rowBytes ≤ 16777216 && 1 ≤ r.rowCount && r.rowCount ≤ 16777216 &&
  (r.elemBits = 1 || r.elemBits = 2 || r.elemBits = 3 || r.elemBits = 4 || r.elemBits = 8 ||
    r.elemBits = 16 || r.elemBits = 32) && r.kind ≤ 3 && r.slot < p.slotCount &&
  r.rowBytes * 8 % r.elemBits = 0 && (!r.transpose || r.rowCount * r.elemBits % 8 = 0) &&
  (r.kind = 1 || r.kind = 2 ||
    (if r.transpose then r.rowCount * r.elemBits / 8 else r.rowBytes) ≤ r.dstStride) &&
  (!inWeights (r.source, r.rowBytes) || r.srcStride ≠ 0)

def isRowStage (op : Nat) : Bool := op = 0x10 || op = 0x11 || op = 0x12 || op = 0x13
def known (op : Nat) : Bool :=
  (1 ≤ op && op ≤ 0xA) || (0x10 ≤ op && op ≤ 0x13) || op = 0x18 || op = 0x19 || op = 0x1F

/-- A row stage's Value (Table 3-11). -/
def rowValueOk (v : Nat) : Bool :=
  let seg := bits v 31 24
  let ph := bits v 17 16
  let len := bits v 13 0
  bits v 23 18 = 0 && bits v 15 14 = 0 && ph ≠ 3 && 1 ≤ len && len ≤ 8192 &&
  (ph ≠ 0 || seg = 0) && (ph ≠ 2 || 1 ≤ seg)

/-- The highest index that an ARGMAX Value can yield (R80). -/
def topIndex (v : Nat) : Nat :=
  let seg := bits v 31 24
  let len := bits v 13 0
  if bits v 17 16 = 0 then len - 1 else if bits v 17 16 = 1 then seg * len + len - 1
  else (seg - 1) * len + len - 1

/-- POST records (R72, R74, R80, R81, R264). -/
def postOk (p : Plan) (r : PostRec) : Bool :=
  let n := r.stages.length
  let st (i : Nat) : Nat := (r.stages[i]?).getD 0
  let idx := List.range n
  let v (i : Nat) := p.value r i
  let last := st (n - 1)
  let dyn := last = 0x1F && F32.num r.outMul = F32.num F32.zero
  let gang := p.gangs.find? fun g => g.gang = r.gang
  let feeds := p.feeds.filter fun f => f.gang = r.gang
  let needDq := (match gang with | some g => g.acc = 0 | none => false) ||
    feeds.any fun f => f.scaleMode ≠ 0 || f.zeroPoint
  1 ≤ n && r.outFormat ≤ 6 && r.auxFormat ≤ 5 && r.slot < p.slotCount &&
  (r.gang = 0xFFFF || gang.isSome) &&
  (match p.streams[r.outStream]? with | some s => s.kind = 3 && s.slot = r.slot | none => false) &&
  (idx.all fun i => known (st i)) &&
  (!needDq || st 0 = 1) && (idx.all fun i => i = 0 || st i ≠ 1) &&
  (r.outFormat ≤ 3 → last = 0x1F) && (4 ≤ r.outFormat → !r.stages.contains 0x1F) &&
  (idx.all fun i => i = n - 1 || (st i ≠ 0x13 && st i ≠ 0x1F)) && (r.outFormat = 6 → last = 0x13) &&
  ((r.stages.filter isRowStage).length + b2n dyn ≤ 1) &&
  ((r.stages.filter (· = 5)).length ≤ 1) && (!r.stages.contains 5 || r.aux ≠ 0) &&
  (idx.all fun i => if st i = 0xA then v i ≤ 4 else if st i = 5 then v i ≤ 1
    else if st i = 0x18 || st i = 0x19 then 1 ≤ v i && v i ≤ 256
    else if isRowStage (st i) then rowValueOk (v i) && (st i ≠ 0x13 || topIndex (v i) ≤ 65534)
    else if st i = 0x1F && dyn then rowValueOk (v i) && bits (v i) 17 16 = 0 && bits (v i) 31 24 = 0
    else true)

/-- Every slot of a gang has exactly one POST record of that gang (R72). -/
def postsCover (p : Plan) : Bool :=
  p.slots.all fun s => (p.posts.filter fun r => r.slot = s.slot && r.gang = s.gang).length = 1

/-- LIVE records of a cheap point. -/
def livesOf (p : Plan) (c : CheapRec) : List LiveRec := (p.lives.drop c.firstLive).take c.liveCount

/-- Local-memory live bytes of a cheap point (R468), and of one slot at it (R312). -/
def localLive (p : Plan) (c : CheapRec) : Nat :=
  (((p.livesOf c).filter fun l => l.kind = 0).map LiveRec.bytes).foldl (· + ·) 0

/-- CHEAP and LIVE records (R40, R468, Table 2-13): a range lies in the memory that its kind names. The kind-1 ranges of a stream plan are offsets from a berth. -/
def cheapsOk (p : Plan) : Bool :=
  let cy := p.cheaps.map CheapRec.cycle
  let gaps := (cy.zip cy.tail).map fun x => x.2 - x.1
  p.cheaps.map CheapRec.index = List.range p.cheaps.length && cy.head? = some 0 &&
  cy.getLast? = some p.nominal && (cy.zip cy.tail).all (fun x => x.1 < x.2) &&
  p.maxGap = gaps.foldl max 0 &&
  (p.cheaps.all fun c => c.firstLive + c.liveCount ≤ p.lives.length || c.liveCount = 0) &&
  (p.cheaps.all fun c => c.liveBytes = ((p.livesOf c).map LiveRec.bytes).foldl (· + ·) 0) &&
  (p.cheaps.all fun c => !c.portable || (p.livesOf c).all fun l => l.kind ≠ 0) &&
  (p.cheaps.all fun c => !c.checkpoint || p.localLive c ≤ p.ckptBytes) &&
  p.lives.all fun l =>
    if l.kind = 0 then l.slot < p.slotCount && l.slot * 0x100000 ≤ l.addr && l.addr + l.bytes ≤ (l.slot + 1) * 0x100000
    else l.slot = 0xFFFF && (match region l.addr with
      | some (.state _) => l.kind = 1
      | some (.window _) => l.kind = 2
      | _ => p.streamPlan && l.kind = 1)

def hintsOk (p : Plan) : Bool :=
  p.hints.all fun h => 1 ≤ h.pageCount && h.firstPage + h.pageCount ≤ p.wBytes / 65536 && 1 ≤ h.kind && h.kind ≤ 3

/-- A cheap point at which the plan may be stopped (R310). -/
def usable (p : Plan) (c : CheapRec) : Bool := c.preempt && (p.localLive c = 0 || p.hasCheckpoints)

/-- G: the largest gap between consecutive usable PREEMPT points, cheap point 0 and the last one among them (R311). -/
def gap (p : Plan) : Nat :=
  let cy := (p.cheaps.filter fun c => p.usable c || c.index = 0 || c.index + 1 = p.cheaps.length).map CheapRec.cycle
  ((cy.zip cy.tail).map fun x => x.2 - x.1).foldl max 0

end Plan

/-! ### Addresses (R88, R89) -/

/-- The bytes that the source of a stream covers, as (address, length) of each row. -/
def StreamRec.sourceRows (r : StreamRec) : List (Nat × Nat) :=
  (List.range r.rowCount).map fun i => (r.source + i * r.srcStride, r.rowBytes)

/-- The bytes that a stream writes. -/
def StreamRec.destRows (r : StreamRec) : List (Nat × Nat) :=
  if r.transpose then
    (List.range (r.rowBytes * 8 / r.elemBits)).map fun k => (r.dest + k * r.dstStride, r.rowCount * r.elemBits / 8)
  else (List.range r.rowCount).map fun i => (r.dest + i * r.dstStride, r.rowBytes)

def StreamRec.writes (r : StreamRec) : Bool := r.kind = 0 || r.kind = 3

namespace State

/-- Weight regions of the plans loaded in partition p. -/
def loadedRegions (s : State) (p : Nat) : List (Nat × Nat) :=
  (s.part p).plans.flatMap fun l =>
    (l.plan.wBase, l.plan.wBytes) :: (l.variant.elim [] fun v => [(v.wBase, v.wBytes)])

/-- Partition p, with a plan of `slots` slots and the given weight region, may reach [a, a + n) (R88): in the weight range, the regions of this plan and of every plan loaded in it. -/
def reachable (s : State) (p slots wBase wBytes a n : Nat) (write : Bool) : Bool :=
  match region a with
  | some (.slotWindow k o) => k * 0x100000 + o + n ≤ slots * 0x100000
  | some (.state o) => o + n ≤ s.sliceBytes p
  | some (.window o) => o + n ≤ s.windowBytes p
  | some (.weight o) => !write &&
      ((wBase, wBytes) :: s.loadedRegions p).any fun x => x.1 ≤ o && o + n ≤ x.1 + x.2
  | some (.host _) => a + n ≤ 0x1000000000000
  | none => false

/-- Every STREAM, LIVE and POST address of a plan lies in R88 (R89). The kind-1 LIVE ranges of a stream plan are offsets from a berth. -/
def addressesOk (s : State) (p : Nat) (pl : Plan) : Bool :=
  let ok (a n : Nat) (w : Bool) := s.reachable p pl.slotCount pl.wBase pl.wBytes a n w
  (pl.streams.all fun r =>
    (r.sourceRows.all fun x => ok x.1 x.2 false) && (!r.writes || r.destRows.all fun x => ok x.1 x.2 true)) &&
  (pl.lives.all fun l => (pl.streamPlan && l.kind = 1) || ok l.addr l.bytes true) &&
  pl.posts.all fun r => ok r.param (32 * r.stages.length) false && (r.aux = 0 || ok r.aux 1 false) &&
    (r.colSum = 0 || ok r.colSum 1 false) && (r.rowScale = 0 || ok r.rowScale 1 true)

end State

/-! ### Step 6: the egress rule (R41, R376) -/

def overlaps (x y : Nat × Nat) : Bool := x.1 < y.1 + y.2 && y.1 < x.1 + x.2

def egressOk (pl : Plan) : Bool :=
  let fills := pl.streams.filter fun r => r.sourceRows.any Plan.inWeights && r.kind = 0
  let buffers := fills.flatMap fun r => r.destRows.map fun x => (r.index, x)
  let localDest (r : StreamRec) : Bool := r.destRows.all fun x => x.1 + x.2 ≤ 0x20000000
  pl.streams.all fun r =>
    (!r.sourceRows.any Plan.inWeights || (r.weightSource && (r.kind = 2 || (r.kind = 0 && localDest r)))) &&
    (!(r.sourceRows.any fun x => buffers.any fun b => overlaps x b.2) || r.kind = 2) &&
    (!r.writes || !r.destRows.any Plan.inWeights) &&
    (!r.writes || !r.destRows.any fun x => buffers.any fun b => b.1 ≠ r.index && overlaps x b.2) &&
    (!r.weightSource || r.sourceRows.all fun x =>
      0x100000000000 + pl.wBase ≤ x.1 && x.1 + x.2 ≤ 0x100000000000 + pl.wBase + pl.wBytes) &&
    pl.lives.all fun l =>
      (pl.streamPlan && l.kind = 1) || !(buffers.any fun b => overlaps (l.addr, l.bytes) b.2)

/-! ### Parameter records of the manifest -/

/-- Row bytes and block tokens of a head size and format (Table 7-3); none where the pair is not allowed. -/
def kvRow (headSize fmt : Nat) : Option (Nat × Nat) :=
  if fmt = 0 && (headSize = 32 || headSize = 64 || headSize = 128 || headSize = 256) then
    some (headSize, 32768 / headSize)
  else if fmt = 1 && (headSize = 64 || headSize = 128 || headSize = 256) then
    some (headSize / 2, 65536 / headSize)
  else none

namespace State

/-- The attention parameter record and its walker records (R209). -/
def attentionOk (s : State) (p : Nat) (pl : Plan) (r : List Byte) : Bool :=
  let f (o n : Nat) := field r o n
  let lanes := f 0xE 2
  let n := f 0x16 2
  let span (base stride : Nat) : Bool := match region base with
    | some (.window o) => o + lanes * stride ≤ s.windowBytes p
    | _ => false
  match kvRow (f 0xA 2) (f 0xC 1) with
  | none => false
  | some (row, _) =>
    1 ≤ f 8 1 && f 8 1 ≤ 128 && 1 ≤ f 9 1 && f 9 1 ≤ 64 && f 0xD 1 = 0 && 1 ≤ lanes && lanes ≤ 256 &&
    512 ≤ f 0x10 4 && f 0x10 4 ≤ 262144 && f 0x10 4 % 512 = 0 && 1 ≤ f 0x14 2 && f 0x14 2 ≤ 4096 &&
    1 ≤ n && n ≤ 1024 && f 0x1E 2 = 0 && f 0x26 2 = 0 && (slice r 0x30 16).all (· = 0) &&
    span (addr48 r 0x18) (f 0x28 4) && span (addr48 r 0x20) (f 0x2C 4) &&
    (List.range n).all fun i =>
      let w := slice r (64 + 32 * i) 32
      let g (o n : Nat) := field w o n
      let op := g 2 1
      let hc := g 6 1
      let ring := g 0x1C 2
      let e := if bit (g 3 1) 1 then row * 17 / 16 else row
      let own (a n : Nat) : Bool := a / 0x100000 = g 0 2 && a % 0x100000 + n ≤ 0x100000
      g 0 2 < pl.slotCount && 1 ≤ op && op ≤ 7 && g 3 1 < 4 && g 4 1 < f 8 1 && 1 ≤ hc && hc ≤ 64 &&
      g 5 1 + hc ≤ f 9 1 && (if op = 4 then 1 ≤ g 7 1 && g 7 1 ≤ 64 else g 7 1 = 1) &&
      64 ≤ ring && ring ≤ 4096 && ring % 64 = 0 && g 0x1E 2 = 0 && g 0xE 2 = 0 && g 0x16 2 = 0 &&
      (op = 5 || op = 6 || addr48 w 0x10 = 0) &&
      (if op ≤ 2 then own (addr48 w 8) (2 * hc * ring * e)
        else if op = 3 then own (addr48 w 8) (2 * hc * ring * 4)
        else if op = 4 then own (addr48 w 8) (2 * hc * ring * 4 * g 7 1)
        else if op = 7 then own (addr48 w 8) (2 * ring * 4)
        else own (addr48 w 8) (lanes * f 0x14 2 * hc * row) && own (addr48 w 0x10) (lanes * f 0x14 2 * hc * 4))

/-- The convolution parameter record with its expansion and route records (R252, R253): a status, 0 when it is good. -/
def convolutionStatus (s : State) (p : Nat) (pl : Plan) (r : List Byte) : Nat :=
  let nE := field r 8 2
  let nR := field r 0xA 2
  let ex (i : Nat) := slice r (32 + 64 * i) 64
  let rt (i : Nat) := slice r (32 + 64 * nE + 48 * i) 48
  let outH (e : List Byte) := outSize (field e 0x14 2) (field e 8 1) (field e 9 1) (field e 4 1) (field e 6 1)
  let outW (e : List Byte) := outSize (field e 0x12 2) (field e 0xA 1) (field e 0xB 1) (field e 5 1) (field e 7 1)
  let own (k a n : Nat) : Bool := a / 0x100000 = k && a % 0x100000 + n ≤ 0x100000
  let exOk (i : Nat) : Bool :=
    let e := ex i
    let f (o n : Nat) := field e o n
    let es := f 0xD 1 / 8
    let kh := f 4 1
    let kw := f 5 1
    let wo := (outW e).toNat
    let line := if f 3 1 = 0 then f 0x12 2 * es else f 0x12 2 * f 0x10 2 * es
    let lines := if f 3 1 = 0 then f 0x10 2 * f 0x1E 2 else f 0x1E 2
    let rows := if f 2 1 = 0 then f 0x1A 2 else wo * kh * kw
    let outLine := if f 2 1 = 0 then wo * es else f 0x10 2 * es
    let mine := (List.range nR).filter fun j => field (rt j) 6 2 = i
    let tapRow (y ky : Nat) : Int := (y * f 6 1 + ky : Nat) - (f 8 1 : Int)
    f 0 2 < pl.slotCount && f 2 1 ≤ 1 && f 3 1 ≤ 1 && 1 ≤ kh && kh ≤ 32 && 1 ≤ kw && kw ≤ 32 &&
    1 ≤ f 6 1 && f 6 1 ≤ 16 && 1 ≤ f 7 1 && f 7 1 ≤ 16 && f 8 1 < kh && f 9 1 < kh && f 0xA 1 < kw && f 0xB 1 < kw &&
    f 0xC 1 ≤ 1 && (f 0xD 1 = 8 || f 0xD 1 = 16) && 1 ≤ f 0x10 2 && f 0x10 2 ≤ 4096 && 1 ≤ f 0x12 2 &&
    f 0x12 2 ≤ 16384 && 1 ≤ f 0x14 2 && f 0x14 2 ≤ 16384 && 1 ≤ f 0x18 2 &&
    (if f 2 1 = 0 then f 0x10 2 * kh * kw ≤ f 0x1A 2 else f 0x1A 2 = 0) && 1 ≤ f 0x1C 1 && f 0x1C 1 ≤ 8 &&
    f 0x1D 1 = 0 && kh ≤ f 0x1E 2 && f 0x1E 2 ≤ 4096 && f 0x26 2 = 0 && f 0x36 2 = 0 && f 0x3C 4 = 0 &&
    f 0x28 4 % 8 = 0 && f 0x2C 4 % 8 = 0 && line ≤ f 0x28 4 && outLine ≤ f 0x2C 4 &&
    own (f 0 2) (addr48 e 0x20) (lines * f 0x28 4) && own (f 0 2) (addr48 e 0x30) (f 0x1C 1 * rows * f 0x2C 4) &&
    f 0x16 2 + f 0x18 2 ≤ (outH e).toNat &&
    (mine.all fun j => mine.all fun k => j = k ||
      field (rt j) 0xA 2 + field (rt j) 0xC 2 ≤ field (rt k) 0xA 2 || field (rt k) 0xA 2 + field (rt k) 0xC 2 ≤ field (rt j) 0xA 2) &&
    (List.range (f 0x18 2)).all fun y => (List.range kh).all fun ky =>
      let row := tapRow (f 0x16 2 + y) ky
      row < 0 || (f 0x14 2 : Int) ≤ row ||
        mine.any fun j => (field (rt j) 0xA 2 : Int) ≤ row && row < (field (rt j) 0xA 2 + field (rt j) 0xC 2 : Nat)
  let rtOk (j : Nat) : Bool :=
    let t := rt j
    let f (o n : Nat) := field t o n
    let e := ex (f 6 2)
    f 0 1 ≤ 1 && f 1 1 ≤ 15 && f 2 2 < pl.slotCount && f 6 2 < nE && 1 ≤ f 0xC 2 && f 0xE 2 = 0 && f 0x16 2 = 0 &&
    (slice t 0x24 12).all (· = 0) &&
    (if f 0 1 = 0 then
      addr48 t 0x10 = 0 && f 0x20 4 = 0 &&
      (match pl.streams[f 4 2]? with
        | some st => st.kind = 3 && st.slot = f 2 2 && st.elemBits = field e 0xD 1 &&
            st.rowBytes * 8 = field e 0x10 2 * st.elemBits
        | none => false)
    else
      f 4 2 = 0xFFFF && f 8 2 = 0 &&
      (match region (addr48 t 0x10) with
        | some (.window o) =>
          o + (field e 0x10 2 - 1) * f 0x18 4 + (f 0xA 2 + f 0xC 2 - 1) * f 0x1C 4 + field e 0x12 2 * (field e 0xD 1 / 8) ≤ s.windowBytes p
        | _ => false))
  if !((List.range nE).all fun i => 0 < field (ex i) 6 1 && 0 < field (ex i) 7 1) then 0x12
  else if (List.range nE).any fun i => outH (ex i) ≤ 0 || outW (ex i) ≤ 0 then 0x13
  else if 1 ≤ nE && nE ≤ 1024 && nR ≤ 2048 && (slice r 0xC 20).all (· = 0) &&
      (List.range nE).all exOk && (List.range nR).all rtOk then 0
  else 0x12

/-- Kind of the manifest against the header and the parameter record (R465). -/
def paramStatus (s : State) (p : Nat) (pl : Plan) (e : ModelPlan) : Nat :=
  if pl.streamPlan ≠ (e.kind = 1) then 0x12
  else if e.kind = 0 then 0
  else if BitVec.ofNat 64 (field e.params 0 8) ≠ e.planId then 0x12
  else if e.kind = 2 then (if s.attentionOk p pl e.params then 0 else 0x12)
  else if e.kind = 3 then s.convolutionStatus p pl e.params
  else 0

/-- Each slot's CONFIG block lies in the CONFIG section and agrees with the slot's FEED, POST and STREAM records. -/
def configsOk (img : List Byte) (pl : Plan) : Bool :=
  pl.slots.all fun r => ((section_ img 9).map Prod.fst).getD 0 ≤ r.cfgOff &&
    let of (ty size off : Nat) := ((records img ty size).filter fun x => field x off 2 = r.slot).flatten
    Config.configAgrees (slice img r.cfgOff r.cfgBytes) (of 3 16 0 ++ of 4 64 0 ++ of 5 48 0x24)

/-- Step 4 of R43: 0, or the status of the first failure. -/
def step4 (s : State) (p : Nat) (img : List Byte) (e : ModelPlan) : Nat :=
  let pl := parsePlan img
  if directoryOk img && reservedOk img && pl.variant ≤ 1 && (pl.variant = 0 || pl.degradedId = 0) && pl.gridOk &&
      pl.streams.map StreamRec.index = List.range pl.streams.length &&
      pl.streams.all pl.streamOk && pl.feeds.all pl.feedOk && pl.posts.all pl.postOk && pl.postsCover &&
      pl.cheapsOk && pl.hintsOk && (!pl.latencyMode || pl.gangs.all fun g => g.mode = 0) &&
      pl.wBase % 65536 = 0 && pl.wBytes % 65536 = 0 &&
      s.addressesOk p pl && configsOk img pl then s.paramStatus p pl e
  else 0x12

/-! ### The package that holds the plan -/

def model (s : State) (m : Nat) : Model := NMap.get (fun _ => ⟨0, 0, 0, [], [], [], [], 0⟩) s.bedrock.models m
def setModel (s : State) (m : Nat) (x : Model) : State :=
  { s with bedrock := { s.bedrock with models := NMap.set (fun _ => ⟨0, 0, 0, [], [], [], [], 0⟩) s.bedrock.models m x } }

def modelPlan (s : State) (m : Nat) (id : W64) : Option ModelPlan :=
  (s.model m).plans.find? fun e => e.planId = id

/-- A stored page of the library. -/
def storedPage (s : State) (id : PageId) : Option StoredPage := s.bedrock.library.find? fun x => x.id = id

/-- A page is in the lost-page list. -/
def isLost (s : State) (id : PageId) : Bool := s.bedrock.lost.any fun x => x.id = id

/-- Image pages that bytes [o, o + n) of a model's image area touch. -/
def imagePages (m o n : Nat) : List PageId :=
  (List.range ((o + n - 1) / 65536 - o / 65536 + 1)).map fun i => ⟨m, true, o / 65536 + i⟩

/-- The bytes of a plan image in the library. -/
def planImage (s : State) (m : Nat) (e : ModelPlan) : List Byte :=
  let area := (imagePages m e.offset e.bytes).flatMap fun id => match s.storedPage id with
    | some x => slice x.data 0 65536
    | none => List.replicate 65536 0
  slice area (e.offset % 65536) e.bytes

/-- ModelDigest names an installed model, in whose region the plan's weight region lies (step 5). -/
def regionInstalled (s : State) (pl : Plan) : Bool :=
  (NMap.keys s.bedrock.models).any fun m =>
    let x := s.model m
    2 ≤ x.state && leBytes 32 pl.digest.toNat = x.digest && x.base ≤ pl.wBase && pl.wBase + pl.wBytes ≤ x.base + x.bytes

/-- Steps 1 to 6 of R43 for one image: the plan, or the status and the step that failed. `full` is the full plan that a variant belongs to (R45). -/
def checkImage (s : State) (p m : Nat) (e : ModelPlan) (full : Option Plan) : Except (Nat × Nat) Plan :=
  let img := s.planImage m e
  let pl := parsePlan img
  let mo := s.model m
  let variantOk := match full with
    | none => true
    | some f => pl.variant = 1 && pl.digest = f.digest && pl.slotCount + 1 = f.slotCount &&
        pl.degradedId = 0 && pl.cheaps.map CheapRec.index = f.cheaps.map CheapRec.index
  if (imagePages m e.offset e.bytes).any s.isLost then .error (0x21, 1)
  else if !headerOk img e.bytes then .error (0x12, 2)
  else if !Config.mlDsaVerify mo.planKey (img.take (e.bytes - 3312)) (slice img (e.bytes - 3312) 3309) then .error (0x80, 3)
  else if s.step4 p img e ≠ 0 then .error (s.step4 p img e, 4)
  else if !variantOk then .error (0x12, 4)
  else if !s.regionInstalled pl then .error (0x33, 5)
  else if !egressOk pl then .error (0x31, 6)
  else .ok pl

end State

end Sys2Proof.Machine
end

