-- ==== Sys2Proof/Machine/Tensor.lean ====
section
/-! DEFINITION. What a tile computes, bit for bit: feeders, weight streams, accumulation, the post-unit's stages, and the error statistics (R53 to R82). -/

namespace Sys2Proof.Machine

/-! ### Statistics of one conversion point (R82) -/

def StatSet.none : StatSet := ⟨0, 0, 0, 0, 0, 0, 0, 0⟩

/-- What a gathering point adds to its set for one element or row (R70, R71, R82). -/
inductive Quantity where
  /-- A converted element with finite input `x` and dequantised value `xh`. -/
  | element (x xh : W32) (sat : Bool)
  | nonFinite
  | zeroScale
  /-- A row trailer's zero point that was clamped. -/
  | clamped
  deriving DecidableEq, Repr

namespace StatSet

/-- A converted element with finite input `x` and dequantised value `xh`. -/
def add (st : StatSet) (x xh : W32) (sat : Bool) : StatSet :=
  let e := F32.sub x xh
  { st with
    count := st.count + 1
    sumSqErr := f64Add st.sumSqErr ((F32.num e).mul (F32.num e))
    sumSqRef := f64Add st.sumSqRef ((F32.num x).mul (F32.num x))
    maxAbsErr := if F32.lt st.maxAbsErr (F32.abs e) then F32.abs e else st.maxAbsErr
    satCount := st.satCount + BitVec.ofNat 32 (b2n sat) }

def addNonFinite (st : StatSet) : StatSet := { st with nonFinite := st.nonFinite + 1 }

/-- A quantity is gathered. -/
def gather (st : StatSet) : Quantity → StatSet
  | .element x xh sat => st.add x xh sat
  | .nonFinite => st.addNonFinite
  | .zeroScale => { st with zeroScale := st.zeroScale + 1 }
  | .clamped => { st with satCount := st.satCount + 1 }

/-- Merge a local gathering into a set (R83). -/
def merge (st x : StatSet) (time : Nat) : StatSet :=
  { count := st.count + x.count
    sumSqErr := f64Add st.sumSqErr (Fmt.f64.decode x.sumSqErr.toNat)
    sumSqRef := f64Add st.sumSqRef (Fmt.f64.decode x.sumSqRef.toNat)
    maxAbsErr := if F32.lt st.maxAbsErr x.maxAbsErr then x.maxAbsErr else st.maxAbsErr
    satCount := st.satCount + x.satCount
    nonFinite := st.nonFinite + x.nonFinite
    zeroScale := st.zeroScale + x.zeroScale
    lastUpdate := BitVec.ofNat 64 time }

end StatSet

/-! ### Formats -/

/-- Targets of conversion, coded as OutFormat: 0 int8, 1 int4, 2 E4M3, 3 E5M2, 4 BF16, 5 FP32 (Tables 3-3 and 3-8). -/
def convTo (fmt : Nat) (sym : Bool) (x : Num) : Conv :=
  if fmt = 0 then convInt (if sym then -127 else -128) 127 x
  else if fmt = 1 then convInt (if sym then -7 else -8) 7 x
  else if fmt = 2 then convE4m3 x
  else if fmt = 3 then convE5m2 x
  else convBf16 x

/-- The number that a code of a format stands for. -/
def codeNum (fmt : Nat) (c : Int) : Num :=
  if fmt ≤ 1 then Num.ofInt c
  else if fmt = 2 then Fmt.decodeE4m3 c.toNat
  else if fmt = 3 then Fmt.e5m2.decode c.toNat
  else Fmt.bf16.decode c.toNat

/-- A number rounded to an exact integer, moved by a zero point, and clamped once (R69, R81). A NaN gives the zero point, which is R81's rule for a static REQUANT and the model's reading of R69's scan (DEDUCED). -/
def zeroConv (lo hi zp : Int) (t : Num) : Conv :=
  match t with
  | .nan => ⟨max lo (min hi zp), false, true⟩
  | .inf n => ⟨if n then lo else hi, true, false⟩
  | .fin _ _ _ => ⟨max lo (min hi (t.rint + zp)), t.rint + zp < lo || hi < t.rint + zp, false⟩

/-- Largest magnitude Q of a quantised target (R68, R81). -/
def topOf (fmt : Nat) : W32 :=
  if fmt = 0 then F32.ofInt 127 else if fmt = 1 then F32.ofInt 7
  else if fmt = 2 then F32.ofInt 448 else F32.ofInt 57344

/-- Bits of an element of a format. -/
def fmtBits (fmt : Nat) : Nat :=
  if fmt = 1 then 4 else if fmt ≤ 3 then 8 else if fmt = 5 then 32 else 16

/-- Element `k` of a packed row of elements of `e` bits (R63). -/
def packed (row : List Byte) (e k : Nat) : Nat :=
  let o := k * e
  field row (o / 8) ((o % 8 + e + 7) / 8) / 2 ^ (o % 8) % 2 ^ e

/-- Pack elements of `e` bits into bytes. -/
def packRow (e : Nat) (xs : List Nat) : List Byte :=
  leBytes ((xs.length * e + 7) / 8)
    (xs.zipIdx.foldl (fun a (x : Nat × Nat) => a + x.1 % 2 ^ e * 2 ^ (e * x.2)) 0)

/-- The FP32 value of element `k` of a row in an AuxFormat (Table 3-8). -/
def auxValue (row : List Byte) (fmt k : Nat) : W32 :=
  let v := packed row (fmtBits fmt) k
  if fmt = 5 then BitVec.ofNat 32 v
  else if fmt ≤ 1 then F32.ofInt (signed (fmtBits fmt) v)
  else F32.ofNum (codeNum fmt v)

/-! ### Quantising a row (R68 to R70) -/

inductive ScanCase where
  | plain | zeroRange | nonFinite
  deriving DecidableEq, Repr

/-- A quantised row: its codes with their saturation marks, scale and zero point. -/
structure Scanned where
  codes : List Conv
  scale : W32
  zero : Int
  case_ : ScanCase
  deriving DecidableEq, Repr

/-- Quantise a row to the target format; with `zp`, to int8 with a zero point. -/
def scanRow (fmt : Nat) (zp : Bool) (xs : List W32) : Scanned :=
  let flat (sc : W32) (c : ScanCase) : Scanned := ⟨xs.map fun _ => ⟨0, false, false⟩, sc, 0, c⟩
  if xs.any fun x => !F32.isFinite x then flat F32.qnan .nonFinite
  else if zp then
    let lo := xs.foldl (fun a x => if F32.lt x a then x else a) F32.zero
    let hi := xs.foldl (fun a x => if F32.lt a x then x else a) F32.zero
    let d := F32.sub hi lo
    if F32.num d = F32.num F32.zero then flat F32.zero .zeroRange
    else
      let r := F32.div (F32.ofInt 255) d
      let z := (convInt (-128) 127 (F32.num (F32.sub (F32.ofInt (-128)) (F32.mul lo r)))).code
      ⟨xs.map fun x => zeroConv (-128) 127 z (F32.num (F32.mul x r)), F32.div d (F32.ofInt 255), z, .plain⟩
  else
    let m := xs.foldl (fun a x => if F32.lt a (F32.abs x) then F32.abs x else a) F32.zero
    if F32.num m = F32.num F32.zero then flat F32.zero .zeroRange
    else
      let r := F32.div (topOf fmt) m
      ⟨xs.map fun x => convTo fmt true (F32.num (F32.mul x r)), F32.div m (topOf fmt), 0, .plain⟩

/-- Statistics of a scanned row (R70, R82): `x̂ := s × (q − z)`. -/
def scanStats (fmt : Nat) (xs : List W32) (q : Scanned) : List Quantity :=
  match q.case_ with
  | .nonFinite => (xs.filter fun x => !F32.isFinite x).map fun _ => .nonFinite
  | c =>
    (if c = .zeroRange then [Quantity.zeroScale] else []) ++
    (xs.zip q.codes).map fun (x : W32 × Conv) =>
      let v := (codeNum fmt x.2.code).sub (Num.ofInt q.zero)
      .element x.1 (F32.ofNum ((F32.num q.scale).mul v)) x.2.sat

/-- Statistics of elements converted one by one, each with its dequantised value: an element that is not finite counts as such only. -/
def plainStats (xs : List (W32 × W32 × Bool)) : List Quantity :=
  xs.map fun (x : W32 × W32 × Bool) => if F32.isFinite x.1 then .element x.1 x.2.1 x.2.2 else .nonFinite

/-! ### The activation feeder (R67 to R71, Table 3-7) -/

/-- A token row as it reaches the cells. -/
structure Fed where
  vals : List Num
  scale : W32
  zero : Int
  stats : List Quantity
  /-- Arithmetic flag that the row raises, if any: 1 NON_FINITE, 2 ZERO_SCALE. -/
  flag : Option Nat
  deriving DecidableEq, Repr

/-- A row of K elements through the feeder of a gang. -/
def feedRow (kind scaleMode : Nat) (zp : Bool) (e k : Nat) (row : List Byte) : Fed :=
  let idx := List.range k
  let wide (i : Nat) : W32 :=
    if e = 32 then BitVec.ofNat 32 (packed row 32 i) else BitVec.ofNat 32 (packed row 16 i * 65536)
  let fmt := if kind ≤ 2 then 0 else if kind = 3 then 2 else if kind = 4 then 3 else 4
  let raw (i : Nat) : Num :=
    if kind ≤ 2 then Num.ofInt (signed 8 (packed row 8 i))
    else if kind = 5 then Fmt.bf16.decode (packed row 16 i)
    else codeNum fmt (packed row 8 i)
  -- an FP8 row taken as it is: x is the element's own value, with no error (R82)
  let taken : List Quantity :=
    if kind = 3 || kind = 4 then plainStats (idx.map fun i => (F32.ofNum (raw i), F32.ofNum (raw i), false)) else []
  if scaleMode = 1 then
    let xs := idx.map wide
    let q := scanRow fmt zp xs
    { vals := q.codes.map fun c => codeNum fmt c.code, scale := q.scale, zero := q.zero
      stats := scanStats fmt xs q
      flag := match q.case_ with | .plain => none | .nonFinite => some 1 | .zeroRange => some 2 }
  else if scaleMode = 0 && ((kind = 5 && e = 32) || ((kind = 3 || kind = 4) && e ≠ 8)) then
    let cs := idx.map fun i => (wide i, convTo fmt false (F32.num (wide i)))
    { vals := cs.map fun (c : W32 × Conv) => codeNum fmt c.2.code, scale := F32.one, zero := 0
      stats := plainStats (cs.map fun (c : W32 × Conv) => (c.1, F32.ofNum (codeNum fmt c.2.code), c.2.sat))
      flag := none }
  else if scaleMode = 2 then
    let z := signed 32 (field row (k + 4) 4)
    let c := if zp then max (-128) (min 127 z) else 0
    { vals := idx.map raw, scale := BitVec.ofNat 32 (field row k 4), zero := c
      stats := taken ++ if z = c then [] else [.clamped]
      flag := none }
  else { vals := idx.map raw, scale := F32.one, zero := 0, stats := taken, flag := none }

/-! ### Weights (R59, R60, R63, R66, R470) -/

/-- The value of a uniform code of `b` bits (R59). -/
def uniform (b c : Nat) : Int := if b = 1 then (if c = 0 then -1 else 1) else signed b c

/-- Steps of a scale group: 64 reduction indices (R62). -/
def groupSteps (g : GangRec) : Nat := 64 * 4 / rate4 g.kind g.cols / (if g.mode = 0 then 8 else 1)

/-- Bytes of codes of one step (Table 3-4). -/
def stepBytes (g : GangRec) : Nat := rate4 g.kind g.cols / 4 * g.codeBits * (if g.mode = 0 then 8 else 1)

/-- Array column `j` builds codebook tables: one of the westmost min(b, 4) tiles of its 64-column block (R66). -/
def builds (g : GangRec) (j : Nat) : Bool := g.kind = 1 && j % 8 < min g.cols 4

/-- Bytes of the weight stream of array column `j` for one scale group (Table 3-4). -/
def groupBytes (g : GangRec) (j : Nat) : Nat :=
  16 + (if builds g j then 16 * groupSteps g else 0) + groupSteps g * stepBytes g

/-- Bytes of the weight stream of array column `j` for one pass of depth `k` (R63, R470). -/
def passBytes (g : GangRec) (j k : Nat) : Nat :=
  if g.kind ≤ 1 then k / 64 * groupBytes g j else k * 8 * (if g.kind = 5 then 2 else 1)

/-- Code for reduction index `x` and column `c` of array column `j`, from the pass's bytes. In lone mode the reduction index of array row r and element e at step t is 8 × m × t + r × m + e: the manual gives the order of the codes only (R63; DESIGN CHOICE, log entry 60). -/
def codeAt (g : GangRec) (j : Nat) (d : List Byte) (x c : Nat) : Nat :=
  let m := rate4 g.kind g.cols / 4
  let per := if g.mode = 0 then 8 * m else m
  let t := x / per
  let i := if g.mode = 0 then x % per / m * (8 * m) + c * m + x % m else c * m + x % m
  let base := x / 64 * groupBytes g j + 16 + (if builds g j then 16 * groupSteps g else 0) +
    t % groupSteps g * stepBytes g
  packed (slice d base (stepBytes g)) g.codeBits i

/-- Entry `code` of the codebook for reduction index `x`, from the builder's bytes: builder i builds element i of every step (R66). A lone array's step covers eight reduction indices and its stream carries one codebook for the step, which serves all eight array rows (R60 gives one for each index; DESIGN CHOICE, log entry 61). -/
def bookAt (g : GangRec) (j : Nat) (d : List Byte) (x code : Nat) : Int :=
  let m := rate4 g.kind g.cols / 4
  let per := if g.mode = 0 then 8 * m else m
  signed 8 (field d (x / 64 * groupBytes g j + 16 + 16 * (x / per % groupSteps g) + code) 1)

/-- The scale of column `c` for the scale group of reduction index `x`, exactly. -/
def scaleAt (g : GangRec) (j : Nat) (d : List Byte) (x c : Nat) : Num :=
  Fmt.f16.decode (field d (x / 64 * groupBytes g j + 2 * c) 2)

/-- A weight of kinds 2 to 5 (R470). -/
def plainWeight (g : GangRec) (d : List Byte) (x c : Nat) : Num :=
  if g.kind = 5 then Fmt.bf16.decode (field d (2 * (x * 8 + c)) 2)
  else
    let v := field d (x * 8 + c) 1
    if g.kind = 2 then Num.ofInt (signed 8 v) else codeNum (g.kind - 1) v

/-! ### Accumulation (R56, R57, R62) -/

/-- A final accumulator. -/
inductive Acc where
  | int (v : Int) (sat : Bool)
  | fp (v : W32)
  deriving DecidableEq, Repr

def Acc.toF32 : Acc → W32
  | .int v _ => F32.ofInt v
  | .fp v => v

/-- Add to a saturating int32 accumulator, which stays saturated to the end of the pass (R56). -/
def satAdd (a : Int × Bool) (x : Int) : Int × Bool :=
  if a.2 then a
  else if 2147483647 < a.1 + x then (2147483647, true)
  else if a.1 + x < -2147483648 then (-2147483648, true)
  else (a.1 + x, false)

/-- The accumulator of column `c` of array column `j` for one activation row; `d` gives each array column's bytes of the pass. -/
def accumulate (g : GangRec) (k : Nat) (d : Nat → List Byte) (j c : Nat) (row : List Num) : Acc :=
  let a (x : Nat) : Num := (row[x]?).getD (Num.ofInt 0)
  if g.kind ≤ 1 then
    let m := rate4 g.kind g.cols / 4
    let weight (x : Nat) : Int :=
      let code := codeAt g j (d j) x c
      if g.kind = 0 then uniform g.codeBits code
      else
        let b := j / 8 * 8 + x % m
        bookAt g b (d b) x code
    .fp ((List.range (k / 64)).foldl (fun acc q =>
      let p := (List.range 64).foldl (fun p i => p.add ((a (64 * q + i)).mul (Num.ofInt (weight (64 * q + i))))) (Num.ofInt 0)
      F32.ofNum ((p.mul (scaleAt g j (d j) (64 * q) c)).add (F32.num acc))) F32.zero)
  else
    let prod (x : Nat) : Num := (a x).mul (plainWeight g (d j) x c)
    let n := if g.mode = 0 then 8 else 1
    let sums := (List.range (k / n)).map fun t =>
      (List.range (n - 1)).foldl (fun p i => p.add (prod (n * t + i + 1))) (prod (n * t))
    if g.kind = 2 then
      let r := sums.foldl (fun acc p => satAdd acc p.rint) (0, false)
      .int r.1 r.2
    else .fp (sums.foldl (fun acc p => F32.ofNum ((F32.num acc).add p)) F32.zero)

/-! ### The post-unit (R73 to R81) -/

/-- A row in the post-unit. -/
structure PRow where
  /-- Row number in the record. -/
  n : Nat
  acc : List Acc
  y : List W32
  scale : W32
  zero : Int
  deriving DecidableEq, Repr

/-- DEQUANT of one accumulator (R73). -/
def dequant (a : Acc) (zero : Int) (colSum : Option W32) (scale sw : W32) : W32 :=
  let t := match a with
    | .int v _ => F32.ofInt (v - zero * (match colSum with | some c => signed 32 c.toNat | none => 0))
    | .fp v => match colSum with
      | some c => F32.ofNum ((F32.num v).sub ((Num.ofInt zero).mul (F32.num c)))
      | none => v
  F32.mul (F32.mul t scale) sw

/-- CELL on one unit's four columns and its carried state: the output and the new carried state. Each line of R78 is one operation, rounded once. -/
def cell (three : Bool) (x : List W32) (h : W32) : W32 × W32 :=
  let a (i : Nat) : W32 := (x[i]?).getD 0
  if three then
    let n := F32.tanh (F32.fma (F32.sigmoid (a 0)) (a 3) (a 2))
    let d := F32.sub h n
    let h1 := F32.fma (F32.sigmoid (a 1)) d n
    (h1, h1)
  else
    let t1 := F32.mul (F32.sigmoid (a 1)) h
    let t2 := F32.mul (F32.sigmoid (a 0)) (F32.tanh (a 2))
    let c1 := F32.add t1 t2
    (F32.mul (F32.sigmoid (a 3)) (F32.tanh c1), c1)

/-- Running maximum and sum of SOFTMAX (R79). -/
def softmaxScan (xs : List W32) : W32 × W32 :=
  xs.foldl (fun (a : W32 × W32) x =>
    let m := F32.max a.1 x
    (m, F32.add (F32.mul a.2 (F32.exp (F32.sub a.1 m))) (F32.exp (F32.sub x m)))) (F32.negInf, F32.zero)

/-- Mean and M2 by Welford's method. -/
def welford (xs : List W32) : W32 × W32 :=
  let r := xs.foldl (fun (a : Nat × W32 × W32) x =>
    let k := a.1 + 1
    let d := F32.sub x a.2.1
    let mean := F32.add a.2.1 (F32.div d (F32.ofInt k))
    (k, mean, F32.add a.2.2 (F32.mul d (F32.sub x mean)))) (0, F32.zero, F32.zero)
  (r.2.1, r.2.2)

/-- The pairwise fold of a later segment of `nb` elements into (count, mean, M2). -/
def foldPair (nb : Nat) (a : Nat × W32 × W32) (b : W32 × W32) : Nat × W32 × W32 :=
  let n := a.1 + nb
  let fn := F32.ofInt n
  let d := F32.sub b.1 a.2.1
  let mean := F32.add a.2.1 (F32.div (F32.mul d (F32.ofInt nb)) fn)
  let t := F32.div (F32.mul (F32.mul (F32.mul d d) (F32.ofInt a.1)) (F32.ofInt nb)) fn
  (n, mean, F32.add (F32.add a.2.2 b.2) t)

def sumSquares (xs : List W32) : W32 := xs.foldl (fun a x => F32.add a (F32.mul x x)) F32.zero

/-- Index and value of the largest element that is not NaN; ties go to the lowest index (R80). -/
def argmax (xs : List W32) : Option (Nat × W32) :=
  xs.zipIdx.foldl (fun (b : Option (Nat × W32)) (x : W32 × Nat) =>
    if F32.isNan x.1 then b
    else match b with
      | none => some (x.2, x.1)
      | some v => if F32.lt v.2 x.1 then some (x.2, x.1) else b) none

/-- Maximum or average of N successive rows (Table 3-9). -/
def pool (avg : Bool) (n : Nat) (rows : List (List W32)) : List W32 :=
  match rows with
  | [] => []
  | r :: rs =>
    let z := rs.foldl (fun a b => (a.zip b).map fun (x : W32 × W32) => if avg then F32.add x.1 x.2 else F32.max x.1 x.2) r
    if avg then z.map fun x => F32.mul x (F32.ratio 1 n) else z

/-- One element of a static REQUANT: its code, and what it adds to the statistics: nothing but a non-finite count when y, or t, is NaN or y is infinite (R81, R82). -/
def requantStatic (fmt : Nat) (sym : Bool) (mul : W32) (zp : Int) (y : W32) : Int × Quantity :=
  let t := F32.mul y mul
  let c : Conv :=
    if fmt = 0 then zeroConv (if sym then -127 else -128) 127 zp (F32.num t)
    else if fmt = 1 then zeroConv (if sym then -7 else -8) 7 zp (F32.num t)
    else convTo fmt false (F32.num t)
  let v := if fmt ≤ 1 then Num.ofInt (c.code - zp) else codeNum fmt c.code
  (c.code, if F32.isFinite y && !F32.isNan t then .element y (F32.divNum v (F32.num mul)) c.sat else .nonFinite)

end Sys2Proof.Machine
end

