-- ==== Sys2Proof/Machine/Datapath.lean ====
section
/-! DEFINITION. What an invocation of a plan does to memory: its streams, virtual arrays, post-units, expansions and walker records, in the order of the schedule that its CONFIG blocks hold (R42, R83, R87, R108, R154, R206, R255 to R260, R377). -/

namespace Sys2Proof.Machine

/-! ### The library as the weight range shows it (R102, R374) -/

namespace State

/-- The installed model whose region holds weight page `n` of the weight range. -/
def pageModel (s : State) (n : Nat) : Option PageId :=
  (NMap.keys s.bedrock.models).findSome? fun m =>
    let x := s.model m
    if x.state ≠ 0 && x.state ≠ 1 && x.base ≤ n * 65536 && n * 65536 < x.base + x.bytes then
      some ⟨m, false, n⟩ else none

/-- A weight page in plaintext; none when its tag fails or it is absent (R374). -/
def pagePlain (s : State) (id : PageId) : Option (List Byte) :=
  match s.storedPage id with
  | none => none
  | some x =>
    let m := s.model id.model
    let i := id.page - m.base / 65536
    Config.gcmOpen m.key (leBytes 8 i ++ leBytes 4 0) (m.digest ++ leBytes 8 i) x.data x.tag

/-- Bytes [o, o + n) of frame f of partition p. -/
def readFrame (s : State) (p f o n : Nat) : List Byte :=
  let (c, a) := s.frameLoc p f o
  (List.range n).map fun i => s.bondedByte c (a + i)

/-- Write bytes to a frame. -/
def writeFrame (s : State) (p f o : Nat) (bs : List Byte) : State :=
  let (c, a) := s.frameLoc p f o
  s.privWrite c a bs

/-- Bytes of the weight range within one page: from the frame that holds it, else from the library. -/
def readWeight (s : State) (p a n : Nat) : List Byte :=
  match s.pageFrame p (a / 65536) with
  | some f => s.readFrame p f (a % 65536) n
  | none =>
    match (s.pageModel (a / 65536)).bind s.pagePlain with
    | some bs => slice bs (a % 65536) n
    | none => List.replicate n 0

/-- A page has been read now (R106). -/
def touchPage (s : State) (p page : Nat) : State :=
  match s.pageFrame p page with
  | some f => s.setFrame p f (.page page s.time)
  | none => s

/-! ### Sequence pages (R192 to R196) -/

/-- Channel and channel offset of byte `o` of pool page `k` (R194). -/
def poolLoc (s : State) (p k o : Nat) : Nat × Nat := s.frameLoc p (k / 2) (k % 2 * 32768 + o)

end State

/-- Planes of a sequence, planes whose scales share a page, and scale pages of a block (R192). -/
def Seq.planes (q : Seq) : Nat := 2 * q.layers * q.heads
def Seq.rowBytes (q : Seq) : Nat := ((kvRow q.headSize q.fmt).map Prod.fst).getD 1
def Seq.block (q : Seq) : Nat := ((kvRow q.headSize q.fmt).map Prod.snd).getD 1
def Seq.perScale (q : Seq) : Nat := 8192 / q.block
def Seq.scalePages (q : Seq) : Nat := (q.planes + q.perScale - 1) / q.perScale
/-- Virtual pages of one block. -/
def Seq.blockPages (q : Seq) : Nat := q.planes + q.scalePages
/-- Virtual page and byte of a row, and of its scale (R192). -/
def Seq.rowAt (q : Seq) (t plane : Nat) : Nat × Nat :=
  (t / q.block * q.blockPages + plane, t % q.block * q.rowBytes)
def Seq.scaleAt (q : Seq) (t plane : Nat) : Nat × Nat :=
  (t / q.block * q.blockPages + q.planes + plane / q.perScale, (plane % q.perScale * q.block + t % q.block) * 4)

namespace State

/-- The tile number under which the roost's local memory is kept, and the partition number of its plan, which no partition has. -/
def roostTile : Nat := 512
def roostPart : Nat := 128

/-- Pool page of a virtual page of a sequence. -/
def kvPage (q : Seq) (v : Nat) : Option Nat := NMap.get (fun _ => none) q.pages v

def readKv (s : State) (p : Nat) (q : Seq) (x : Nat × Nat) (n : Nat) : List Byte :=
  match kvPage q x.1 with
  | none => List.replicate n 0
  | some k => let (c, o) := s.poolLoc p k x.2; (List.range n).map fun i => s.bondedByte c (o + i)

/-- A tile's write in a channel, cut at line boundaries (R99). -/
def tileWriteN (c : Nat) : Nat → Nat → List Byte → State → State
  | 0, _, _, s => s
  | k + 1, o, bs, s =>
    if bs.isEmpty then s
    else tileWriteN c k (o + (64 - o % 64)) (bs.drop (64 - o % 64)) (s.tileWriteLine c o (bs.take (64 - o % 64)))

def writeKv (s : State) (p : Nat) (q : Seq) (x : Nat × Nat) (bs : List Byte) : State :=
  match kvPage q x.1 with
  | none => s
  | some k => let (c, o) := s.poolLoc p k x.2; tileWriteN c (bs.length / 64 + 2) o bs s

end State

/-! ### The walkers' look-aside buffers (R203, R205) -/

namespace State

def walker (s : State) (t : Nat) : Walker := NMap.get (fun _ => ⟨[], []⟩) s.fabric.walkers t
def setWalker (s : State) (t : Nat) (w : Walker) : State :=
  s.updFabric fun f => { f with walkers := NMap.set (fun _ => ⟨[], []⟩) f.walkers t w }

/-- The walker of tile `t` translates virtual page `v` of sequence context `q`, mapped to pool page `k`, for a walker record: its LAB entry becomes the one used last, or a miss is counted and the entry replaces the least recently used of 32 (R203). -/
def translate (s : State) (t p : Nat) (id : W64) (rec q v k : Nat) : State :=
  let w := s.walker t
  let e : LabEntry := ⟨q, v, k⟩
  if w.lab.contains e then s.setWalker t { w with lab := e :: w.lab.filter (· ≠ e) }
  else
    let mine (d : HeldDir) : Bool := d.part = p && d.planId = id && d.record = rec
    (s.bumpObj64 0x5A00 t 1).setWalker t
      { lab := (e :: w.lab).take 32, held := ⟨p, id, rec, q, v / 8192⟩ :: w.held.filter fun d => !mine d }

/-- Every LAB entry and held directory entry of sequence context `q` is invalidated in every walker (R205). -/
def dropLab (s : State) (q : Nat) : State :=
  (NMap.keys s.fabric.walkers).foldl (fun s t =>
    let w := s.walker t
    s.setWalker t { lab := w.lab.filter fun e => e.seq ≠ q, held := w.held.filter fun d => d.seq ≠ q }) s

end State

/-! ### A run of a plan's schedule -/

/-- A lane of a stream step: its stream, the slice offset of its berth, and the frame of its reset mark. -/
structure StepLane where
  stream : Nat
  berth : Nat
  mark : Option Nat
  deriving DecidableEq, Repr

/-- What a run works for. -/
structure RunCtx where
  part : Nat
  /-- PlanId of the loaded plan, whose variant may be what runs. -/
  planId : W64
  plan : Plan
  place : List Nat
  kind : Nat
  params : List Byte
  /-- The function that issues its host accesses: 0 for a request of the mirror (R391). -/
  fn : Nat
  /-- LaneBase, berth size and lanes of a stream step; no lanes otherwise (R154). -/
  laneBase : Nat
  berthBytes : Nat
  lanes : List (Option StepLane)
  /-- Lanes of an ATTEND, and their key-value layout's base context. -/
  seqLanes : List Lane
  /-- The plan runs in the roost, whose weight image stands for the weight range (R285). -/
  roost : Bool
  /-- Rows of a short frame that the job reads as zero (R228). -/
  blank : Option Blank
  /-- Weight pages that migrations have brought for this part of the run. -/
  fetched : List Nat
  /-- The flow of rows and tokens as the part before left it. -/
  flow : Flow
  deriving DecidableEq, Repr

/-- What a run waits for: data that has not landed yet (R207, R208, R258, R261), or a weight page that no frame holds, read by a slot (R104). -/
inductive RunWait where
  | early
  | page (n slot : Nat)
  deriving DecidableEq, Repr

/-- A token of a FROM_POST stream on its way into the rings of the routes that name the stream (R260). -/
structure Delivery where
  stream : Nat
  slot : Nat
  token : Nat
  bytes : List Byte
  deriving DecidableEq, Repr

/-- A run in progress. -/
structure Run where
  s : State
  /-- The status that ends it (R42, R114, R115). -/
  stop : Option Nat
  /-- Detail of the security event of a marked line (R42). -/
  auth : Option W64
  /-- An access reached outside R88 (R89). -/
  outside : Bool
  /-- A host access met a clear Bus Master Enable (R112, R391). -/
  offBus : Bool
  /-- Lanes whose own data met a poisoned word, with the status that each takes (R114). -/
  lost : List (Nat × Nat)
  /-- What each tile has gathered since the last merge: slot and set, or slot and lane (R82, R83). -/
  sets : List ((Nat × Nat) × StatSet)
  laneSets : List ((Nat × Nat) × StatSet)
  flow : Flow
  wait : Option RunWait
  /-- Tokens that a ring has no room for yet, oldest first: their producer holds (R261). -/
  due : List Delivery
  /-- The slot that works now. -/
  slot : Nat
  deriving DecidableEq, Repr

namespace Run

def start (c : RunCtx) (s : State) : Run := ⟨s, none, none, false, false, [], [], [], c.flow, none, [], 0⟩

/-- The run has ended, or waits: what follows has no effect. -/
def over_ (r : Run) : Bool := r.stop.isSome || r.wait.isSome

def halt (r : Run) (status : Nat) : Run := if r.over_ then r else { r with stop := some status }

def hold (w : RunWait) (r : Run) : Run := if r.over_ then r else { r with wait := some w }

/-- Lane `b` is lost with a status; the others go on (R114). -/
def loseLane (b status : Nat) (r : Run) : Run :=
  if r.over_ || r.lost.any fun x => x.1 = b then r else { r with lost := r.lost ++ [(b, status)] }

/-- The state store offset is in the lane region of a stream step (R154). -/
def inLanes (c : RunCtx) (o : Nat) : Bool := c.laneBase ≤ o && o < c.laneBase + c.lanes.length * c.berthBytes

/-- The lane of a state store offset, and the slice offset that it reaches: none for the null berth (R154). -/
def stateOff (c : RunCtx) (o : Nat) : Option Nat × Option Nat :=
  if inLanes c o then
    let b := (o - c.laneBase) / c.berthBytes
    (some b, ((c.lanes[b]?).bind id).map fun l => l.berth + (o - c.laneBase) % c.berthBytes)
  else (none, some o)

/-- The lane of a region of `count` lane buffers of `stride` bytes that an address lies in. -/
def laneIn (base stride count a : Nat) : Option Nat :=
  if base ≤ a && a < base + stride * count then some ((a - base) / stride) else none

/-- The lane that a bonded-window address belongs to: that of a lane input or output of a stream step or an ATTEND. -/
def laneOfAddr (c : RunCtx) (a : Nat) : Option Nat :=
  let f (o n : Nat) : Nat := field c.params o n
  if c.kind = 1 then laneIn (f 0x28 6) (f 0x24 4) (f 0x18 2) a <|> laneIn (f 0x30 6) (f 0x3C 4) (f 0x18 2) a
  else if c.kind = 2 then laneIn (f 0x18 6) (f 0x28 4) (f 0xE 2) a <|> laneIn (f 0x20 6) (f 0x2C 4) (f 0xE 2) a
  else none

/-- Bytes from address `a` on that are translated as one: to the end of a slot window, or of a lane's berth (R87, R154). -/
def unitLeft (c : RunCtx) (a n : Nat) : Nat :=
  match region a with
  | some (.slotWindow _ o) => 0x100000 - o
  | some (.state o) =>
    if inLanes c o then c.berthBytes - (o - c.laneBase) % c.berthBytes
    else if o < c.laneBase then c.laneBase - o else n
  | _ => n

/-- [a, a + n) cut where the translation changes. -/
def piecesN (c : RunCtx) : Nat → Nat → Nat → List (Nat × Nat)
  | 0, _, _ => []
  | k + 1, a, n =>
    if n = 0 then []
    else
      let m := max 1 (min n (unitLeft c a n))
      (a, m) :: piecesN c k (a + m) (n - m)

def pieces (c : RunCtx) (a n : Nat) : List (Nat × Nat) := piecesN c (n + 1) a n

/-- A poisoned word or line of one piece (R115). -/
def poisonedAt (c : RunCtx) (s : State) (a n : Nat) : Bool :=
  match region a with
  | some (.slotWindow k o) => State.wordsBad s.mem.poisonTile ((c.place[k]?).getD 0 * 0x100000 + o) n
  | some (.state o) =>
    match (stateOff c o).2 with
    | none => false
    | some x => State.wordsBad s.mem.poisonState (s.stateLoc c.part x) n
  | some (.window o) => s.windowPoison c.part o n
  | _ => false

/-- A word or line that a write of one piece covers only in part is poisoned (R115). -/
def edgeAt (c : RunCtx) (s : State) (a n : Nat) : Bool :=
  match region a with
  | some (.slotWindow k o) => State.wordsEdge s.mem.poisonTile ((c.place[k]?).getD 0 * 0x100000 + o) n
  | some (.state o) =>
    match (stateOff c o).2 with
    | none => false
    | some x => State.wordsEdge s.mem.poisonState (s.stateLoc c.part x) n
  | some (.window o) => s.windowEdge c.part o n
  | _ => false

/-- The first marked line that a read of one piece touches (R42). -/
def markedAt (c : RunCtx) (s : State) (a n : Nat) : Option (Nat × Nat) :=
  match region a with
  | some (.slotWindow k o) => (s.markedIn ((c.place[k]?).getD 0) o n).map fun x => ((c.place[k]?).getD 0, x)
  | _ => none

/-- The bytes of one piece of the partition view. -/
def pieceBytes (c : RunCtx) (s : State) (a n : Nat) : List Byte :=
  match region a with
  | some (.slotWindow k o) => s.tileBytes ((c.place[k]?).getD 0 * 0x100000 + o) n
  | some (.state o) =>
    match (stateOff c o).2 with
    | some x => s.readState c.part x n
    | none => List.replicate n 0
  | some (.window o) => blanked c.blank a (s.readWindow c.part o n)
  | some (.weight o) =>
    if c.roost then s.tileBytes (State.roostTile * 0x100000 + 0x40000 + (o - c.plan.wBase)) n
    else (List.range n).map fun i => (s.readWeight c.part (o + i) 1).headD 0
  | some (.host x) => s.fromHost (s.busAddr c.part x) n
  | none => List.replicate n 0

/-- The bytes at [a, a + n) of the partition view. -/
def bytes (c : RunCtx) (s : State) (a n : Nat) : List Byte :=
  (pieces c a n).flatMap fun (x : Nat × Nat) => pieceBytes c s x.1 x.2

/-- The weight pages of [a, a + n). -/
def pagesAt (c : RunCtx) (a n : Nat) : List Nat :=
  match region a with
  | some (.weight o) => if c.roost || n = 0 then [] else (List.range ((o + n - 1) / 65536 - o / 65536 + 1)).map (o / 65536 + ·)
  | _ => []

/-- Bytes [a, a + n) reach a lost weight page: their read ends the request with WEIGHT_LOST (R134). -/
def lostAt (c : RunCtx) (s : State) (a n : Nat) : Bool :=
  (pagesAt c a n).any fun k => s.bedrock.lost.any fun x => !x.id.image && x.id.page = k

/-- The first weight page of [a, a + n) that no frame holds: the read waits for its migration (R104). -/
def absentAt (c : RunCtx) (s : State) (a n : Nat) : Option Nat :=
  (pagesAt c a n).find? fun k => (s.pageFrame c.part k).isNone && !c.fetched.contains k && (s.pageModel k).isSome

/-- [a, a + n) lies in what the partition may reach (R88). -/
def inReach (c : RunCtx) (s : State) (a n : Nat) (write : Bool) : Bool :=
  n = 0 || s.reachable c.part c.plan.slotCount c.plan.wBase c.plan.wBytes a n write

/-- An access outside R88 moves no data and ends the request with ADDRESS (R89). -/
def fault (r : Run) : Run := if r.over_ then r else { r.halt 0x24 with outside := true }

/-- [a, a + n) lies in host memory, and the partition's function may not reach it now (R391). -/
def noBus (c : RunCtx) (s : State) (a : Nat) : Bool :=
  match region a with
  | some (.host _) => !s.busMaster c.fn
  | _ => false

def hostStop (r : Run) : Run := if r.over_ then r else { r.halt 0x23 with offBus := true }

/-- Poison met in one piece: the lane whose own data it is, else the request, ends (R114). -/
def poisonStop (c : RunCtx) (a : Nat) (r : Run) : Run :=
  match region a with
  | some (.state o) => match (stateOff c o).1 with
    | some b => r.loseLane b 0x22
    | none => r.halt 0x20
  | some (.window _) => match laneOfAddr c a with
    | some b => r.loseLane b 0x20
    | none => r.halt 0x20
  | _ => r.halt 0x20

/-! ### Ring halves of the walkers (R208) -/

/-- Layout of the plan's sequences. -/
def planSeq (c : RunCtx) (q : Seq) : Seq :=
  { q with layers := field c.params 8 1, heads := field c.params 9 1, headSize := field c.params 0xA 2, fmt := field c.params 0xC 1 }

def walkRec (c : RunCtx) (i : Nat) : List Byte := slice c.params (64 + 32 * i) 32
def walkCount (c : RunCtx) : Nat := if c.kind = 2 then field c.params 0x16 2 else 0

/-- Bytes of one half of the ring of a walker record that reads (R206, R209). -/
def halfBytes (c : RunCtx) (w : List Byte) : Nat :=
  let op := field w 2 1
  let ring := field w 0x1C 2
  let rb := (planSeq c Seq.free).rowBytes
  if op = 1 || op = 2 then field w 6 1 * ring * (if bit (field w 3 1) 1 then rb * 17 / 16 else rb)
  else if op = 3 then field w 6 1 * ring * 4
  else if op = 4 then field w 6 1 * ring * 4 * field w 7 1
  else if op = 7 then ring * 4 else 0

def half (r : Run) (k : Nat) : RingHalf := NMap.get (fun _ => ⟨false, []⟩) r.flow.halves k
def setHalf (k : Nat) (h : RingHalf) (r : Run) : Run :=
  { r with flow := { r.flow with halves := NMap.set (fun _ => ⟨false, []⟩) r.flow.halves k h } }

/-- The parts of ranges (first, end) that lie outside [lo, hi). -/
def cutRanges (lo hi : Nat) (l : List (Nat × Nat)) : List (Nat × Nat) :=
  l.flatMap fun (x : Nat × Nat) =>
    if x.2 ≤ lo || hi ≤ x.1 then [x]
    else (if x.1 < lo then [(x.1, lo)] else []) ++ (if hi < x.2 then [(hi, x.2)] else [])

/-- A read of [a, a + n) consumes what it covers of a ring half, and holds on a half that is not filled yet (R208). -/
def ringRead (c : RunCtx) (a n : Nat) (r : Run) : Run :=
  (List.range (2 * walkCount c)).foldl (fun r k =>
    let w := walkRec c (k / 2)
    let hb := halfBytes c w
    let lo := addr48 w 8 + k % 2 * hb
    if hb = 0 || a + n ≤ lo || lo + hb ≤ a then r
    else if !(r.half k).full then r.hold .early
    else r.setHalf k { r.half k with unread := cutRanges a (a + n) (r.half k).unread }) r

/-- One piece of a tile's read: a marked line is read only into a weight feeder (R42), and a poisoned word ends the request or the lane whose data it is, which computes on zeros from there (R114, R117; its results are dropped). -/
def readPiece (c : RunCtx) (weight : Bool) (x : List Byte × Run) (y : Nat × Nat) : List Byte × Run :=
  let r := x.2
  let zero := List.replicate y.2 0
  match (if weight then none else markedAt c r.s y.1 y.2) with
  | some (t, o) =>
    (x.1 ++ zero, if r.over_ then r else
      { r.halt 0x80 with auth := r.auth.orElse fun _ => some (BitVec.ofNat 64 (t * 4294967296 + o)) })
  | none =>
    if poisonedAt c r.s y.1 y.2 then (x.1 ++ zero, poisonStop c y.1 r)
    else (x.1 ++ pieceBytes c r.s y.1 y.2, r)

/-- A read by a tile. A weight page that no frame holds, and a ring half that is not filled, hold it (R104, R208). -/
def read (c : RunCtx) (weight : Bool) (a n : Nat) (r : Run) : List Byte × Run :=
  if !inReach c r.s a n false then (List.replicate n 0, r.fault)
  else if noBus c r.s a then (List.replicate n 0, r.hostStop)
  else if lostAt c r.s a n then (List.replicate n 0, r.halt 0x21)
  else match absentAt c r.s a n with
  | some k => (List.replicate n 0, r.hold (.page k r.slot))
  | none =>
    let r1 := (pagesAt c a n).foldl (fun (r : Run) k => { r with s := r.s.touchPage c.part k }) (ringRead c a n r)
    (pieces c a n).foldl (readPiece c weight) ([], r1)

/-- One piece of a tile's write. What falls in a poisoned word or line that it covers only in part is discarded, and ends the request or the lane with MEM_UE (R115). -/
def writePiece (c : RunCtx) (weight : Bool) (bs : List Byte) (base : Nat) (r : Run) (y : Nat × Nat) : Run :=
  let data := (bs.drop (y.1 - base)).take y.2
  let bad := edgeAt c r.s y.1 y.2
  let r1 : Run := match region y.1 with
    | some (.slotWindow k o) => { r with s := r.s.writeTile ((c.place[k]?).getD 0) o data weight }
    | some (.state o) => match (stateOff c o).2 with
      | some x => { r with s := r.s.writeState c.part x data }
      | none => r
    | some (.window o) => { r with s := r.s.tileWriteWindow c.part o data }
    | some (.host x) => { r with s := r.s.toHost (r.s.busAddr c.part x) data }
    | _ => r
  if bad then poisonStop c y.1 r1 else r1

/-- A write by a tile; `weight` says that it comes from the weight range (R42). Nothing is written once the run has ended. -/
def write (c : RunCtx) (weight : Bool) (a : Nat) (bs : List Byte) (r : Run) : Run :=
  if r.over_ then r
  else if !inReach c r.s a bs.length true then r.fault
  else if noBus c r.s a then r.hostStop
  else (pieces c a bs.length).foldl (writePiece c weight bs a) r

/-- Read FP32 values at `a + 4 × i` for the given i. -/
def vec (c : RunCtx) (a : Nat) (idx : List Nat) (r : Run) : List W32 × Run :=
  idx.foldl (fun (x : List W32 × Run) i =>
    let (b, r1) := read c false (a + 4 * i) 4 x.2
    (x.1 ++ [BitVec.ofNat 32 (leNat b)], r1)) ([], r)

/-- Slot `k` works. -/
def onSlot (k : Nat) (r : Run) : Run := { r with slot := k }

/-! ### Streams (R108) -/

/-- Rows of bytes transposed: row k of the result holds element k of each row. -/
def transpose (e width : Nat) (rows : List (List Byte)) : List (List Byte) :=
  (List.range (width * 8 / e)).map fun k => packRow e (rows.map fun r => packed r e k)

/-- The rows that a stream reads. -/
def streamRows (c : RunCtx) (st : StreamRec) (r : Run) : List (List Byte) × Run :=
  let (rows, r1) := (List.range st.rowCount).foldl (fun (x : List (List Byte) × Run) i =>
    let (b, r2) := read c (st.kind = 2) (st.source + i * st.srcStride) st.rowBytes x.2
    (x.1 ++ [b], r2)) ([], r.onSlot st.slot)
  (if st.transpose then transpose st.elemBits st.rowBytes rows else rows, r1)

/-- A COPY stream (R41, R108). -/
def copy (c : RunCtx) (i : Nat) (r : Run) : Run :=
  match c.plan.streams[i]? with
  | none => r
  | some st =>
    let (rows, r1) := streamRows c st r
    rows.zipIdx.foldl (fun r (x : List Byte × Nat) => write c st.weightSource (st.dest + x.2 * st.dstStride) x.1 r) r1

/-! ### Rings of a convolution plan (R255, R260, R261) -/

def expandRec (c : RunCtx) (i : Nat) : List Byte := slice c.params (32 + 64 * i) 64
def routeCount (c : RunCtx) : Nat := if c.kind = 3 then field c.params 0xA 2 else 0
def routeRec (c : RunCtx) (j : Nat) : List Byte := slice c.params (32 + 64 * field c.params 8 2 + 48 * j) 48

/-- The routes of a convolution plan that satisfy `f`. -/
def routes (c : RunCtx) (f : List Byte → Bool) : List (List Byte) := ((List.range (routeCount c)).map (routeRec c)).filter f

/-- The route delivers map row `n`. -/
def covers (t : List Byte) (n : Nat) : Bool := field t 0xA 2 ≤ n && n < field t 0xA 2 + field t 0xC 2

/-- Number of a route's row-ready counter: those of its destination tile's slot, 16 a slot (R260). -/
def counterNo (c : RunCtx) (t : List Byte) : Nat := field (expandRec c (field t 6 2)) 0 2 * 16 + field t 1 1

/-- Rows of a route that have landed. -/
def landed (c : RunCtx) (t : List Byte) (r : Run) : Nat := NMap.get (fun _ => 0) r.flow.counters (counterNo c t)

/-- Low-water mark of the ring of expansion record `i`: at cheap point 0 the lowest RowFirst of its routes (R261). -/
def lowOf (c : RunCtx) (i : Nat) (r : Run) : Nat :=
  match NMap.find i r.flow.low with
  | some l => l
  | none => match (routes c fun t => field t 6 2 = i).map fun t => field t 0xA 2 with
    | [] => 0
    | x :: xs => xs.foldl min x

/-- A route may write row `n` into its ring now (R261). -/
def hasRoom (c : RunCtx) (t : List Byte) (n : Nat) (r : Run) : Bool :=
  let i := field t 6 2
  n < lowOf c i r + field (expandRec c i) 0x1E 2

/-- Row `n` of a route has landed whole: its counter shows it (R260). -/
def countRow (c : RunCtx) (t : List Byte) (n : Nat) (r : Run) : Run :=
  if r.over_ then r
  else { r with flow := { r.flow with counters := NMap.set (fun _ => 0) r.flow.counters (counterNo c t) (n - field t 0xA 2 + 1) } }

/-- Address of element (ch, n, x) of a ring (R255). -/
def ringAddr (e : List Byte) (ch n x : Nat) : Nat :=
  let es := field e 0xD 1 / 8
  let rows := field e 0x1E 2
  let pitch := field e 0x28 4
  if field e 3 1 = 0 then addr48 e 0x20 + (ch * rows + n % rows) * pitch + x * es
  else addr48 e 0x20 + n % rows * pitch + (x * field e 0x10 2 + ch) * es

/-- Write one token's channels to a ring. -/
def ringToken (c : RunCtx) (e : List Byte) (n x : Nat) (bs : List Byte) (r : Run) : Run :=
  let es := field e 0xD 1 / 8
  (List.range (field e 0x10 2)).foldl (fun r ch => write c false (ringAddr e ch n x) (slice bs (ch * es) es) r) r

/-- Routes of kind POST that take the rows of a FROM_POST stream. -/
def routesOf (c : RunCtx) (stream : Nat) : List (List Byte) :=
  routes c fun t => field t 0 1 = 0 && field t 4 2 = stream

/-- Map row and column of a token for a route (R260). -/
def tokenAt (c : RunCtx) (t : List Byte) (token : Nat) : Nat × Nat :=
  let w := field (expandRec c (field t 6 2)) 0x12 2
  (field t 8 2 + token / w, token % w)

/-- Every ring that the token goes to has room for it. -/
def deliverable (c : RunCtx) (d : Delivery) (r : Run) : Bool :=
  (routesOf c d.stream).all fun t => !covers t (tokenAt c t d.token).1 || hasRoom c t (tokenAt c t d.token).1 r

/-- A token goes into every ring whose route covers its row. -/
def deliver (c : RunCtx) (d : Delivery) (r : Run) : Run :=
  (routesOf c d.stream).foldl (fun r t =>
    let e := expandRec c (field t 6 2)
    let (n, x) := tokenAt c t d.token
    if !covers t n then r
    else
      let r1 := ringToken c e n x d.bytes r
      if x + 1 = field e 0x12 2 then countRow c t n r1 else r1) r

/-- The tokens that wait are delivered while there is room for the first of their stream. -/
def drain (c : RunCtx) : Nat → Run → Run
  | 0, r => r
  | k + 1, r =>
    match r.due.find? fun d => (r.due.find? fun e => e.stream = d.stream) = some d && deliverable c d r with
    | none => r
    | some d =>
      if r.over_ then r
      else drain c k (deliver c d { r with due := r.due.filter (· ≠ d) })

/-- The rows of a POST record go to its FROM_POST stream: to the rings whose routes name it, as these have room, else to its Dest (R108, R260). -/
def putRows (c : RunCtx) (st : StreamRec) (slot : Nat) (rows : List (Nat × List Byte)) (r : Run) : Run :=
  match routesOf c st.index with
  | [] =>
    if st.transpose then
      (List.range (st.rowBytes * 8 / st.elemBits)).foldl (fun r k =>
        let a := st.dest + k * st.dstStride
        let old := bytes c r.s a ((st.rowCount * st.elemBits + 7) / 8)
        let new := packRow st.elemBits ((List.range st.rowCount).map fun i =>
          match rows.find? fun x => x.1 = i with
          | some x => packed (slice x.2 0 st.rowBytes) st.elemBits k
          | none => packed old st.elemBits i)
        write c false a new r) r
    else
      rows.foldl (fun r (x : Nat × List Byte) =>
        if x.1 < st.rowCount then write c false (st.dest + x.1 * st.dstStride) (slice x.2 0 st.rowBytes) r else r) r
  | _ =>
    let more := rows.map fun (x : Nat × List Byte) => (⟨st.index, slot, x.1, x.2⟩ : Delivery)
    drain c (r.due.length + more.length) { r with due := r.due ++ more }

/-- A MEMORY route lands map row `n`: rows land in ascending order, while the ring has room (R260, R261). -/
def land (c : RunCtx) (j n : Nat) (r : Run) : Run :=
  let t := routeRec c j
  let e := expandRec c (field t 6 2)
  let es := field e 0xD 1 / 8
  if n ≠ field t 0xA 2 + landed c t r || !hasRoom c t n r then r.hold .early
  else countRow c t n <| (List.range (field e 0x10 2)).foldl (fun r ch => (List.range (field e 0x12 2)).foldl (fun r x =>
    let (b, r1) := read c false (addr48 t 0x10 + ch * field t 0x18 4 + n * field t 0x1C 4 + x * es) es r
    write c false (ringAddr e ch n x) b r1) r) (r.onSlot (field t 2 2))

/-- Map row `n` has landed in the ring of expansion record `i` (R261). -/
def rowReady (c : RunCtx) (i n : Nat) (r : Run) : Bool :=
  (routes c fun t => field t 6 2 = i && covers t n).all fun t => n - field t 0xA 2 < landed c t r

/-- The tap (ch, y, x) of a map: its element, once its row has landed, or padding (R254, R258). -/
def tap (c : RunCtx) (i ch : Nat) (y x : Int) (r : Run) : List Byte × Run :=
  let e := expandRec c i
  let es := field e 0xD 1 / 8
  let h : Int := field e 0x14 2
  let w : Int := field e 0x12 2
  if (0 ≤ y && y < h && 0 ≤ x && x < w) || field e 0xC 1 = 1 then
    let n := (max 0 (min (h - 1) y)).toNat
    if rowReady c i n r then read c false (ringAddr e ch n (max 0 (min (w - 1) x)).toNat) es r
    else (List.replicate es 0, r.hold .early)
  else (slice e 0xE es, r)

/-- Output row `yo` is expanded: the rows below its successor's first tap are passed (R261). -/
def raiseLow (c : RunCtx) (i yo : Nat) (r : Run) : Run :=
  let e := expandRec c i
  if r.over_ then r
  else
    let l := max (lowOf c i r) ((yo + 1) * field e 6 1 - field e 8 1)
    { r with flow := { r.flow with low := NMap.insert i l r.flow.low } }

/-- An expansion record expands output row `yo` (R256, R257). -/
def expand (c : RunCtx) (i yo : Nat) (r : Run) : Run :=
  let e := expandRec c i
  let es := field e 0xD 1 / 8
  let kh := field e 4 1
  let kw := field e 5 1
  let cin := field e 0x10 2
  let wo := (outSize (field e 0x12 2) (field e 0xA 1) (field e 0xB 1) kw (field e 7 1)).toNat
  let b := (yo - field e 0x16 2) % field e 0x1C 1
  let pitch := field e 0x2C 4
  let at_ (ch ky kx xo : Nat) (r : Run) : List Byte × Run :=
    tap c i ch ((yo * field e 6 1 + ky : Nat) - (field e 8 1 : Int)) ((xo * field e 7 1 + kx : Nat) - (field e 0xA 1 : Int)) r
  raiseLow c i yo <|
  if field e 2 1 = 0 then
    let base := addr48 e 0x30 + b * field e 0x1A 2 * pitch
    (List.range (field e 0x1A 2)).foldl (fun r k => (List.range wo).foldl (fun r xo =>
      let (bs, r1) := if k < cin * kh * kw then at_ (k / (kh * kw)) (k / kw % kh) (k % kw) xo r
        else (slice e 0xE es, r)
      write c false (base + k * pitch + xo * es) bs r1) r) (r.onSlot (field e 0 2))
  else
    let base := addr48 e 0x30 + b * (wo * kh * kw) * pitch
    (List.range (wo * kh * kw)).foldl (fun r k => (List.range cin).foldl (fun r ch =>
      let (bs, r1) := at_ ch (k / kw % kh) (k % kw) (k / (kh * kw)) r
      write c false (base + k * pitch + ch * es) bs r1) r) (r.onSlot (field e 0 2))

/-! ### Walker records (R203 to R208) -/

/-- The walker of record `i` translates virtual page `v` of sequence context `q`, when it is mapped. -/
def toPage (c : RunCtx) (i q v : Nat) (r : Run) : Run :=
  match State.kvPage (r.s.seq q) v with
  | none => r
  | some k =>
    if r.over_ then r
    else { r with s := r.s.translate ((c.place[field (walkRec c i) 0 2]?).getD 0) c.part c.planId i q v k }

/-- Group, step, column and element of the code that an int4 row of token position `tt` holds for dimension `d`, in the order of Table 3-4: with TRANSPOSE the ring's tokens are the columns, else the dimensions are (R206; DEDUCED, log entry 77). -/
def codePlace (ring size : Nat) (tr : Bool) (tt d : Nat) : Nat × Nat × Nat × Nat :=
  if tr then (tt / 8 * (size / 64) + d / 64, d % 64 / 4, tt % 8, d % 4)
  else (d / 8 * (ring / 64) + tt / 64, tt % 64 / 4, d % 8, tt % 4)

/-- Rows of int4 codes, by token position, go into a head's CODE_STREAM block at `base`: in each group that they touch, after eight scales of 1.0, every code of theirs takes its place, and the others stay (R206). -/
def putCodes (c : RunCtx) (base ring size : Nat) (tr : Bool) (rows : List (Nat × List Byte)) (r : Run) : List (Nat × Nat) × Run :=
  let codes := rows.flatMap fun (x : Nat × List Byte) =>
    (List.range size).map fun d => (codePlace ring size tr x.1 d, packed x.2 4 d)
  let groups := (codes.map fun (x : (Nat × Nat × Nat × Nat) × Nat) => x.1.1).eraseDups
  groups.foldl (fun (a : List (Nat × Nat) × Run) g =>
    let at_ := base + g * 272
    let old := bytes c a.2.s at_ 272
    let nibbles := (List.range 512).map fun k =>
      match codes.find? fun (x : (Nat × Nat × Nat × Nat) × Nat) => x.1.1 = g && x.1.2.1 * 32 + x.1.2.2.1 * 4 + x.1.2.2.2 = k with
      | some x => x.2
      | none => packed (old.drop 16) 4 k
    (a.1 ++ [(at_, at_ + 272)],
      write c false at_ ((List.replicate 8 [0x00, 0x3C]).flatten ++ packRow 4 nibbles) a.2)) ([], r)

/-- A walker record runs for lane `b` over tokens [first, first + count). -/
def walk (c : RunCtx) (i b first count : Nat) (r0 : Run) : Run :=
  let r := r0.onSlot (field (walkRec c i) 0 2)
  let w := walkRec c i
  let op := field w 2 1
  let ring := field w 0x1C 2
  let hc := field w 6 1
  let rep := field w 7 1
  let tr := bit (field w 3 1) 0
  let lane := (c.seqLanes[b]?).filter fun l => l.status < 0x10
  let ctx := (lane.map Lane.seq).getD 0
  let q := match lane with | some l => planSeq c (r.s.seq l.seq) | none => planSeq c Seq.free
  let stop := (lane.map Lane.last).getD 0
  let begin_ := (lane.map Lane.first).getD 0
  -- the first token that this invocation appends to the sequence
  let fresh := ((c.seqLanes.filter fun l => l.seq = ctx && l.status < 0x10).map Lane.first).foldl min stop
  let rb := q.rowBytes
  let values := op = 2 || op = 4 || op = 6
  let plane (h : Nat) : Nat := (field w 4 1 * q.heads + field w 5 1 + h) * 2 + b2n values
  let hb := halfBytes c w
  let halfNo (t : Nat) : Nat := t / ring % 2
  let base (t : Nat) : Nat := addr48 w 8 + halfNo t * hb
  let heads := List.range hc
  let tokens := (List.range count).map (first + ·)
  let at_ (t h : Nat) (scale : Bool) : Nat × Nat := if scale then q.scaleAt t (plane h) else q.rowAt t (plane h)
  -- the pages of block k, and then those of block k + 1, when a record starts on block k
  let pages (k : Nat) (scale : Bool) (r : Run) : Run :=
    heads.foldl (fun r h => toPage c i ctx (at_ (k * q.block) h scale).1 r) r
  let enter (t : Nat) (scale : Bool) (r : Run) : Run :=
    let r1 := heads.foldl (fun r h => toPage c i ctx (at_ t h scale).1 r) r
    if t % q.block = 0 || t = begin_ && (op = 5 || op = 6) then pages (t / q.block + 1) scale r1 else r1
  let get (t h : Nat) (scale : Bool) (n : Nat) (r : Run) : List Byte :=
    if t < stop then r.s.readKv c.part q (at_ t h scale) n else List.replicate n 0
  let due (t : Nat) (r : Run) : Bool :=
    t < stop && fresh ≤ t && heads.any fun h => !r.flow.appended.contains (ctx, plane h, t)
  -- a half is filled anew only once it has been read whole, and is there to read once its last token is
  let open_ (t : Nat) (r : Run) : Run :=
    if t % ring ≠ 0 then r
    else
      let k := 2 * i + halfNo t
      if (r.half k).full && !(r.half k).unread.isEmpty then r.hold .early else r.setHalf k ⟨false, []⟩
  let close (t : Nat) (r : Run) : Run :=
    if t % ring + 1 = ring || t + 1 = field c.params 0x10 4 then
      r.setHalf (2 * i + halfNo t) { r.half (2 * i + halfNo t) with full := true } else r
  let mark (t : Nat) (l : List (Nat × Nat)) (r : Run) : Run :=
    let k := 2 * i + halfNo t
    r.setHalf k { r.half k with unread := (r.half k).unread ++ l }
  let put (t a : Nat) (bs : List Byte) (r : Run) : Run := mark t [(a, a + bs.length)] (write c false a bs r)
  let token (scale : Bool) (f : Nat → Run → Run) (r : Run) (t : Nat) : Run :=
    let r1 := open_ t r
    if op ≠ 7 && due t r1 then r1.hold .early
    else close t (f t (if t < stop && op ≠ 7 then enter t scale r1 else r1))
  if op = 1 || op = 2 then
    if bit (field w 3 1) 1 then
      tokens.foldl (token false fun t r => heads.foldl (fun r h =>
        let x := putCodes c (base t + h * (ring * (rb * 17 / 16))) ring q.headSize tr [(t % ring, get t h false rb r)] r
        mark t x.1 x.2) r) r
    else if tr then
      let e := if q.fmt = 0 then 8 else 4
      tokens.foldl (token false fun t r => heads.foldl (fun r h =>
        let row := get t h false rb r
        (List.range q.headSize).foldl (fun r d =>
          let a := base t + h * (ring * rb) + d * (ring * e / 8) + t % ring * e / 8
          let v := packed row e d
          let old := (bytes c r.s a 1).headD 0
          put t a (if e = 8 then leBytes 1 v else leBytes 1 (if t % 2 = 0 then old.toNat / 16 * 16 + v else old.toNat % 16 + 16 * v)) r) r) r) r
    else
      tokens.foldl (token false fun t r => heads.foldl (fun r h =>
        put t (base t + h * (ring * rb) + t % ring * rb) (get t h false rb r) r) r) r
  else if op = 3 || op = 4 then
    tokens.foldl (token true fun t r => heads.foldl (fun r h => (List.range (if op = 4 then rep else 1)).foldl (fun r k =>
      put t (base t + (h * (if op = 4 then rep else 1) + k) * (ring * 4) + t % ring * 4) (get t h true 4 r) r) r) r) r
  else if op = 7 then
    tokens.foldl (token false fun t r =>
      put t (base t + t % ring * 4) (leBytes 4 (if t < stop then 0 else 0xFB800000)) r) r
  else
    heads.foldl (fun r h => (tokens.filter fun t => t < stop - begin_).foldl (fun r t =>
      let k := (b * field c.params 0x14 2 + t) * hc + h
      let (bs, r1) := read c false (addr48 w 8 + k * rb) rb r
      let (sc, r2) := read c false (addr48 w 0x10 + k * 4) 4 r1
      if r2.over_ then r2
      else
        let r3 := enter (begin_ + t) true (enter (begin_ + t) false r2)
        let s1 := r3.s.writeKv c.part q (at_ (begin_ + t) h false) bs
        { r3 with s := s1.writeKv c.part q (at_ (begin_ + t) h true) sc
                  flow := { r3.flow with appended := r3.flow.appended ++ [(ctx, plane h, begin_ + t)] } }) r) r

/-! ### The post-unit's record (R72 to R82) -/

/-- A tile's local gathering for one target takes more quantities. -/
def gatherInto (key : Nat × Nat) (x : List Quantity) (l : List ((Nat × Nat) × StatSet)) : List ((Nat × Nat) × StatSet) :=
  if x.isEmpty then l
  else if l.any fun y => y.1 = key then
    l.map fun (y : (Nat × Nat) × StatSet) => if y.1 = key then (key, x.foldl StatSet.gather y.2) else y
  else l ++ [(key, x.foldl StatSet.gather StatSet.none)]

/-- The quantities of row `n` at a conversion point of a POST record: into the tile's gathering for the set that the record names, and for the row's lane, when the point gathers (R82, R83). -/
def gather (c : RunCtx) (p : PostRec) (input : Bool) (n : Nat) (x : List Quantity) (r : Run) : Run :=
  if !(if input then p.statsIn else p.statsOut) then r
  else
    let lanes := if c.lanes.isEmpty then r.laneSets else gatherInto (p.slot, n % c.lanes.length) x r.laneSets
    { r with sets := gatherInto (p.slot, if input then p.setIn else p.setOut) x r.sets, laneSets := lanes }

def flag (b : Nat) (r : Run) : Run := { r with s := r.s.raise 0x3401 b }

/-- Stage `i` of a POST record on its rows; `cols` are the output columns of the rows' elements. ARGMAX gives its index as an FP32 number, as every stage does (R74). A DEQUANT that stands first in a record without a gang has no accumulator to work on, and the manual states nothing of it: its rows come out empty (DESIGN CHOICE, log entry 62). -/
def stage (c : RunCtx) (p : PostRec) (i : Nat) (cols : List Nat) (rows : List PRow) (r : Run) :
    List Nat × List PRow × Run :=
  let op := (p.stages[i]?).getD 0
  let value := c.plan.value p i
  let (blk, r0) := read c false (p.param + 32 * i) 32 r
  let addr := addr48 blk 0
  let addr2 := addr48 blk 8
  let scalar : W32 := BitVec.ofNat 32 (field blk 0x10 4)
  let stride := field blk 0x18 4
  let map1 (f : W32 → W32) : List Nat × List PRow × Run := (cols, rows.map fun x => { x with y := x.y.map f }, r0)
  let aux (x : PRow) (k : Nat) (fmt : Nat) (r : Run) : W32 × Run :=
    let e := fmtBits fmt
    let (b, r1) := read c false (p.aux + x.n * p.auxStride + k * e / 8) ((k * e % 8 + e + 7) / 8) r
    (auxValue b fmt (k * e % 8 / e), r1)
  let each (f : PRow → Run → PRow × Run) : List Nat × List PRow × Run :=
    let z := rows.foldl (fun (a : List PRow × Run) x => let (y, r1) := f x a.2; (a.1 ++ [y], r1)) ([], r0)
    (cols, z.1, z.2)
  let withAux (f : W32 → W32 → W32) : List Nat × List PRow × Run :=
    each fun x r =>
      let z := x.y.zipIdx.foldl (fun (a : List W32 × Run) (y : W32 × Nat) =>
        let (v, r1) := aux x y.2 p.auxFormat a.2
        (a.1 ++ [f y.1 v], r1)) ([], r)
      ({ x with y := z.1 }, z.2)
  let phase := bits value 17 16
  let seg := bits value 31 24
  let len := bits value 13 0
  let partAt (k n : Nat) (r : Run) : (W32 × W32) × Run :=
    let (b, r1) := read c false (addr + k * stride + 8 * n) 8 r
    ((BitVec.ofNat 32 (field b 0 4), BitVec.ofNat 32 (field b 4 4)), r1)
  let parts (n : Nat) (r : Run) : List (W32 × W32) × Run :=
    (List.range seg).foldl (fun (a : List (W32 × W32) × Run) k =>
      let (v, r1) := partAt k n a.2; (a.1 ++ [v], r1)) ([], r)
  let putPart (n : Nat) (a b : W32) (r : Run) : Run :=
    write c false (addr + 8 * n) (leBytes 4 a.toNat ++ leBytes 4 b.toNat) r
  if op = 0x01 then
    let (sw, r1) := if addr = 0 then (cols.map fun _ => F32.one, r0) else vec c addr cols r0
    let (cs, r2) := if p.colSum = 0 then ([], r1) else vec c p.colSum cols r1
    (cols, rows.map fun x =>
      { x with y := x.acc.zipIdx.map fun (a : Acc × Nat) =>
          dequant a.1 x.zero (cs[a.2]?) x.scale ((sw[a.2]?).getD F32.one) }, r2)
  else if op = 0x02 then
    let (bv, r1) := vec c addr cols r0
    (cols, rows.map fun x => { x with y := (x.y.zip bv).map fun (a : W32 × W32) => F32.add a.1 a.2 }, r1)
  else if op = 0x03 then withAux F32.add
  else if op = 0x04 then withAux F32.mul
  else if op = 0x05 then
    let z := each fun x r =>
      let z := (List.range (x.y.length / 4)).foldl (fun (a : List W32 × Run) u =>
        let (h, r1) := aux x u 5 a.2
        let (o, h1) := cell (value = 1) ((x.y.drop (4 * u)).take 4) h
        (a.1 ++ [o], write c false (p.aux + x.n * p.auxStride + 4 * u) (leBytes 4 h1.toNat) r1)) ([], r)
      ({ x with y := z.1 }, z.2)
    ((List.range (cols.length / 4)).map fun u => ((cols[4 * u]?).getD 0) / 4, z.2.1, z.2.2)
  else if op = 0x06 then map1 F32.sigmoid
  else if op = 0x07 then map1 F32.tanh
  else if op = 0x08 then map1 F32.hardSigmoid
  else if op = 0x09 then map1 F32.hardTanh
  else if op = 0x0A then map1 (F32.act value)
  else if op = 0x10 then
    each fun x r =>
      if phase = 2 then
        let (ps, r1) := parts x.n r
        let m := ps.foldl (fun a b => F32.max a b.1) F32.negInf
        let l := ps.foldl (fun a b => F32.add a (F32.mul b.2 (F32.exp (F32.sub b.1 m)))) F32.zero
        ({ x with y := x.y.zipIdx.map fun (a : W32 × Nat) =>
            let ms := ((ps[a.2 / len]?).getD (F32.negInf, F32.zero)).1
            F32.mul a.1 (F32.div (F32.exp (F32.sub ms m)) l) }, r1)
      else
        let xs := x.y.map fun v => if F32.num scalar = F32.num F32.zero then v else F32.mul v scalar
        let (m, l) := softmaxScan xs
        let e := xs.map fun v => F32.exp (F32.sub v m)
        if phase = 0 then ({ x with y := e.map fun v => F32.mul v (F32.div F32.one l) }, r)
        else ({ x with y := e }, putPart x.n m l r)
  else if op = 0x11 then
    each fun x r =>
      if phase = 1 then
        let (mean, m2) := welford x.y
        (x, putPart x.n mean m2 r)
      else
        let n := if phase = 0 then len else seg * len
        let ((mean, m2), r1) : (W32 × W32) × Run :=
          if phase = 0 then (welford x.y, r)
          else
            let (ps, r1) := parts x.n r
            match ps with
            | [] => ((F32.zero, F32.zero), r1)
            | q :: qs => ((qs.foldl (foldPair len) (len, q.1, q.2)).2, r1)
        let (ga, r2) := vec c addr2 (List.range n) r1
        let (be, r3) := vec c (addr2 + 4 * n) (List.range n) r2
        let rs := F32.rsqrt (F32.add (F32.div m2 (F32.ofInt n)) scalar)
        ({ x with y := x.y.zipIdx.map fun (a : W32 × Nat) =>
            F32.add (F32.mul (F32.mul (F32.sub a.1 mean) rs) ((ga[a.2]?).getD 0)) ((be[a.2]?).getD 0) }, r3)
  else if op = 0x12 then
    each fun x r =>
      if phase = 1 then (x, putPart x.n (sumSquares x.y) 0 r)
      else
        let n := if phase = 0 then len else seg * len
        let (sum, r1) : W32 × Run :=
          if phase = 0 then (sumSquares x.y, r)
          else
            let (ps, r1) := parts x.n r
            (ps.foldl (fun a b => F32.add a b.1) F32.zero, r1)
        let (ga, r2) := vec c addr2 (List.range n) r1
        let rs := F32.rsqrt (F32.add (F32.div sum (F32.ofInt n)) scalar)
        ({ x with y := x.y.zipIdx.map fun (a : W32 × Nat) => F32.mul (F32.mul a.1 rs) ((ga[a.2]?).getD 0) }, r2)
  else if op = 0x13 then
    let z := each fun x r =>
      if phase = 2 then
        let (ps, r1) := parts x.n r
        let best := ps.foldl (fun (b : Option (W32 × W32)) v =>
          if F32.isNan v.1 || v.2.toNat % 65536 = 0xFFFF then b
          else match b with
            | none => some v
            | some w => if F32.lt w.1 v.1 || (!F32.lt v.1 w.1 && v.2.toNat % 65536 < w.2.toNat % 65536) then some v else b) none
        ({ x with y := [F32.ofInt (match best with | some v => v.2.toNat % 65536 | none => 0xFFFF : Nat)] }, r1)
      else
        let (v, k) : W32 × Nat := match argmax x.y with
          | some (k, v) => (v, seg * len + k)
          | none => (F32.qnan, 0xFFFF)
        let y1 := { x with y := [F32.ofInt k] }
        if phase = 1 then (y1, putPart x.n v (BitVec.ofNat 32 k) r) else (y1, r)
    ([0], z.2.1, z.2.2)
  else if op = 0x18 || op = 0x19 then
    (cols, (List.range (rows.length / value)).map fun g =>
      { n := ((rows[g * value]?).map PRow.n).getD 0 / value, acc := [], y := pool (op = 0x19) value (((rows.drop (g * value)).take value).map PRow.y)
        scale := F32.one, zero := 0 }, r0)
  else (cols, rows, r0)

/-- REQUANT, or the conversion to OutFormat 4 to 6, of one row: its codes; statistics and row scales go with it (R81, R82). -/
def convert (c : RunCtx) (p : PostRec) (x : PRow) (r : Run) : List Nat × Run :=
  let last := p.stages.length - 1
  let value := c.plan.value p last
  if (p.stages[last]?) = some 0x1F then
    let codeOf (k : Int) : Nat := (k % 256).toNat
    if F32.num p.outMul ≠ F32.num F32.zero then
      let zs := x.y.map (requantStatic p.outFormat p.symmetric p.outMul (signed 8 (value % 256)))
      (zs.map fun a => codeOf a.1, gather c p false x.n (zs.map Prod.snd) r)
    else
      let len := bits value 13 0
      let n := (x.y.length + len - 1) / len
      let z := (List.range n).foldl (fun (a : List Nat × List Quantity × Run) k =>
        let xs := (x.y.drop (k * len)).take len
        let q := scanRow p.outFormat false xs
        let r1 := match q.case_ with | .zeroRange => flag 2 a.2.2 | _ => a.2.2
        (a.1 ++ q.codes.map fun y => codeOf y.code, a.2.1 ++ scanStats p.outFormat xs q,
          write c false (p.rowScale + 4 * (x.n * n + k)) (leBytes 4 q.scale.toNat) r1)) ([], [], r)
      (z.1, gather c p false x.n z.2.1 z.2.2)
  else if p.outFormat = 4 then
    let zs := x.y.map fun v => (v, convBf16 (F32.num v))
    (zs.map fun a => a.2.code.toNat, gather c p false x.n
      (plainStats (zs.map fun (a : W32 × Conv) => (a.1, F32.ofNum (codeNum 4 a.2.code), a.2.sat))) r)
  else if p.outFormat = 6 then (x.y.map fun v => (F32.num v).rint.toNat, r)
  else (x.y.map BitVec.toNat, r)

/-- A POST record runs over rows (R72). NON_FINITE is raised for each row that reaches the last stage with an element that is NaN or infinite (R70). -/
def post (c : RunCtx) (p : PostRec) (cols : List Nat) (rows : List PRow) (r0 : Run) : Run :=
  match c.plan.streams[p.outStream]? with
  | none => r0
  | some st =>
    let r := r0.onSlot p.slot
    let rows0 := rows.map fun x => { x with y := if x.acc.isEmpty then x.y else x.acc.map Acc.toF32 }
    let n := p.stages.length
    let (cols1, rows1, r1) := (List.range (n - 1)).foldl
      (fun (a : List Nat × List PRow × Run) i => stage c p i a.1 a.2.1 a.2.2) (cols, rows0, r)
    let r2 := (rows1.filter fun x => x.y.any fun v => !F32.isFinite v).foldl (fun r _ => flag 1 r) r1
    let (_, rows2, r3) := stage c p (n - 1) cols1 rows1 r2
    let z := rows2.foldl (fun (a : List (Nat × List Byte) × Run) x =>
      let (codes, r4) := convert c p x a.2
      (a.1 ++ [(x.n, packRow (fmtBits p.outFormat) codes)], r4)) ([], r3)
    if z.2.over_ then z.2 else putRows c st p.slot z.1 z.2

/-- A POST record without a gang: its input rows come from the auxiliary operand. -/
def postAlone (c : RunCtx) (i rows cols : Nat) (r : Run) : Run :=
  match c.plan.posts[i]? with
  | none => r
  | some p =>
    let w := (cols * fmtBits p.auxFormat + 7) / 8
    let z := (List.range rows).foldl (fun (a : List PRow × Run) n =>
      let (b, r1) := read c false (p.aux + n * p.auxStride) w a.2
      (a.1 ++ [{ n := n, acc := [], y := (List.range cols).map (auxValue b p.auxFormat), scale := F32.one, zero := 0 }], r1)) ([], r.onSlot p.slot)
    post c p (List.range cols) z.1 z.2

/-! ### Virtual arrays (R27 to R33, R63) -/

/-- Slot of gang `g` in array column `j` and tile row `ty`. -/
def slotOf (pl : Plan) (g : GangRec) (j ty : Nat) : Option SlotRec :=
  match pl.slots[g.lead]? with
  | none => none
  | some l => (pl.gangSlots g.gang).find? fun x => x.dx = l.dx + j && x.dy = l.dy + ty

def feedOf (pl : Plan) (g : GangRec) (x : Option SlotRec) : Option FeedRec :=
  x.bind fun s => pl.feeds.find? fun f => f.slot = s.slot && f.gang = g.gang

/-- Activation rows of a tile row: each row of the west feeder's stream, as fed (R67 to R71). -/
def fedRows (c : RunCtx) (g : GangRec) (ty k : Nat) (r : Run) : List Fed × Run :=
  match feedOf c.plan g (slotOf c.plan g 0 ty) with
  | none => ([], r)
  | some f =>
    match c.plan.streams[f.act]? with
    | none => ([], r)
    | some st =>
      let (rows, r1) := streamRows c st r
      (rows.map (feedRow g.kind f.scaleMode f.zeroPoint st.elemBits k), r1)

/-- The whole weight stream of array column `j` (R63). -/
def weightStream (c : RunCtx) (g : GangRec) (j : Nat) (r : Run) : List Byte × Run :=
  match (feedOf c.plan g (slotOf c.plan g j 0)).bind fun f => c.plan.streams[f.weight]? with
  | none => ([], r)
  | some st => let (rows, r1) := streamRows c st r; (rows.flatten, r1)

/-- A gang runs its passes; then each of its slots' POST records takes the accumulators of its own arrays, tokens in the order of the passes and columns rising (R72). -/
def dense (c : RunCtx) (gi : Nat) (passes : List Pass) (r : Run) : Run :=
  match c.plan.gangs[gi]? with
  | none => r
  | some g =>
    let steps := ((feedOf c.plan g (slotOf c.plan g 0 0)).map FeedRec.steps).getD 0
    let k := g.depth steps
    let tileRows := (g.rows + 3) / 4
    let (fed, r1) := (List.range tileRows).foldl (fun (a : List (List Fed) × Run) ty =>
      let (x, r1) := fedRows c g ty k a.2; (a.1 ++ [x], r1)) ([], r)
    let (ws, r2) := (List.range g.cols).foldl (fun (a : List (List Byte) × Run) j =>
      let (x, r1) := weightStream c g j a.2; (a.1 ++ [x], r1)) ([], r1)
    let perTile := if g.mode = 0 then 4 else 8 * min g.rows 4
    -- feeder statistics and flags: each scanned row once
    let r3 := fed.zipIdx.foldl (fun r (x : List Fed × Nat) =>
      match slotOf c.plan g 0 x.2 with
      | none => r
      | some s => match c.plan.posts.find? fun p => p.slot = s.slot && p.gang = g.gang with
        | none => r
        | some p => x.1.zipIdx.foldl (fun r (y : Fed × Nat) =>
            let r1 := match y.1.flag with | some b => flag b r | none => r
            gather c p true y.2 y.1.stats r1) r) r2
    (c.plan.gangSlots g.gang).foldl (fun r s =>
      match c.plan.posts.find? fun p => p.slot = s.slot && p.gang = g.gang with
      | none => r
      | some p =>
        let l := (c.plan.slots[g.lead]?).getD s
        let j := s.dx - l.dx
        let ty := s.dy - l.dy
        let mine (q : Pass) : List (Nat × Nat) := ((q.rows.zip q.tokens).drop (ty * perTile)).take perTile
        let tokens := (passes.flatMap fun q => (mine q).map Prod.snd).eraseDups
        let cols := (passes.map fun q => q.col).eraseDups.mergeSort.flatMap fun b => (List.range 8).map fun x => b + 8 * j + x
        let cell_ (tok col : Nat) : Acc :=
          match passes.find? fun q => q.col + 8 * j ≤ col && col < q.col + 8 * j + 8 && (mine q).any fun x => x.2 = tok with
          | none => .fp 0
          | some q =>
            let row := (((mine q).find? fun x => x.2 = tok).map Prod.fst).getD 0
            let d (jj : Nat) : List Byte := slice ((ws[jj]?).getD []) (q.block * passBytes g jj k) (passBytes g jj k)
            accumulate g k d j (col - q.col - 8 * j) (((fed[ty]?).bind fun x => x[row]?).elim [] Fed.vals)
        let rows := tokens.map fun t =>
          let src := (passes.findSome? fun q => ((mine q).find? fun x => x.2 = t).map Prod.fst).getD 0
          let f := (fed[ty]?).bind fun x => x[src]?
          { n := t, acc := cols.map (cell_ t), y := [], scale := (f.map Fed.scale).getD F32.one, zero := (f.map Fed.zero).getD 0 : PRow }
        let r4 := (rows.flatMap PRow.acc).foldl (fun r a => match a with | .int _ true => flag 0 r | _ => r) r
        let tile := (c.place[s.slot]?).getD 0
        let r5 := if c.roost then r4 else { r4 with s := r4.s.bumpObj64 0x3130 tile (passes.length * steps) }
        post c p cols rows r5) r3

/-- The lanes whose mark lies at `frame` take the initial state in bytes [off, off + n) of their image (R172). -/
def restart (c : RunCtx) (frame off n : Nat) (r : Run) : Run :=
  c.lanes.foldl (fun r l => match l with
    | some x => if x.mark = some frame && !r.over_ then
        { r with s := r.s.writeState c.part (x.berth + off) (List.replicate n 0) } else r
    | none => r) r

/-- One entry of the schedule. -/
def op (c : RunCtx) (r : Run) (o : FlowOp) : Run :=
  if r.over_ then r
  else match o with
    | .copy i => copy c i r
    | .dense g ps => dense c g ps r
    | .post i rows cols => postAlone c i rows cols r
    | .expand i y => expand c i y r
    | .land j n => land c j n r
    | .walk i b f n => walk c i b f n r
    | .restart f o n => restart c f o n r
    | .cheap _ => r

/-- The part of a schedule from cheap point `a` to cheap point `b`, or to its end. -/
def between (a : Nat) (b : Option Nat) (ops : List FlowOp) : List FlowOp :=
  let rest := ops.dropWhile (· ≠ .cheap a)
  match b with
  | some i => rest.takeWhile (· ≠ .cheap i)
  | none => rest

/-- The slots that an entry of the schedule works on. -/
def opSlots (c : RunCtx) (o : FlowOp) : List Nat :=
  match o with
  | .copy i => ((c.plan.streams[i]?).map StreamRec.slot).toList
  | .dense g _ => (c.plan.gangs[g]?).elim [] fun x => (c.plan.gangSlots x.gang).map SlotRec.slot
  | .post i _ _ => ((c.plan.posts[i]?).map PostRec.slot).toList
  | .expand i _ => [field (expandRec c i) 0 2]
  | .land j _ => [field (routeRec c j) 2 2]
  | .walk i _ _ _ => [field (walkRec c i) 0 2]
  | .restart _ _ _ | .cheap _ => List.range c.plan.slotCount

/-- The first entry that nothing holds runs: entries of a slot run in order, a slot whose tokens wait for room holds, and an entry that meets data which has not landed is tried again later (R33, R258, R261). What stays is the entries still to run. -/
def firstRun (c : RunCtx) (r : Run) : List FlowOp → List FlowOp → Option (Run × List FlowOp)
  | _, [] => none
  | held, o :: rest =>
    if (opSlots c o).any fun k => (held.any fun h => (opSlots c h).contains k) || r.due.any fun d => d.slot = k then
      firstRun c r (held ++ [o]) rest
    else
      let r1 := op c r o
      if r1.wait = some .early then firstRun c r (held ++ [o]) rest else some (r1, held ++ rest)

/-- The entries run, and tokens are delivered as rings get room. A run that can never go on stays held. -/
def runOps (c : RunCtx) : Nat → List FlowOp → Run → Run
  | 0, ops, r => if ops.isEmpty && r.due.isEmpty then r else r.hold .early
  | k + 1, ops, r =>
    if r.over_ then r
    else if ops.isEmpty then (if r.due.isEmpty then r else r.hold .early)
    else match firstRun c r [] ops with
      | none => r.hold .early
      | some (r1, rest) => runOps c k rest (drain c r1.due.length r1)

/-- The run of one part of a plan's schedule on state `s`. -/
def part (c : RunCtx) (a : Nat) (b : Option Nat) (s : State) : Run :=
  let ops := between a b (Config.schedule c.plan.configs)
  runOps c ops.length ops (start c s)

/-- The tiles' gatherings merge into the sets and the streams' records, in ascending slot order; a merge into a set beyond the partition's window is dropped and counted (R83, R85). -/
def mergeSets (c : RunCtx) (r : Run) : Run :=
  if c.roost || r.s.rdn 0x3402 1 = 0 then { r with sets := [], laneSets := [] }
  else
    let rising (l : List ((Nat × Nat) × StatSet)) := l.mergeSort fun a b => a.1.1 ≤ b.1.1
    let s1 := (rising r.sets).foldl (fun s (x : (Nat × Nat) × StatSet) =>
      if x.1.2 = 0xFFFF then s
      else if s.rdn 0x3411 (c.part + 1) ≤ x.1.2 then s.raise 0x3401 3
      else
        let n := s.rdn 0x3410 (c.part + 1) + x.1.2
        let v := (NMap.get (fun _ => StatSet.none) s.stats n).merge x.2 s.time
        { s with stats := NMap.set (fun _ => StatSet.none) s.stats n v }) r.s
    let s2 := (rising r.laneSets).foldl (fun s (x : (Nat × Nat) × StatSet) =>
      match (c.lanes[x.1.2]?).bind id with
      | some l => s.updStream l.stream fun y => { y with stats := y.stats.merge x.2 s.time }
      | none => s) s1
    { r with s := s2, sets := [], laneSets := [] }

/-- What the holds of a part of a plan count is free: the part is noted for each of its tiles (R33, R258, R261). -/
def noteHolds (c : RunCtx) (s : State) : State :=
  let (d, t) := s.draw
  c.place.eraseDups.foldl (fun s k =>
    let add (m : NMap (List Nat)) (i : Nat) : NMap (List Nat) := NMap.set (fun _ => []) m i (NMap.get (fun _ => []) m i ++ [d])
    let h := add s.holds k
    { s with holds := if c.kind = 3 then add h (512 + k) else h }) t

/-- The state that a run leaves, with its statistics merged when `merge` says so: an AUTH end moves no data to any output and raises MARKED_READ (R42, R385). -/
def finish (c : RunCtx) (before : State) (merge : Bool) (r : Run) : State :=
  match r.auth with
  | some d => before.security 2 (if c.roost then none else some c.part) d
  | none =>
    let s0 := if merge then (mergeSets c r).s else r.s
    let s1 := if c.roost then s0 else noteHolds c s0
    let s2 := if r.outside then s1.raise 0x4001 9 else s1
    if r.offBus then s2.busBlocked else s2

end Run

end Sys2Proof.Machine
end

