-- ==== Sys2Proof/Machine/Invocations.lean ====
section
/-! DEFINITION. Running invocations: their configurations, checkpoints, ends, replays, and the fall-back to a degraded variant (R44, R46, R49, R212, R310, R311, R359, R360, R377). -/

namespace Sys2Proof.Machine

/-! ### Lanes of an ATTEND (R211, R212) -/

/-- Status of an ATTEND from its lane statuses (R212). -/
def attendStatus (lanes : List Lane) : Nat :=
  let st := lanes.map Lane.status
  let top := st.foldl max 0
  if top < 0x10 then top
  else match st with
    | [] => 0
    | a :: rest => if rest.all (· = a) then a else 0x58

/-- The 8 bytes of a lane's status entry. -/
def Lane.bytes (l : Lane) (rejected : Bool) : List Byte :=
  leBytes 1 l.status ++ [0] ++ leBytes 2 l.cow ++ leBytes 4 (if rejected then 0 else l.last)

/-- Statuses with which a lane is rejected at admission: it then appended nothing. -/
def Lane.rejected (l : Lane) : Bool := l.last = l.first

/-- An admitted lane at the end of its step: the status that ended the step, or how it ran (R113, R212, R360). -/
def Lane.ended (v : Invocation) (status : Nat) (l : Lane) : Lane :=
  if l.status ≠ 0 then l
  else { l with status := if 0x10 ≤ status then status else if v.replayed then 2 else if l.corrected || v.corrected then 1 else 0 }

namespace State

/-- A lane of a running ATTEND holds sequence context `q` (Table 7-1). -/
def inStep (s : State) (q : Nat) : Bool :=
  s.partKeys.any fun p => (s.part p).invs.any fun v => v.lanes.any fun l => !l.rejected && l.seq = q

/-! ### Configurations (R46, R311, R377) -/

/-- Plan `id` of partition p becomes the running configuration of the tiles; what ran there stays in the other half. -/
def runOn (s : State) (p : Nat) (id : W64) (tiles : List Nat) : State :=
  tiles.foldl (fun s t =>
    let h := s.halves t
    if h.running = some (p, id) then s
    else (s.zeroMarked t).setHalves t { running := some (p, id), staged := h.running, pending := false }) s

/-- A loaded plan's configuration goes into the running half of a tile that runs nothing, else into the staged half (R46). -/
def stage (s : State) (p : Nat) (id : W64) (tiles : List Nat) : State :=
  tiles.foldl (fun s t =>
    let h := s.halves t
    let busy := match h.running with
      | some (q, k) => s.planRuns q k
      | none => false
    if busy then s.setHalves t { h with staged := some (p, id), pending := true }
    else (s.zeroMarked t).setHalves t { running := some (p, id), staged := h.running, pending := false }) s

/-- Take plan `id` of partition p out of every half; a tile whose running half empties is gated. -/
def dropConfig (s : State) (p : Nat) (id : W64) : State :=
  (NMap.keys s.fabric.halves).foldl (fun s t =>
    let h := s.halves t
    let s1 := if h.running = some (p, id) then s.zeroMarked t else s
    s1.setHalves t { running := if h.running = some (p, id) then none else h.running
                     staged := if h.staged = some (p, id) then none else h.staged
                     pending := h.pending && h.staged ≠ some (p, id) }) s

/-! ### Cheap points -/

/-- The local-memory live ranges of a cheap point, by slot × 2^20 + offset. -/
def liveBytes (s : State) (l : Loaded) (c : CheapRec) : NMap Byte :=
  ((l.active.livesOf c).filter fun v => v.kind = 0).foldl (fun (m : NMap Byte) v =>
    (List.range v.bytes).foldl (fun m i =>
      NMap.insert (v.slot * 0x100000 + v.addr % 0x100000 + i)
        (s.tileByte ((l.place[v.slot]?).getD 0) (v.addr % 0x100000 + i)) m) m) []

/-- The first marked line that a cheap point's local-memory live ranges touch: tile and offset (R42). -/
def liveMarked (s : State) (l : Loaded) (c : CheapRec) : Option (Nat × Nat) :=
  ((l.active.livesOf c).filter fun v => v.kind = 0).findSome? fun v =>
    let t := (l.place[v.slot]?).getD 0
    (s.markedIn t (v.addr % 0x100000) v.bytes).map fun o => (t, o)

/-- The device copies a CHECKPOINT point's local-memory live ranges, row-ready counters and low-water marks to the plan's checkpoint area (R40, R263). -/
def saveCheckpoint (s : State) (p : Nat) (l : Loaded) (c : CheapRec) (flow : Flow) : State :=
  let area := s.liveBytes l c
  s.updPlan p l.plan.planId fun x => { x with ckpt := area, ckptFlow := flow }

/-- Saved live ranges return to local memory. -/
def loadLive (s : State) (l : Loaded) (area : NMap Byte) : State :=
  area.foldl (fun s (x : Nat × Byte) =>
    let a := (l.place[x.1 / 0x100000]?).getD 0 * 0x100000 + x.1 % 0x100000
    s.updMem fun m => { m with tile := NMap.set m.tileBase m.tile a x.2 }) s

/-- The live ranges of a stop at point i are saved (R311). -/
def saveLive (s : State) (p : Nat) (l : Loaded) (i : Nat) : State :=
  match l.active.cheaps[i]? with
  | some c =>
    let area := s.liveBytes l c
    s.updPlan p l.plan.planId fun x => { x with saved := area }
  | none => s

/-! ### Start and end -/

/-- Completion status of an invocation that ran to its end, or was stopped (R113, R305, R360). -/
def invResult (v : Invocation) : Nat :=
  if v.stop = .abort || v.stop = .abortChosen then 0x72 else if v.replayed then 2 else if v.corrected then 1 else 0

/-- The lane statuses of an ATTEND that ends are written where its descriptor says: host memory takes them with the record, any other writable memory of the partition now (R88, R210, R212). -/
def putLaneStatus (s : State) (p addr : Nat) (bs : List Byte) (place : List Nat) : State × List (Nat × List Byte) :=
  match region addr with
  | some (.host a) => (s, [(s.busAddr p a, bs)])
  | some (.window o) => (s.writeWindow p o bs, [])
  | some (.state o) => (s.writeState p o bs, [])
  | some (.slotWindow k o) => (s.writeTile ((place[k]?).getD 0) o bs false, [])
  | _ => (s, [])

/-- The invocation of plan `id` ends with a status, and the partition's merge buffers are released (R100). An ATTEND's lanes that were admitted and have no status of their own take it, and their statuses go out with the record (R212). -/
def endInvocation (s : State) (p : Nat) (id : W64) (status : Nat) : State :=
  match s.findInv p id with
  | none => s
  | some v =>
    let s1 := (s.releaseAll p).dropInv p id
    if !v.attend then s1.endWork p v.slot status 0 (s.time - v.start) (v.replayed && status = 2)
    else
      let lanes := v.lanes.map (Lane.ended v status)
      let addr := match s.findWork p v.slot with
        | some w => dBody w.raw 0x10 8
        | none => 0
      let (s2, pre) := s1.putLaneStatus p addr (lanes.flatMap fun l => l.bytes l.rejected) ((s.findPlan p id).elim [] Loaded.place)
      s2.endWorkWith p v.slot (attendStatus lanes) 0 0 (v.replayed && attendStatus lanes < 0x10) pre

/-- The device's own copy of a cheap point's live ranges reads a marked line: the invocation ends with AUTH and MARKED_READ is logged (R42, R385). -/
def endMarked (s : State) (p : Nat) (id : W64) (x : Nat × Nat) : State :=
  (s.endInvocation p id 0x80).security 2 (some p) (BitVec.ofNat 64 (x.1 * 4294967296 + x.2))

/-- A replay that has passed again the last point before its fault has caught up: the time that it added is the time from the one passing to the other, and `ReplayMaxMicros` keeps the largest (R361). -/
def caughtUp (s : State) (p : Nat) (id : W64) : State :=
  match s.findInv p id with
  | none => s
  | some v =>
    match v.behind with
    | none => s
    | some (k, t) =>
      if v.faulted || v.stopped || v.cheap < k then s
      else (s.keepMax 0x9003 8 (s.time - t)).updInv p id fun v => { v with behind := none }

/-- What passing cheap point `i` does: a checkpoint, its PORTABLE mark, and the release of the partition's merge buffers (R40, R100). -/
def passCheap (s : State) (p : Nat) (id : W64) (i : Nat) : State :=
  match s.findPlan p id, s.findInv p id with
  | some l, some v =>
    match l.active.cheaps[i]? with
    | none => s
    | some c =>
      let copies := c.checkpoint && l.active.hasCheckpoints
      match (if copies then s.liveMarked l c else none) with
      | some x => s.endMarked p id x
      | none =>
        let s1 := if copies then s.saveCheckpoint p l c v.flow else s
        let s2 := s1.updInv p id fun v =>
          { v with cheap := i, passed := s.time, ckpt := if c.checkpoint then some i else v.ckpt
                   portable := if c.portable then some i else v.portable }
        (s2.caughtUp p id).releaseAll p
  | _, _ => s

/-- An invocation starts: its tiles take its configuration and cheap point 0 passes (R46, R310). -/
def startInvocation (s : State) (p : Nat) (l : Loaded) (slot : Nat) (attend : Bool) (lanes : List Lane) : State :=
  let v : Invocation :=
    { planId := l.plan.planId, slot := slot, attend := attend, start := s.time, resumed := s.time, cheap := 0, passed := s.time, behind := none
      ckpt := none, portable := none, merged := 0, stop := .none, stopTime := 0, stopped := false, paused := false
      faulted := false, replayed := false, corrected := false, lanes := lanes, flow := Flow.none }
  let s1 := s.updPlan p l.plan.planId fun x => { x with fetched := [] }
  (((s1.runOn p l.plan.planId l.place).updPart p fun x => { x with invs := x.invs ++ [v] })).passCheap p l.plan.planId 0

/-! ### Steps of stream groups that a plan runs -/

/-- Groups that plan `id` of partition p serves. -/
def planGroups (s : State) (p : Nat) (id : W64) : List Nat :=
  (List.range 64).filter fun g => s.rdn 0x5100 (g + 1) = p && s.rd 0x5102 (g + 1) = id

/-- The chunks of every step of a group in flight end with a status; the steps are gone. -/
def failSteps (s : State) (p g status : Nat) : State :=
  let lanes := ((s.group g).steps.flatMap Step.lanes).map Prod.snd
  let s1 := s.updGroup g fun x => { x with steps := [] }
  lanes.foldl (fun s n => s.endChunks p n (fun c => match c.phase with | .inStep _ => true | _ => false) status) s1

/-- Every request that a plan's invocation or steps serve ends with a status. -/
def failPlan (s : State) (p : Nat) (id : W64) (status : Nat) : State :=
  (s.planGroups p id).foldl (fun s g => s.failSteps p g status) (s.endInvocation p id status)

/-! ### What a part of an invocation runs as -/

/-- The function that issues the host accesses of a work. -/
def workFn (p : Nat) (w : Work) : Nat := if w.mirror then 0 else p + 1

def runCtx (s : State) (p : Nat) (l : Loaded) (v : Invocation) : RunCtx :=
  { part := p, planId := l.plan.planId, plan := l.active, place := l.place, kind := l.activeKind, params := l.activeParams
    fn := match s.findWork p v.slot with | some w => workFn p w | none => p + 1
    laneBase := 0, berthBytes := 1, lanes := [], seqLanes := v.lanes, roost := false
    blank := s.blankOf (p * 64 + v.slot), fetched := l.fetched, flow := v.flow }

/-- The flow with which a run of the plan from its start passes cheap point `i`: counters, marks and ring halves follow the schedule alone, so it is that of a run that nothing stops (DESIGN CHOICE, log entry 78). -/
def flowAt (s : State) (p : Nat) (l : Loaded) (v : Invocation) (i : Nat) : Flow :=
  if i = 0 then Flow.none
  else
    let bare := (s.updMem fun m => { m with marks := [], poisonTile := [], poisonState := [], poisonBonded := [] })
    let t := { bare with bedrock := { bare.bedrock with lost := [] }, link := { bare.link with bme := 0 :: (p + 1) :: bare.link.bme } }
    let first := l.active.wBase / 65536
    let c := { t.runCtx p l v with
      fetched := (List.range (l.active.wBytes / 65536 + 2)).map (first + ·), flow := Flow.none }
    (Run.part c 0 (some i) t).flow

/-! ### Replay and the degraded variant (R49, R359, R360) -/

/-- The restore point of an invocation on the full plan (R359). -/
def restorePoint (l : Loaded) (v : Invocation) : Option Nat :=
  match v.ckpt with
  | some i => some i
  | none => if l.active.inputsPreserved then some 0 else none

/-- The invocation of plan `id` runs again from point `i`. -/
def replayFrom (s : State) (p : Nat) (id : W64) (l : Loaded) (i : Nat) (fromCkpt : Bool) : State :=
  let s0 := l.place.foldl (fun s t => (s.zeroMarked t).setHalves t { s.halves t with running := some (p, id) }) s
  let s1 := if fromCkpt then s0.loadLive l l.ckpt else s0
  let s2 := s1.updInv p id fun v =>
    { v with cheap := i, passed := s1.time, replayed := true, faulted := false, stopped := false, paused := false
             flow := if fromCkpt then l.ckptFlow else s1.flowAt p l v i }
  ((s2.bump32 0x9003 7 1).raise 0x9001 6).caughtUp p id

/-- It will run again from point `i` once the tiles of its variant are free: until then it waits as a stopped invocation does (R46, R49). -/
def replayLater (s : State) (p : Nat) (id : W64) (l : Loaded) (i : Nat) : State :=
  let s1 := (s.updPlan p id fun x => { x with saved := [] }).updInv p id fun v =>
    { v with cheap := i, replayed := true, faulted := false, stopped := true, paused := false, flow := s.flowAt p l v i }
  (s1.bump32 0x9003 7 1).raise 0x9001 6

/-- Every step in flight of the plan's groups replays from its start, with states copied again from the swap slots (Table 6-11). -/
def replaySteps (s : State) (p : Nat) (id : W64) : State :=
  (s.planGroups p id).foldl (fun s g =>
    if (s.group g).steps.isEmpty then s
    else (s.updGroup g fun x => { x with steps := x.steps.map fun t => { t with replayed := true } }).raise 0x9001 6) s

/-- After a substitution: the failed plan restores its restore point and replays, or ends with TILE_LOST (R359). -/
def replayPlan (s : State) (p : Nat) (id : W64) : State :=
  match s.findPlan p id with
  | none => s
  | some l =>
    let s1 := match s.findInv p id with
      | none => s
      | some v =>
        match restorePoint l v with
        | some i => s.replayFrom p id l i v.ckpt.isSome
        | none => s.endInvocation p id 0x30
    s1.replaySteps p id

/-- R49 for one plan that used the lost tile. -/
def fallBack (s : State) (p : Nat) (id : W64) : State :=
  match s.findPlan p id with
  | none => s
  | some l =>
    let lost (s : State) : State :=
      ((s.failPlan p id 0x30).dropConfig p id).updPlan p id fun x => { x with place := [] }
    let use (pl : Plan) (pt : List Nat) (i : Nat) : State :=
      let s1 := (s.dropConfig p id).updPlan p id fun x => { x with onVariant := true, place := pt }
      let s2 := (if l.onVariant then s1 else s1.raise 0x3001 3).stage p id pt
      let l1 := { l with onVariant := true, place := pt, variant := some pl }
      let s3 := if (s2.findInv p id).isNone then s2
        else if pt.all fun t => s2.runningOn t = some (p, id) then s2.replayFrom p id l1 i false
        else s2.replayLater p id l1 i
      s3.replaySteps p id
    match l.variant with
    | none => lost s
    | some pl =>
      match s.placement p pl with
      | none => lost s
      | some pt =>
        match s.findInv p id with
        | none => use pl pt 0
        | some v =>
          match v.portable with
          | some i => use pl pt i
          | none => if l.plan.inputsPreserved then use pl pt 0 else lost s

/-- The plans whose placement uses logical tile `n`, with their partition. -/
def plansOn (s : State) (n : Nat) : List (Nat × W64) :=
  s.partKeys.flatMap fun p =>
    ((s.part p).plans.filter fun l => l.place.contains n).map fun l => (p, l.plan.planId)

/-- Requests of plans on logical tile `n` that a fault of the tile makes replay. -/
def requestsOn (s : State) (n : Nat) : Nat :=
  ((s.plansOn n).map fun x =>
    ((s.part x.1).invs.filter fun v => v.planId = x.2).length +
    ((s.planGroups x.1 x.2).flatMap fun g => (s.group g).steps.flatMap Step.lanes).length).foldl (· + ·) 0

end State

end Sys2Proof.Machine
end

