-- ==== Sys2Proof/Machine/Bedrock.lean ====
section
/-! DEFINITION. Bedrock: the wheel and its placement, the read-retry ladder, lost pages, and the upkeep of the flash (R123 to R145). -/

namespace Sys2Proof.Machine

/-! ### The placement of slots (R127) -/

/-- The first free position at or after `t`, wrapping; `fuel` bounds the search. -/
def freeFrom (w : List Nat) : Nat → Nat → Nat
  | 0, t => t % 512
  | k + 1, t => if w[t % 512]? = some 128 then t % 512 else freeFrom w k (t + 1)

/-- Place `k` slots of partition `p`. -/
def placeSlots (w : List Nat) (p k : Nat) : List Nat :=
  let f := freeFrom w 512 0
  (List.range k).foldl (fun w j => w.set (freeFrom w 512 ((f + j * 512 / k) % 512)) p) w

/-- The wheel for the given number of slots of each partition, partition 0 first. -/
def placeWheel (slots : List Nat) : List Nat :=
  let order := (slots.zipIdx.filter fun (x : Nat × Nat) => 0 < x.1).mergeSort
    fun a b => b.1 < a.1 || (a.1 = b.1 && a.2 ≤ b.2)
  order.foldl (fun w x => placeSlots w x.2 x.1) (List.replicate 512 128)

/-- Largest distance between consecutive positions of partition `p`, wrapping; 0 without a slot. -/
def slotGap (w : List Nat) (p : Nat) : Nat :=
  let own := (w.zipIdx.filter fun (x : Nat × Nat) => x.1 = p).map Prod.snd
  match own with
  | [] => 0
  | a :: _ => ((own.zip (own.tail ++ [a + 512])).map fun x => x.2 - x.1).foldl max 0

namespace State

def updBedrock (s : State) (f : Bedrock → Bedrock) : State := { s with bedrock := f s.bedrock }

/-- The wheel runs: bedrock is powered and Virkin serves (R141). -/
def wheelRuns (s : State) : Bool := s.serves && 3 ≤ s.power.state

/-- The flash translation layer is not restarting (Table 15-11). -/
def ftlRuns (s : State) : Bool := !s.link.restarting.contains 3

/-- A commit that changes `BedrockSlots` places the slots anew and writes `SlotMaxGap` (R127). -/
def placeBedrock (s : State) : State :=
  let w := placeWheel ((List.range 128).map fun p => s.rdn 0x4410 (p + 1))
  let s1 := (List.range 128).foldl (fun s p => s.wrn 0x4411 (p + 1) (slotGap w p)) s
  s1.updBedrock fun b => { b with nextWheel := some w }

/-- A new round starts under the placement of the last commit (R127). -/
def applyPlacement (s : State) : State :=
  match s.bedrock.nextWheel with
  | none => s
  | some w => s.updBedrock fun b => { b with wheel := w, nextWheel := none, position := 0 }

/-- Maintenance slots and the install rate in MB/s (R126, R149). -/
def maintenanceSlots (s : State) : Nat := (s.bedrock.wheel.filter (· = 128)).length
def installRate (s : State) : Nat := min 4000 ((s.maintenanceSlots - 16) * 5293 / 100)

/-! ### Dies and blocks -/

def dies (s : State) : Nat := if s.fuse.b4 then 80 else 40
def blockCount (s : State) : Nat := s.dies * 2480

/-- The die has failed: nothing is read from it, or written to it (R143). -/
def dieBad (s : State) (d : Nat) : Bool := 2 ≤ s.rdn 0x4404 (d + 1)

def block (s : State) (b : Nat) : Block := NMap.get (fun _ => ⟨0, 0, 0, 0, false⟩) s.bedrock.blocks b
def setBlock (s : State) (b : Nat) (x : Block) : State :=
  s.updBedrock fun k => { k with blocks := NMap.set (fun _ => ⟨0, 0, 0, 0, false⟩) k.blocks b x }

/-- Slot reads of a block since it was written (R136, R145). -/
def blockReads (s : State) (b : Nat) : Nat := (s.block b).reads + (s.bedrock.readBase - (s.block b).base)
/-- Equivalent age of a block, in units of 1/60 hour times 2^−32 (R137). -/
def blockAge (s : State) (b : Nat) : Nat := s.bedrock.ageClock - (s.block b).written
/-- One hour of equivalent age in the same units. -/
def ageHour : Nat := 60 * 4294967296

/-- A slot reads blocks: each counts it, and one that reaches 1.5 times the threshold sets DISTURB_BACKLOG (R136). -/
def countReads (s : State) (bs : List Nat) : State :=
  bs.foldl (fun s b =>
    let x := s.block b
    let s1 := s.setBlock b { x with reads := x.reads + 1 }
    let t := 3 * s.rdn 0x4402 1
    if 2 * s.blockReads b < t && t ≤ 2 * s1.blockReads b then s1.raise 0x4401 6 else s1) s

/-- Mean program-erase cycles of a block (`4403:05`). -/
def averagePe (s : State) : Nat :=
  ((s.bedrock.blocks.map fun x => x.2.pe).foldl (· + ·) 0) / s.blockCount
def maxPe (s : State) : Nat := (s.bedrock.blocks.map fun x => x.2.pe).foldl max 0

/-- A block is erased and written: its age and its read counter return to zero (R136, R137), and WEAR_LIMIT follows `AveragePe` (R142). -/
def rewriteBlock (s : State) (b : Nat) : State :=
  let x := s.block b
  let s1 := s.setBlock b { x with reads := 0, written := s.bedrock.ageClock, base := s.bedrock.readBase, pe := x.pe + 1 }
  if s.averagePe < 2700 && 2700 ≤ s1.averagePe then s1.raise 0x4401 11 else s1

/-- A die takes further chunks: it has not failed, and its 62.5 GB are not full of them. -/
def dieRoom (s : State) (d : Nat) : Bool :=
  !s.dieBad d && ((s.bedrock.library.flatMap StoredPage.chunks).filter fun b => b / 2480 = d).length < 15258789

/-- A die for a chunk of a stripe whose other chunks lie on the dies `used`: one with room on channel `ch`, when it must lie there, or else one with room, or else any other die. Die d lies on internal channel d mod 8 (DESIGN CHOICE, log entry 80). -/
def pickDie (s : State) (used : List Nat) (ch : Option Nat) (r : Nat) : Nat :=
  let others := (List.range s.dies).filter fun d => !used.contains d
  let room := others.filter s.dieRoom
  let own := room.filter fun d => ch.all fun c => d % 8 = c
  let l := if !own.isEmpty then own else if !room.isEmpty then room else others
  (l[r % l.length]?).getD 0

/-- The first block of die `d`, from block `k` on and wrapping, that is not retired and not among those to avoid. -/
def pickBlock (s : State) (avoid : List Nat) (d : Nat) : Nat → Nat → Nat
  | 0, k => d * 2480 + k % 2480
  | n + 1, k =>
    let b := d * 2480 + k % 2480
    if (s.block b).retired || avoid.contains b then pickBlock s avoid d n (k + 1) else b

/-- The blocks of a new stripe (R123): 17 different dies, two data chunks on each internal channel, none in a block to avoid. -/
def newPlaces (s : State) (avoid : List Nat) (n : Nat) : List Nat :=
  (List.range 17).foldl (fun l i =>
    let d := s.pickDie (l.map (· / 2480)) (if i < 16 then some (i / 2) else none) (Config.stripePick n (2 * i))
    l ++ [s.pickBlock avoid d 2480 (Config.stripePick n (2 * i + 1))]) []

/-- Change a stored page. -/
def updPage (s : State) (id : PageId) (f : StoredPage → StoredPage) : State :=
  s.updBedrock fun b => { b with library := b.library.map fun x => if x.id = id then f x else x }

/-- The blocks of a page's chunks. -/
def placesOf (s : State) (id : PageId) : List Nat := ((s.storedPage id).map StoredPage.chunks).getD []

/-- The block of chunk `i` of a stripe, and its die. -/
def chunkBlock (st : List Nat) (i : Nat) : Nat := (st[i]?).getD 0
def chunkDie (st : List Nat) (i : Nat) : Nat := chunkBlock st i / 2480

/-- A page is written as a new stripe, outside the blocks to avoid. -/
def restripe (s : State) (avoid : List Nat) (id : PageId) : State :=
  let (n, s1) := s.draw
  let places := s1.newPlaces avoid n
  s1.updPage id fun x => { x with chunks := places }

/-- Every page with a chunk in block `b` moves to a new stripe, outside that block. -/
def moveBlock (s : State) (b : Nat) : State :=
  (s.bedrock.library.filter fun x => x.chunks.contains b).foldl (fun s x => s.restripe [b] x.id) s

/-- Chunk `i` of a page is rebuilt onto another die with room; without one the stripe stays without redundancy (R143). -/
def moveChunk (s : State) (id : PageId) (i : Nat) : State :=
  let (n, s1) := s.draw
  let st := s1.placesOf id
  let d := s1.pickDie (st.map (· / 2480)) (if i < 16 then some (i / 2) else none) (Config.stripePick n 0)
  if s1.dieRoom d then
    let b := s1.pickBlock [] d 2480 (Config.stripePick n 1)
    s1.updPage id fun x => { x with chunks := x.chunks.set i b }
  else s1

/-- The chunks of failed die `d`, by page and number. -/
def chunksOn (s : State) (d : Nat) : List (PageId × Nat) :=
  s.bedrock.library.flatMap fun x => ((List.range 17).filter fun i => chunkDie x.chunks i = d).map fun i => (x.id, i)

/-- Queue upkeep that is not queued yet. -/
def queueUpkeep (s : State) (k : UpkeepKind) (u : Nat) : State :=
  if s.bedrock.upkeep.contains ⟨k, u⟩ then s else s.updBedrock fun b => { b with upkeep := b.upkeep ++ [⟨k, u⟩] }

def dropUpkeep (s : State) (u : Upkeep) : State :=
  s.updBedrock fun b => { b with upkeep := b.upkeep.erase u }

/-! ### Lost pages (R133, R134) -/

def updRead (s : State) (p : Nat) (id : PageId) (f : PageRead → PageRead) : State :=
  s.updBedrock fun b => { b with reads := b.reads.map fun r => if r.part = p && r.id = id then f r else r }

def dropRead (s : State) (p : Nat) (id : PageId) : State :=
  s.updBedrock fun b => { b with reads := b.reads.filter fun r => r.part ≠ p || r.id ≠ id }

def findRead (s : State) (p : Nat) (id : PageId) : Option PageRead :=
  s.bedrock.reads.find? fun r => r.part = p && r.id = id

/-- Every read of partition p that waits for weight page `n` ends with a status, and its migration is gone. -/
def endWaits (s : State) (p n status : Nat) : State :=
  let ws := ((s.part p).migrations.filter fun m => m.page = n).flatMap Migration.waiters
  let s1 := s.updPart p fun x =>
    { x with migrations := x.migrations.filter fun m => m.page ≠ n
             frames := x.frames.filter fun y => match y.2 with | .page k _ => k ≠ n | .filling k => k ≠ n | _ => true }
  ws.foldl (fun s w => s.failPlan p w.planId status) s1

/-- The loads of partition p that read image page `id` end with WEIGHT_LOST, at step 7 when it is the variant's; that of a wake stage is left to the stage (R43, R134). -/
def failLoads (s : State) (id : PageId) (p : Nat) : State :=
  ((s.part p).loads.filter fun j => j.left.contains id).foldl (fun s j =>
    if 64 ≤ j.slot then
      s.updPart p fun x => { x with loads := x.loads.map fun k => if k.slot = j.slot then { k with left := [], lost := true } else k }
    else
      let s1 := s.updPart p fun x =>
        { x with loads := x.loads.filter fun k => k.slot ≠ j.slot, frames := dropLoads [j] x.frames }
      (if j.variant then s1.raise 0x3001 4 else s1).endWork p j.slot 0x21 (if j.variant then 7 else 1) 0 false) s

/-- The device marks a page lost (R134). A model under install turns DEGRADED when its install ends. -/
def markLost (s : State) (id : PageId) : State :=
  if s.isLost id then s
  else
    let m := s.model id.model
    let s1 := s.updBedrock fun b =>
      { b with lost := b.lost ++ [⟨id, s.time⟩], reads := b.reads.filter fun r => r.id ≠ id }
    let s2 := if m.state = 2 then s1.setModel id.model { m with state := 3 } else s1
    let s3 := ((s2.raise 0x4401 1).raise 0x4401 2).contained
    if id.image then s3.partKeys.foldl (failLoads · id) s3 else s3.partKeys.foldl (fun s p => s.endWaits p id.page 0x21) s3

/-- A weight page's tag fails: the page is lost, and PAGE_TAG is raised (R133, R469). -/
def tagLost (s : State) (id : PageId) : State :=
  (s.markLost id).security 4 none (BitVec.ofNat 64 (id.model * 4294967296 + b2n id.image * 2147483648 + id.page))

/-! ### A page read (R128 to R133) -/

/-- A page read begins: a chunk on a failed die gives way to the parity chunk (R143). -/
def beginRead (s : State) (p : Nat) (id : PageId) : State :=
  let st := s.placesOf id
  let bad := (List.range 16).filter fun i => s.dieBad (chunkDie st i)
  let good := (List.range 16).filter fun i => !bad.contains i
  if 1 < bad.length || (!bad.isEmpty && s.dieBad (chunkDie st 16)) then s.markLost id
  else
    let r : PageRead :=
      { part := p, id := id, step := 0, left := if bad.isEmpty then good else good ++ [16]
        parityFor := bad.head?, standIn := !bad.isEmpty, inSlot := false, rebuilt := false
        programming := false, ready := false, since := none }
    s.updBedrock fun b => { b with reads := b.reads ++ [r] }

/-- A slot reads the chunks that a page read still needs (R129, R136). -/
def serveRead (s : State) (p : Nat) (id : PageId) : State :=
  match s.findRead p id with
  | none => s
  | some r =>
    let s1 := s.updRead p id fun r => { r with inSlot := true }
    let s2 := (s1.bump64 0x4412 (p + 1) 1).countReads (r.left.map (chunkBlock (s.placesOf id)))
    if 0 < r.step || (r.parityFor.isSome && !r.standIn) then s2.bump64 0x4403 7 1 else s2

/-- A demand migration or prefetch begins its read in this slot. -/
def startRead (s : State) (p n f : Nat) : State :=
  match s.pageModel n with
  | none => s
  | some id =>
    let s1 := (s.updPart p fun x =>
      { x with migrations := x.migrations.map fun m => if m.page = n then { m with reading := true, frame := some f } else m }).setFrame p f (.filling n)
    (s1.beginRead p id).serveRead p id

/-- The demand migration that was asked for first, of those that no slot has read. -/
def oldestDemand (s : State) (p : Nat) : Option Migration :=
  ((s.part p).migrations.filter fun m => m.demand && !m.reading).foldl (fun (a : Option Migration) m => match a with
    | none => some m
    | some x => if m.asked < x.asked then some m else a) none

/-- The next image page that a load of partition p wants and nothing reads yet. -/
def nextImage (s : State) (p : Nat) : Option PageId :=
  (s.part p).loads.findSome? fun j => j.left.find? fun id => (s.findRead p id).isNone

/-- A slot of partition p (R129): a page already begun, then demand migrations, the oldest first, then the image pages of plan loads, then prefetches, of which the head waits for a frame. -/
def servePart (s : State) (p : Nat) : State :=
  match s.bedrock.reads.find? fun r => r.part = p && !r.inSlot && !r.ready && !r.rebuilt with
  | some r => s.serveRead p r.id
  | none =>
    match s.oldestDemand p with
    | some m => s.startRead p m.page (m.frame.getD 0)
    | none =>
      match s.nextImage p with
      | some id => (s.beginRead p id).serveRead p id
      | none =>
        match (s.part p).migrations.find? fun m => !m.reading with
        | none => s
        | some m =>
          match m.frame.orElse fun _ => s.victim p with
          | none => s
          | some f => s.startRead p m.page f

/-- The upkeep that a maintenance slot serves first (Table 5-5, R140, R145). -/
def nextUpkeep (s : State) : Option Upkeep :=
  let pick (k : UpkeepKind) : Option Upkeep := s.bedrock.upkeep.find? fun u => u.kind = k
  (pick .relocate).orElse fun _ => (pick .dieRebuild).orElse fun _ => (pick .refreshNow).orElse fun _ =>
    if s.bedrock.patrolFirst then none else (pick .refresh).orElse fun _ => pick .reclaim

/-- A maintenance slot: a rebuilt page's new stripe first; otherwise the first upkeep, whose work ends with this slot when `done` says so. -/
def serveUpkeep (s : State) (done : Bool) : State :=
  match s.bedrock.reads.find? fun r => r.rebuilt && !r.programming && !r.ready with
  | some r => s.updRead r.part r.id fun r => { r with programming := true }
  | none =>
    match s.nextUpkeep with
    | none => s
    | some u =>
      match u.kind with
      | .relocate | .refresh | .refreshNow =>
        if done then ((s.moveBlock u.unit).rewriteBlock u.unit).dropUpkeep u else s
      | .reclaim =>
        if !done then s
        else if s.bedrock.library.any fun x => x.chunks.contains u.unit then s.dropUpkeep u
        else (s.rewriteBlock u.unit).dropUpkeep u
      | .dieRebuild =>
        -- one chunk a slot, and what is left with the last
        ((s.chunksOn u.unit).take (if done then (s.chunksOn u.unit).length else 1)).foldl (fun s x => s.moveChunk x.1 x.2) s

def wheelSlot (s : State) (done : Bool) : State :=
  if !s.wheelRuns then s
  else
    let s0 := if s.bedrock.position = 0 then s.applyPlacement else s
    let owner := (s0.bedrock.wheel[s0.bedrock.position]?).getD 128
    let s1 := s0.updBedrock fun b => { b with position := (b.position + 1) % 512 }
    if !s.ftlRuns then s1
    else if owner < 128 then s1.servePart owner
    else s1.serveUpkeep done

/-- An image page is there for the loads of partition p that want it (R43 step 1). -/
def imageRead (s : State) (p : Nat) (id : PageId) (rebuilt : Bool) : State :=
  (s.dropRead p id).updPart p fun x =>
    { x with loads := x.loads.map fun j =>
        if j.left.contains id then { j with left := j.left.erase id, corrected := j.corrected || rebuilt } else j }

/-- All chunks of a page are there: the page is rebuilt when parity stands for an unreadable chunk, and a weight page's tag is checked, which the read takes from data chunk 0 or from the parity chunk, the two copies being one (R123, R131, R133). `tagOk` is whether the decoded bytes are those that were written. -/
def pageDecoded (s : State) (r : PageRead) (tagOk : Bool) : State :=
  if !r.id.image && (!tagOk || (s.pagePlain r.id).isNone) then s.tagLost r.id
  else if r.parityFor.isSome && !r.standIn then
    ((s.updRead r.part r.id fun r => { r with inSlot := false, left := [], rebuilt := true }).raise 0x4401 0).corrected
  else if r.id.image then s.imageRead r.part r.id false
  else s.updRead r.part r.id fun r => { r with inSlot := false, left := [], ready := true }

/-- The new stripe of a rebuilt page is programmed: the block of the unreadable chunk is queued for relocation, and the migration or load can go on (R132). -/
def rebuiltProgrammed (s : State) (p : Nat) (id : PageId) : State :=
  match s.findRead p id with
  | none => s
  | some r =>
    if !r.programming then s
    else
      let old := chunkBlock (s.placesOf id) (r.parityFor.getD 0)
      let s1 := (s.queueUpkeep .relocate old).restripe [old] id
      if id.image then s1.imageRead p id true
      else if (s.part p).migrations.any fun m => m.page = id.page then
        s1.updRead p id fun r => { r with programming := false, ready := true }
      else s1.dropRead p id

/-! ### Upkeep (R136 to R145) -/

def relocateThreshold (s : State) (b : Nat) : State :=
  if s.alive && b < s.blockCount && !(s.block b).retired && s.rdn 0x4402 1 ≤ s.blockReads b then
    s.queueUpkeep .relocate b else s

/-- 2^(j/8) in units of 2^−32, rounded down. -/
def rootTwo (j : Nat) : Nat :=
  ([4294967296, 4683695047, 5107605667, 5569883475, 6074000999, 6623745058, 7223245205, 7877004751][j]?).getD 0

/-- The age of one minute at T °C, in units of 1/60 hour times 2^−32 (R137). -/
def ageOf (t : Int) : Nat :=
  let x := t - 95
  let q := x / 8
  let c := rootTwo (x % 8).toNat
  if 0 ≤ q then c * 2 ^ q.toNat else c / 2 ^ (-q).toNat

/-- One minute of equivalent age for every block (R137). -/
def ageTick (s : State) (t : Int) : State :=
  if !s.alive then s
  else s.updBedrock fun b => { b with ageClock := b.ageClock + (if 3 ≤ s.power.state then ageOf t else 4294967296) }

/-- `4403:0A`: the largest equivalent age in hours. -/
def oldestAge (s : State) : Nat :=
  if s.bedrock.blocks.length < s.blockCount then s.bedrock.ageClock / ageHour
  else ((s.bedrock.blocks.map fun x => s.blockAge x.1).foldl max 0) / ageHour

/-- A block's refresh is due (R138, R141). -/
def refreshDue (s : State) (b : Nat) : State :=
  if s.alive && b < s.blockCount && !(s.block b).retired && s.rdn 0x4402 2 * ageHour ≤ s.blockAge b then
    let s1 := if s.power.state < 3 then s.raise 0x4401 7 else s
    s1.queueUpkeep .refresh b
  else s

/-- The full patrol pass ends once it has read every block that is not retired (R140, R145). -/
def endPass (s : State) : State :=
  let gone := (s.bedrock.blocks.filter fun x => x.2.retired).length
  if s.bedrock.patrolFirst && s.blockCount ≤ s.bedrock.patrolSeen.length + gone then
    s.updBedrock fun k => { k with patrolFirst := false, patrolOff := false, patrolSeen := [] }
  else s

/-- A patrol read of one page of a block (R138, R140, R145). -/
def patrolRead (s : State) (b errs step : Nat) : State :=
  if !s.wheelRuns || !s.ftlRuns || s.blockCount ≤ b || (s.block b).retired then s
  else
    let s1 := s.countReads [b]
    let s2 := if s.bedrock.patrolFirst && s.bedrock.patrolOff && 1 ≤ step then s1.queueUpkeep .refreshNow b
      else if s.rdn 0x4402 3 < errs then s1.queueUpkeep .refresh b else s1
    if !s.bedrock.patrolFirst then s2
    else (s2.updBedrock fun k => { k with patrolSeen := NMap.set (fun _ => false) k.patrolSeen b true }).endPass

/-- `4403:03`: the spare blocks left. -/
def spareBlocks (s : State) : Nat := s.bedrock.firstSpares - s.rdn 0x4403 4

/-- A block is retired after its pages have moved (R142). -/
def retireBlock (s : State) (b : Nat) : State :=
  if !s.wheelRuns || s.blockCount ≤ b || (s.block b).retired then s
  else
    let s1 := s.moveBlock b
    let s2 := (s1.setBlock b { s1.block b with retired := true }).bump32 0x4403 4 1
    let s3 := (s2.updBedrock fun k =>
      { k with upkeep := k.upkeep.filter fun u => u.kind = .dieRebuild || u.unit ≠ b
               patrolSeen := NMap.set (fun _ => false) k.patrolSeen b false }).endPass
    let low (s : State) : Bool := s.spareBlocks * 100 < s.rdn 0x4402 4 * s.bedrock.firstSpares
    if !low s && low s3 then s3.raise 0x4401 5 else s3

/-- A page read under way when die `d` fails: the parity chunk takes the place of a chunk on the die, or the page is lost (R133, R143). -/
def readOnDie (s : State) (d : Nat) (r : PageRead) : State :=
  let st := s.placesOf r.id
  match r.left.filter fun i => chunkDie st i = d with
  | [] => s
  | c :: more =>
    if c = 16 || !more.isEmpty || r.parityFor.isSome || s.dieBad (chunkDie st 16) then s.markLost r.id
    else s.updRead r.part r.id fun r =>
      { r with left := r.left.filter (· ≠ c) ++ [16], parityFor := some c, standIn := true }

/-- A die is declared failed (R143, R144): NAND_DIE opens a record. -/
def failDie (s : State) (d : Nat) : State :=
  if s.dies ≤ d || 2 ≤ s.rdn 0x4404 (d + 1) then s
  else
    let before := (List.range s.dies).filter s.dieBad
    let failedBefore := before.length
    let s1 := ((s.wrn 0x4404 (d + 1) 2).raise 0x4401 3).queueUpkeep .dieRebuild d
    let s2 := s1.updBedrock fun b => { b with rebuilding := b.rebuilding ++ [d] }
    let s3 := if 2 ≤ failedBefore then
        let (n, t) := s2.draw
        t.updBedrock fun b => { b with shrunk := b.shrunk + Config.freeNat n }
      else s2
    let both := s3.bedrock.library.filter fun x =>
      let ds := x.chunks.map (· / 2480)
      ds.contains d && ds.any fun k => before.contains k
    let s4 := both.foldl (fun s x => s.markLost x.id) s3
    let s5 := (s4.bedrock.reads.filter fun r => !r.rebuilt && !r.ready).foldl (fun s r => s.readOnDie d r) s4
    s5.openFault 0x60 2 7 d 0 0 0

/-- Chunks of a page failed the whole ladder: a die on which that has befallen 8 different blocks within 24 hours is declared failed (R143). -/
def ladderFailed (s : State) (bs : List Nat) : State :=
  let all := (s.bedrock.ladderFails.filter fun x => s.time < x.2 + 86400000000) ++ bs.map fun b => (b, s.time)
  let s1 := s.updBedrock fun k => { k with ladderFails := all }
  ((bs.map (· / 2480)).eraseDups).foldl (fun s d =>
    if 8 ≤ ((all.filter fun x => x.1 / 2480 = d).map Prod.fst).eraseDups.length then s.failDie d else s) s1

/-- The decode results of a slot's chunks (R130, R131, R133). -/
def chunkResult (s : State) (p : Nat) (id : PageId) (failed : List Nat) (tagOk : Bool) : State :=
  match s.findRead p id with
  | none => s
  | some r =>
    if !r.inSlot then s
    else
      let bad := r.left.filter failed.contains
      let st := s.placesOf id
      let s0 := if r.step = 6 then s.bump64 0x4403 8 r.left.length else s
      if bad.isEmpty then s0.pageDecoded r tagOk
      else
        let since := some (r.since.getD s.time)
        if r.step < 6 then
          s0.updRead p id fun r => { r with step := r.step + 1, left := bad, inSlot := false, since := since }
        else
          -- the read is settled before a die that now fails touches it
          let next := match bad, r.parityFor with
          | [c], none =>
            if s.dieBad (chunkDie st 16) then s0.markLost id
            else s0.updRead p id fun r =>
              { r with step := 0, left := [16], parityFor := some c, inSlot := false, since := since }
          | _, _ => s0.markLost id
          next.ladderFailed (bad.map (chunkBlock st))

/-- The rebuild of a failed die ends: every chunk of it that another die can take has moved (R143). -/
def dieRebuilt (s : State) (d : Nat) : State :=
  if !s.wheelRuns || !s.bedrock.rebuilding.contains d then s
  else
    let s0 := (s.chunksOn d).foldl (fun s x => s.moveChunk x.1 x.2) s
    let s1 := (s0.wrn 0x4404 (d + 1) 3).raise 0x4401 4
    (s1.updBedrock fun b => { b with rebuilding := b.rebuilding.filter (· ≠ d) }).dropUpkeep ⟨.dieRebuild, d⟩

/-- Read counters and ages go to bedrock metadata (R145). -/
def writeJournal (s : State) : State :=
  s.updBedrock fun b => { b with journal := (b.blocks, b.ageClock, b.readBase) }

/-- The read counter and age of every block as the journal holds them; its cycles and whether it is retired stay (R145). -/
def journaled (now old : NMap Block) : NMap Block :=
  let d : Nat → Block := fun _ => ⟨0, 0, 0, 0, false⟩
  (NMap.keys now ++ NMap.keys old).foldl (fun m k =>
    let x := NMap.get d now k
    let j := NMap.get d old k
    NMap.set d m k { j with pe := x.pe, retired := x.retired }) now

/-- A start after an unclean stop or after OFF restores the last journal and raises every read counter by an eighth of the threshold (R145), which can bring one to 1.5 times it (R136). -/
def restoreJournal (s : State) (off : Bool) : State :=
  let far (s : State) (b : Nat) : Bool := 3 * s.rdn 0x4402 1 ≤ 2 * s.blockReads b
  let s0 := s.updBedrock fun b =>
    { b with blocks := journaled b.blocks b.journal.1, ageClock := b.journal.2.1, readBase := b.journal.2.2 }
  let s1 := s0.updBedrock fun b =>
    { b with readBase := b.readBase + s.rdn 0x4402 1 / 8, patrolFirst := true, patrolOff := off, patrolSeen := [] }
  -- the blocks that have an entry, and one that stands for all others
  let some_ := NMap.keys s1.bedrock.blocks ++ ((List.range s.blockCount).find? fun b => (NMap.find b s1.bedrock.blocks).isNone).toList
  if some_.any fun b => !(s1.block b).retired && far s1 b && !far s0 b then s1.raise 0x4401 6 else s1

/-- `4403:01` and `4403:02`: bytes of pages and plan images of installed models, and the usable library left. -/
def installedBytes (s : State) : Nat :=
  ((s.bedrock.models.filter fun x => 2 ≤ x.2.state).map fun x => x.2.bytes + x.2.imagePages * 65536).foldl (· + ·) 0
def usableBytes (s : State) : Nat := (if s.fuse.b4 then 67108864 else 33554432) * 65536
def freeBytes (s : State) : Nat := s.usableBytes - s.bedrock.shrunk -
  ((s.bedrock.models.filter fun x => 1 ≤ x.2.state).map fun x => x.2.bytes + x.2.imagePages * 65536).foldl (· + ·) 0

end State

/-! ### The meanings -/

def pageId (r : PageRef) : PageId := ⟨r.model.val, r.image, r.page⟩

def execSlotPlacementApply (s : State) : Host.Outcome State Fault Refusal :=
  .next (if s.wheelRuns then s.applyPlacement else s)

def execWheelSlot (done : Bool) (s : State) : Host.Outcome State Fault Refusal := .next (s.wheelSlot done)

def execRelocateThreshold (block : Nat) (s : State) : Host.Outcome State Fault Refusal :=
  .next (s.relocateThreshold block)

def execAgeTick (hottestDieC : Int) (s : State) : Host.Outcome State Fault Refusal := .next (s.ageTick hottestDieC)

def execRefreshDue (block : Nat) (s : State) : Host.Outcome State Fault Refusal := .next (s.refreshDue block)

def execPatrolRead (block bitErrors ladderStep : Nat) (s : State) : Host.Outcome State Fault Refusal :=
  .next (s.patrolRead block bitErrors ladderStep)

def execBlockRetire (block : Nat) (s : State) : Host.Outcome State Fault Refusal := .next (s.retireBlock block)

def execDieFailed (die : Fin 80) (s : State) : Host.Outcome State Fault Refusal :=
  .next (if s.wheelRuns then s.failDie die.val else s)

def execDieRebuildDone (die : Fin 80) (s : State) : Host.Outcome State Fault Refusal := .next (s.dieRebuilt die.val)

def execJournalWrite (s : State) : Host.Outcome State Fault Refusal :=
  .next (if s.wheelRuns then s.writeJournal else s)

end Sys2Proof.Machine
end

