-- ==== Sys2Proof/Machine/React.lean ====
section
/-! DEFINITION. The reactions to unit-fatal faults: fencing a tile and its substitution or fall-back, fencing a channel, holding a unit, the thermal trip and the loss of AVSBus (R48 to R50, R347 to R360, Table 13-4). -/

namespace Sys2Proof.Machine
namespace State

/-! ### Tiles (R48 to R50) -/

/-- The invocations of the plans on logical tile `n` hold. -/
def holdPlans (s : State) (n : Nat) : State :=
  (s.plansOn n).foldl (fun s x => s.updInv x.1 x.2 fun v => { v with faulted := true, behind := v.behind <|> some (v.cheap, v.passed) }) s

/-- A replay has started for a fault of a tile: its record says so (Table 13-3). -/
def noteReplay (before s : State) (kind unit : Nat) : State :=
  if s.rdn 0x9001 8 = before.rdn 0x9001 8 then s
  else s.updFaults fun f => { f with records := f.records.map fun r =>
    if r.handling && ((r.kind = kind && r.unit = unit) || (r.secondKind = kind && r.secondUnit = unit)) then
      { r with replayed := true } else r }

/-- The fence of physical tile `p` goes into the persistent store and its fuse bit (R23, R48). -/
def burnFence (s : State) (p : Nat) : State :=
  let add (l : List Nat) : List Nat := if l.contains p then l else l ++ [p]
  { s with persist := { s.persist with fencedTiles := add s.persist.fencedTiles }
           fuse := { s.fuse with fieldFenced := add s.fuse.fieldFenced } }

/-- Every plan on logical tile `n` falls back, or its work ends (R49). -/
def fallPlans (s : State) (n : Nat) : State :=
  (s.plansOn n).foldl (fun s x => s.fallBack x.1 x.2) s

/-- A tile is fenced in the field: recorded, and its work goes to a spare by a shift, or to the degraded variant, or ends (R48, R49). A second fault in a row waits for the shift under way (R50). -/
def fenceTile (s : State) (p : Nat) : State :=
  let y := p / 66
  let c := p % 66
  if s.fabric.fenced.contains p then s
  else
    let held := match s.logical p with
      | some n => s.holdPlans n
      | none => s
    if s.fabric.shifts.any fun h => h.row = y then
      held.updFabric fun f => { f with shifts := f.shifts.map fun h =>
        if h.row = y && !h.waiting.contains p then { h with waiting := h.waiting ++ [p] } else h }
    else
      let spare := s.canShift y c
      let s1 := ((held.updFabric fun f => { f with fenced := insertNat p f.fenced }).wrn 0x3001 8 p).bump32 0x3001 7 1
      let s2 := s1.raise 0x9001 3
      match s.logical p with
      | none =>
        let k := s2.skipsOf y
        let s3 := if k.length < 2 && !k.contains c then
            s2.updFabric fun f => { f with skips := NMap.set (fun _ => []) f.skips y (insertNat c k) }
          else s2
        (s3.burnFence p).spareFlags y
      | some n =>
        if s.rdn 0x3002 1 = 1 && spare then
          s2.updFabric fun f => { f with shifts := f.shifts ++ [⟨y, c, false, (List.range 64).map fun x => s.rdObj 0x3110 (y * 64 + x), []⟩] }
        else
          let s3 := (s2.burnFence p).spareFlags y
          if s.link.hold then s3.updFabric fun f => { f with lateFalls := f.lateFalls ++ [n] }
          else noteReplay s3 (s3.fallPlans n) 1 p

/-- Every invocation on a tile that row `y`'s shift moves has stopped (Table 2-16 step 3); a step in flight stands at a cheap point of its own. -/
def rowStopped (s : State) (y : Nat) : Bool :=
  s.partKeys.all fun p => (s.part p).invs.all fun v => v.paused || v.stopped || v.faulted ||
    match s.findPlan p v.planId with
    | some l => l.place.all fun t => t / 64 ≠ y || !s.shifting t
    | none => true

/-- Every affected tile has stopped: the shift moves their contents (Table 2-16 step 3). -/
def startShift (s : State) (y : Nat) : State :=
  if s.link.hold || !s.rowStopped y then s
  else s.updFabric fun f => { f with shifts := f.shifts.map fun h => if h.row = y then { h with moving := true } else h }

/-- Keys [lo, lo + n) of a map replaced by a copy of keys [src, src + n). -/
def copyRange {α : Type} [DecidableEq α] (d : α) (lo n : Nat) (src : Option Nat) (m : NMap α) : NMap α :=
  let m1 := clearRange lo (lo + n) m
  match src with
  | none => m1
  | some b => (m.filter fun x => b ≤ x.1 && x.1 < b + n).foldl
      (fun a x => NMap.set (fun _ => d) a (x.1 - b + lo) x.2) m1

/-- The same for bytes, over the base that the range has. -/
def copyBytes (d : Nat → Byte) (lo n : Nat) (src : Option Nat) (m : NMap Byte) : NMap Byte :=
  let m1 := clearRange lo (lo + n) m
  match src with
  | none => m1
  | some b => (m.filter fun x => b ≤ x.1 && x.1 < b + n).foldl (fun a x => NMap.set d a (x.1 - b + lo) x.2) m1

/-- Logical tile `n` takes over the physical tile one column east, which received nothing: it finds there what that tile last held. -/
def takeOver (s : State) (n : Nat) : State :=
  let src (k : Nat) : Option Nat := if n % 64 < 63 then some ((n + 1) * k) else none
  let was := if n % 64 < 63 then NMap.get (fun _ => 0) s.mem.lost (512 + n + 1) else 0
  let (d, t) := if was = 0 then (0, s) else (s.draw.1 + 1, s.draw.2)
  (t.updMem fun m => { m with lost := NMap.set (fun _ => 0) m.lost (512 + n) d }).updMem fun m =>
    { m with tile := copyBytes m.tileBase (n * 0x100000) 0x100000 (src 0x100000) m.tile
             marks := copyRange false (n * 32768) 32768 (src 32768) m.marks
             poisonTile := copyRange false (n * 131072) 131072 (src 131072) m.poisonTile }

/-- Invocations that stopped for a shift, and whose tiles no shift moves any more, go on. -/
def goOn (s : State) : State :=
  s.partKeys.foldl (fun s p =>
    let on (v : Invocation) : Invocation := match s.findPlan p v.planId with
      | some l => if l.place.any s.shifting then v else { v with paused := false, passed := if v.paused then s.time else v.passed }
      | none => v
    s.updPart p fun x => { x with invs := x.invs.map on }) s

/-- Invocations on logical tile `n` that its fault held hold no longer. -/
def freePlans (s : State) (n : Nat) : State :=
  (s.plansOn n).foldl (fun s x => s.updInv x.1 x.2 fun v => { v with faulted := false }) s

/-- The new map is in force: the fence is recorded, the failed plans replay, and faults that waited are handled (Table 2-16 steps 4 and 5, R50, R359). -/
def endShift (s : State) (y : Nat) : State :=
  match s.fabric.shifts.find? fun h => h.row = y && h.moving with
  | none => s
  | some h =>
    let p := y * 66 + h.col
    let n := (s.logical p).getD 0
    let s0 := h.waiting.foldl (fun t k => (s.logical k).elim t t.freePlans) s
    let s1 := (s0.takeOver n).updFabric fun f =>
      { f with skips := NMap.set (fun _ => []) f.skips y (insertNat h.col (s.skipsOf y))
               shifts := f.shifts.filter fun g => g.row ≠ y }
    let s2 := (((s1.zeroMarked n).burnFence p).raise 0x3001 0).spareFlags y
    let s3 := noteReplay s2 ((s2.plansOn n).foldl (fun s x => s.replayPlan x.1 x.2) s2) 1 p
    h.waiting.foldl fenceTile s3.goOn

/-! ### Channels (R356, R357) -/

/-- Stream `n` of partition p loses its carried state: its context becomes FAILED, and its taken chunks before one that restarts it end with STATE_LOST (R114, R173). A MOVED context stays MOVED and loses its kept blob (R180). -/
def failStream (s : State) (p n : Nat) : State :=
  if (s.stream n).state = .failed || (s.stream n).state = .free then s
  else if (s.stream n).state = .moved then s.updStream n fun x => { x with blob := [] }
  else
  let s1 := ((s.updStream n fun x => { x with state := .failed }).raise 0x5001 3).leaveSteps n
  ((s1.stream n).chunks.takeWhile fun c => c.reset ≠ some 0).foldl
    (fun s c => s.endChunk p n c 0x22 false) s1

/-- An error met stream `n`'s carried state: the stream fails, unless a chunk whose mark is at frame 0 is in a step and does not read that state (R173). -/
def loseState (s : State) (p n : Nat) : State :=
  if (s.stream n).chunks.any fun c => c.inStep && c.reset = some 0 then s else s.failStream p n

/-- Sequence context `q` becomes FAILED: lanes of running ATTENDs that hold it end with STATE_LOST (R214). -/
def failSeq (s : State) (p q : Nat) : State :=
  if (s.seq q).state ≠ .opened then s
  else
    let s1 := (s.setSeq q { s.seq q with state := .failed }).raise 0x5801 2
    s1.updPart p fun x => { x with invs := x.invs.map fun v =>
      { v with lanes := v.lanes.map fun l =>
          if l.seq = q && l.status = 0 && !l.rejected then { l with status := 0x22 } else l } }

/-- Streams whose swap slot has a frame in channel `c`. -/
def swapsIn (s : State) (p c : Nat) : List Nat :=
  ((s.part p).frames.filterMap fun x => match x.2 with
    | .swap n => if (s.frameLoc p x.1 0).1 = c then some n else none
    | _ => none).eraseDups

/-- Sequences with a pool page in channel `c`: one that they map, their directory or a leaf. -/
def seqsIn (s : State) (p c : Nat) : List Nat :=
  let here (k : Option Nat) : Bool := match k with
    | some k => (s.poolLoc p k 0).1 = c
    | none => false
  (s.openSeqs p).filter fun q =>
    here (some (s.seq q).dir) || ((s.seq q).leaves.any fun x => here x.2) || (s.seq q).pages.any fun x => here x.2

/-- A channel is fenced: its owner's contexts with data in it fail, the owner's running requests end, and the owner is fenced (R356, R357). -/
def fenceChannel (s : State) (c : Nat) : State :=
  if s.persist.fencedChannels.contains c then s
  else
    let s1 := { s with persist := { s.persist with fencedChannels := s.persist.fencedChannels ++ [c] } }.raise 0x9001 4
    match s.channelOwner c with
    | none => s1
    | some p =>
      let s2 := (s1.swapsIn p c).foldl (fun s n => s.failStream p n) s1
      let s3 := (s2.seqsIn p c).foldl (fun s q => s.failSeq p q) s2
      let s4 := ((s3.part p).invs.map Invocation.planId).foldl (fun s id => s.endInvocation p id 0x20) s3
      if (s4.part p).fenced then s4.endTaken p 0x70 else s4.fencePart p

/-! ### Held units (Table 13-4) -/

/-- Taken descriptors that have not started and that `f` selects, with their partition. -/
def heldWorks (s : State) (f : Work → Bool) : List (Nat × Nat) :=
  s.partKeys.flatMap fun p =>
    ((s.part p).work.filter fun w => w.phase = .held && f w).map fun w => (p, w.slot)

def endHeld (s : State) (f : Work → Bool) (status : Nat) : State :=
  (s.heldWorks f).foldl (fun s x => s.endWork x.1 x.2 status 0 0 false) s

/-- A pipeline is held: the frame in it is dropped, and the descriptors that wait on its frames end with FRAME_MISSED. -/
def holdPipe (s : State) (k : Nat) : State :=
  let s1 := (s.updFaults fun f => { f with heldPipes := insertNat k f.heldPipes }).raise 0x9001 5
  let s2 := (NMap.keys s1.sensors).foldl (fun s n => s.updFrame n fun f =>
    match f.pipe with
    | some (j, _) => if j = k then { f with buffer := none } else f
    | none => f) s1
  s2.endHeld (fun w => dWaitPipe w.raw = k) 0x61

/-- An edge engine is held: a live run becomes a skipped frame, and EDGE_RUNs end with FENCED. -/
def holdEdge (s : State) (e : Nat) : State :=
  let s1 := (s.updFaults fun f => { f with heldEdges := insertNat e f.heldEdges }).raise 0x9001 5
  let s2 := match (s1.edge e).job with
    | none => s1
    | some j =>
      let t := (s1.setEdge e { s1.edge e with job := none }).dropHolds (65536 + e)
      if j.live then
        (t.bump32 0x650C (e + 1) 1).edgeNotice e j.ring j.frameSeq j.gen j.start 0 none (b2n j.short + 2) 0 j.seq
      else t.endWork j.part j.slot 0x70 0 0 false
  s2.endHeld (fun w => dOpcode w.raw = 0x61 && dBody w.raw 0 1 = e) 0x70

def holdCan (s : State) (n : Nat) : State :=
  (s.updFaults fun f => { f with heldCans := insertNat n f.heldCans }).raise 0x9001 5

/-- The roost is held: stage 0 stops, and the ring runs on. -/
def holdRoost (s : State) : State :=
  let s1 := (s.updFaults fun f => { f with roostHeld := true }).raise 0x9001 5
  { s1 with audio := { s1.audio with hop := none, hits := 0, refractory := false } }

/-! ### The package (R336, R337) -/

/-- The hottest sensor reaches 115 °C: every class goes to its floor. -/
def trip (s : State) : State :=
  ({ s with power := { s.power with tripped := true, kc := 7281, km := 16384, kl := 16384 } }).raise 0x8001 5

/-- Three AVSBus transactions in a row failed. -/
def loseAvs (s : State) : State :=
  ({ s with power := { s.power with avsFault := true } }).raise 0x8001 8

/-! ### Unit-fatal faults (Table 13-2) -/

/-- Source code of a unit-fatal fault. -/
def sourceCode : UnitSource → Nat
  | .tileCheck => 0x01 | .tileClock => 0x02 | .tileUeRepeat => 0x03 | .gangLink => 0x04
  | .channelUeRepeat => 0x10 | .channelLink => 0x11 | .pipeline => 0x20 | .edge => 0x21
  | .canCtrl => 0x30 | .thermalTrip => 0x40 | .avsLoss => 0x41 | .roost => 0x50
  | .nandDie => 0x60 | .selfTest => 0xE0

/-- The unit is of the kind that the source names. -/
def sourceFits (c : Nat) : FaultUnit → Bool
  | .package => c = 0x40 || c = 0x41
  | .tile _ => c ≤ 0x04 || c = 0xE0
  | .channel _ => c = 0x10 || c = 0x11 || c = 0xE0
  | .pipeline _ => c = 0x20 || c = 0xE0
  | .edgeEngine _ => c = 0x21 || c = 0xE0
  | .canController _ => c = 0x30 || c = 0xE0
  | .roost => c = 0x50 || c = 0xE0
  | .nandDie _ => c = 0x60
  | .control => false

/-- A unit-fatal fault of source `c` on a unit: a record is opened or merged into, and the unit is fenced or held; nothing happens on a unit that already is. -/
def unitFault (s : State) (c : Nat) (u : FaultUnit) : State :=
  if !sourceFits c u then s
  else match u with
    | .package =>
      if c = 0x40 then (if s.power.tripped then s else (s.openFault c 2 0 0 0 0 0).trip)
      else if s.power.avsFault then s else (s.openFault c 2 0 0 0 0 0).loseAvs
    | .tile p =>
      if s.fabric.fenced.contains p.val || s.fabric.shifts.any fun h => h.waiting.contains p.val then s
      else (s.openFault c 2 1 p.val (((s.logical p.val).map s.requestsOn).getD 0) 0 0).fenceTile p.val
    | .channel k =>
      if s.persist.fencedChannels.contains k.val then s
      else (s.openFault c 2 2 k.val ((s.channelOwner k.val).getD 0xFF) 0 0).fenceChannel k.val
    | .pipeline k =>
      if s.faults.heldPipes.contains k.val then s else (s.openFault c 2 3 k.val 0 0 0).holdPipe k.val
    | .edgeEngine e =>
      if s.faults.heldEdges.contains e.val then s else (s.openFault c 2 4 e.val 0 0 0).holdEdge e.val
    | .canController n =>
      if s.faults.heldCans.contains n.val then s else (s.openFault c 2 5 n.val 0 0 0).holdCan n.val
    | .roost => if s.faults.roostHeld then s else (s.openFault c 2 6 0 0 0 0).holdRoost
    | .nandDie d => s.failDie d.val
    | .control => s

/-- Source code of a device-fatal fault. -/
def fatalCode : FatalSource → Nat
  | .cpCrash => 0xF0 | .controlUe => 0xF1 | .mesh => 0xF2 | .stateBank => 0xF3

/-- A device-fatal fault (R353). -/
def fatalFault (s : State) (c cp component : Nat) : State :=
  if s.alive then s.openFault c 3 8 0 0 cp component else s

end State

/-! ### The meanings -/

/-- UNIT_FATAL_FAULT. -/
def execUnitFatalFault (source : UnitSource) (u : FaultUnit) (s : State) : Host.Outcome State Fault Refusal :=
  .next (if s.alive then s.unitFault (State.sourceCode source) u else s)

/-- DEVICE_FATAL_FAULT. -/
def execDeviceFatalFault (source : FatalSource) (cp component : Byte) (s : State) : Host.Outcome State Fault Refusal :=
  .next (s.fatalFault (State.fatalCode source) cp.toNat component.toNat)

/-- SUBSTITUTION_SHIFT_START: the last affected tile of the row has stopped. -/
def execSubstitutionShiftStart (row : Fin 8) (s : State) : Host.Outcome State Fault Refusal :=
  .next (if s.alive then s.startShift row.val else s)

/-- SUBSTITUTION_SHIFT_DONE: steps 4 and 5 of Table 2-16. -/
def execSubstitutionShiftDone (row : Fin 8) (s : State) : Host.Outcome State Fault Refusal :=
  .next (if s.alive then s.endShift row.val else s)

end Sys2Proof.Machine
end

