-- ==== Sys2Proof/Machine/Certs.lean ====
section
/-! DEFINITION. Certificates, signatures and key wraps: the checks that installs, enrolments, tickets, blobs and reports share (R369 to R373). -/

namespace Sys2Proof.Machine

/-- The ASCII bytes of a string, with no terminator. -/
def ascii (t : String) : List Byte := t.toList.map fun c => BitVec.ofNat 8 c.toNat

def allZero (bs : List Byte) : Bool := bs.all (· = 0)

/-- A 3 312-byte signature field: the signature and 3 zero bytes. -/
def signedBy (key msg sig : List Byte) : Bool :=
  allZero (slice sig 3309 3) && Config.mlDsaVerify key msg (sig.take 3309)

/-- A signature field that the device makes with its identity key (R369, Table 14-1). -/
def deviceSigns (msg : List Byte) : List Byte :=
  (Config.mlDsaSign (Config.shake256 (Config.seed ++ ascii "CT2564-ID-DSA") 32) msg).take 3309 ++ [0, 0, 0]

/-- A certificate of the given kind is valid (R370, Table 14-2). -/
def certOk (kind : Nat) (c : List Byte) : Bool :=
  c.length = 6512 && field c 0 4 = 0x54435243 && field c 4 2 = 0x0100 && field c 6 2 = 0x1970 &&
  field c 8 1 = kind && allZero (slice c 9 7) && allZero (slice c 0x30 16) &&
  signedBy Config.certKey (c.take 0xC80) (slice c 0xC80 3312)

def certSubject (c : List Byte) : Nat := field c 0x10 8
def certDsa (c : List Byte) : List Byte := slice c 0x40 1952
def certKem (c : List Byte) : List Byte := slice c 0x7E0 1184

/-- Seed of the identity KEM key (Table 14-1). -/
def kemSeed : List Byte := Config.shake256 (Config.seed ++ ascii "CT2564-ID-KEM") 64

/-- A key wrapped under the shared secret of an encapsulation and bytes that bind it. -/
def unwrapWith (seed cipher bind wrapped : List Byte) : Option (List Byte) :=
  Config.keyUnwrap (Config.shake256 (Config.kemDecaps seed cipher ++ bind) 32) wrapped

namespace State

/-- The device's full serial as bytes. -/
def serialBytes (s : State) : List Byte := leBytes 16 s.fuse.serial.toNat

end State

end Sys2Proof.Machine
end

