-- ==== Sys2Proof/Machine/Errors.lean ====
section
/-! DEFINITION. Errors in the memory tiers: corrected and uncorrectable errors, poison, tag failures, host faults, and the faults that repeated errors raise (R112 to R119, R214, R346). -/

namespace Sys2Proof.Machine
namespace State

/-- 24 h in µs. -/
def day : Nat := 86400000000

/-- The entries of the last 24 h with one of now. -/
def recentWith (s : State) (l : List Nat) : List Nat := (l.filter fun t => s.time < t + day) ++ [s.time]

/-! ### Local memory -/

/-- An error at byte `o` of logical tile `n`'s local memory: 1 when corrected, else the status that it gives its request (R113, R115). -/
def tileErr (s : State) (n o : Nat) (k : ErrKind) : State × Nat :=
  match k with
  | .corrected => ((s.bumpObj32 0x4200 n 1).corrected, 1)
  | _ =>
    let w := n * 131072 + o / 8
    if NMap.get (fun _ => false) s.mem.poisonTile w then (s, 0x20)
    else
      let s1 := (((s.updMem fun m => { m with poisonTile := NMap.set (fun _ => false) m.poisonTile w true }).bumpObj32
        0x4210 n 1).contained).raise 0x4001 0
      let p := s.phys n
      let ts := s.recentWith (NMap.get (fun _ => []) s.faults.tileUe p)
      let s2 := s1.updFaults fun f => { f with tileUe := NMap.set (fun _ => []) f.tileUe p ts }
      (if h : s.rdn 0x9002 2 ≤ ts.length ∧ p < 528 then s2.unitFault 0x03 (.tile ⟨p, h.2⟩) else s2, 0x20)

/-! ### The state store -/

/-- An error at absolute offset `a` of the state store. -/
def stateErr (s : State) (a : Nat) (k : ErrKind) : State × Nat :=
  match k with
  | .corrected => ((s.bump32 0x4300 1 1).corrected, 1)
  | _ =>
    let w := a / 8
    if NMap.get (fun _ => false) s.mem.poisonState w then (s, 0x20)
    else
      let s1 := (((s.updMem fun m => { m with poisonState := NMap.set (fun _ => false) m.poisonState w true }).bump32
        0x4300 2 1).contained).raise 0x4001 1
      let b := a / 0x40000 % 16
      let ts := s.recentWith (NMap.get (fun _ => []) s.faults.bankUe b)
      let s2 := s1.updFaults fun f => { f with bankUe := NMap.set (fun _ => []) f.bankUe b ts }
      (if 4 ≤ ts.length then s2.fatalFault 0xF3 0 0 else s2, 0x20)

/-! ### Bonded memory -/

/-- An uncorrectable error in channel `c` is counted (R115). -/
def countChannelUe (s : State) (c : Nat) : State :=
  let s1 := ((s.bumpObj32 0x4120 c 1).contained).raise 0x4001 2
  let ts := s.recentWith (NMap.get (fun _ => []) s.faults.channelUe c)
  let s2 := s1.updFaults fun f => { f with channelUe := NMap.set (fun _ => []) f.channelUe c ts }
  if h : s.rdn 0x9002 3 ≤ ts.length ∧ c < 256 then s2.unitFault 0x10 (.channel ⟨c, h.2⟩) else s2

/-- Pool page `k` of partition p met an uncorrectable error (R214). -/
def loseKvPage (s : State) (p k : Nat) : State :=
  let x := s.pool p
  let s1 := (s.setPool p { x with bad := insertNat k x.bad }).raise 0x5801 4
  ((s1.openSeqs p).filter fun q => (s1.seq q).has k).foldl (fun s q => s.failSeq p q) s1

/-- Stream `n`'s state is in a berth, and its swap-in has ended. -/
def resident (s : State) (n : Nat) : Bool :=
  (s.stream n).berth.isSome && !((s.stream n).chunks.any fun c => c.phase = .swapping)

/-- What an uncorrectable error in frame `f` of partition p does beside being counted, and the status it gives: a weight page is discarded and migrated again (R114), a pool page is lost (R214), and a swap slot's stream fails. A scrub ends no request (R118), and finds nothing lost in the swap slot of a stream whose state is in its berth: its next step writes the slot again (log entry 69, DEDUCED). -/
def frameUe (s : State) (p f o : Nat) (scrub : Bool) : State × Nat :=
  if f < s.rdn 0x5812 (p + 1) then (s.loseKvPage p (f * 2 + o / 32768), 0x22)
  else match s.frame p f with
    | .page n _ =>
      let s1 := (s.setFrame p f .empty).updPart p fun x =>
        { x with plans := x.plans.map fun l => { l with fetched := l.fetched.filter (· ≠ n) } }
      (s1, if (s.pageModel n).any s.isLost then 0x21 else 1)
    | .swap n => (if scrub && s.resident n then s else s.loseState p n, 0x22)
    | _ => (s, 0x20)

/-- The frame of its owner that a channel offset lies in, with the offset in it (R96). -/
def frameAt (s : State) (p c o : Nat) : Option (Nat × Nat) :=
  let w := s.ways p
  let lo := (127 - 8 * w) * 0x100000
  if lo ≤ o && o < 127 * 0x100000 then
    some ((o - lo) / 0x10000 * s.channelCount p + (c - s.channelFirst p), (o - lo) % 0x10000)
  else none

/-- The row of byte `o` of channel `c`, as the repair records number it (R119). -/
def rowKey (c o : Nat) : Nat := c * 16 + (Config.bankRow c (o / 64)).1 % 16 + 4096 * (Config.bankRow c (o / 64)).2

/-- A corrected error in a row joins those of the running scrub period (R119). -/
def rowCorrected (s : State) (c o : Nat) : State :=
  let k := rowKey c o
  let ts := ((NMap.get (fun _ => []) s.faults.rowCe k).filter fun t => s.time < t + s.rdn 0x4002 1 * 3600000000) ++ [s.time]
  s.updFaults fun f => { f with rowCe := NMap.set (fun _ => []) f.rowCe k ts }

/-- An uncorrectable error in a row (R119). -/
def rowFailed (s : State) (c o : Nat) : State :=
  let k := rowKey c o
  let ts := NMap.get (fun _ => []) s.faults.rowUe k ++ [s.time]
  s.updFaults fun f => { f with rowUe := NMap.set (fun _ => []) f.rowUe k ts }

/-- An error at byte `o` of channel `c` (R113 to R116). -/
def channelErr (s : State) (c o : Nat) (k : ErrKind) (scrub : Bool) : State × Nat :=
  match k with
  | .corrected => (((s.bumpObj32 0x4110 c 1).corrected).rowCorrected c o, 1)
  | .tag =>
    ((s.raise 0x4001 4).contained.security 3 (s.channelOwner c) (BitVec.ofNat 64 (c * 281474976710656 + o / 64)), 0x80)
  | .uncorrectable =>
    let place := (s.channelOwner c).bind fun p => (s.frameAt p c o).map fun f => (p, f)
    match place with
    | none =>
      if s.linePoisoned c (o / 64) then (s, 0x20)
      else (((s.setPoison c (o / 64) true).countChannelUe c).rowFailed c o, 0x20)
    | some (p, f, x) =>
      let (s1, st) := s.frameUe p f x scrub
      ((s1.countChannelUe c).rowFailed c o, st)

/-! ### What a piece of work met -/

/-- One error that work of partition p met, with the tiles of its plan's slots. -/
def meetErr (s : State) (p : Nat) (place : List Nat) (e : MemErr) : State × Nat :=
  match e.place with
  | .frame f o =>
    let (c, x) := s.frameLoc p f o
    s.channelErr c x e.kind false
  | .view a =>
    match region a with
    | some (.slotWindow k o) => s.tileErr ((place[k]?).getD 0) o e.kind
    | some (.state o) => s.stateErr (s.stateLoc p o) e.kind
    | some (.window o) =>
      let (c, x) := s.windowLoc p o
      s.channelErr c x e.kind false
    | some (.weight o) =>
      match s.pageFrame p (o / 65536) with
      | some f =>
        let (c, x) := s.frameLoc p f (o % 65536)
        s.channelErr c x e.kind false
      | none => (s, 0)
    | _ => (s, 0)

/-- The worse of two results: the first status that ends a request stands; a correction is better than that (R113, R114). -/
def worse (a b : Nat) : Nat := if 0x10 ≤ a then a else if 0x10 ≤ b then b else max a b

/-- The errors that work of partition p met: 0 none, 1 corrected, else the status of its request (R112 to R116). -/
def meet (s : State) (p : Nat) (place : List Nat) (met : Met) : State × Nat :=
  let r := met.errs.foldl (fun (x : State × Nat) e =>
    let (t, st) := x.1.meetErr p place e
    (t, worse x.2 st)) (s, 0)
  if met.hostFault then (if 0x10 ≤ r.2 then r else (r.1.raise 0x4001 10, 0x23)) else r

end State
end Sys2Proof.Machine
end

