-- ==== Sys2Proof/Machine/Jobs.lean ====
section
/-! DEFINITION. REPROCESS and EDGE_RUN: descriptors that pipelines and edge engines carry out (R246, R267 to R272). -/

namespace Sys2Proof.Machine
namespace State

/-- REPROCESS once nothing holds it: the checks in order, then one frame through the pipeline. -/
def startReprocess (met : Met) (s : State) (p : Nat) (w : Work) : State :=
  let k := dBody w.raw 0 1
  let bytes := dBody w.raw 4 4
  let a := dBody w.raw 8 8
  let endW (st : Nat) := s.endWork p w.slot st 0 0 false
  let h := s.getWindow p a 64
  let n := field h 4 1
  let c := s.sensorCfg n
  if 8 ≤ k || s.rdn 0x6100 (k + 1) ≠ 0x10 || s.rdn 0x6101 (k + 1) ≠ p || field h 0 4 ≠ 0x57415243 ||
      16 ≤ n || c.exposures = 0 then endW 0x12
  else if bytes < 64 + field h 5 1 * field h 0xA 2 * ceil64 (field h 8 2 * (if rawBits (field h 6 1) ≤ 16 then 2 else 4)) then endW 0x10
  else if field h 8 2 ≠ c.width || field h 5 1 ≠ c.exposures || field h 6 1 ≠ c.dataType then endW 0x12
  else
    let (s0, st) := s.meet p [] met
    if 0x10 ≤ st then s0.endWork p w.slot st 0 0 false
    else
    let pc := s0.pipeCfg k
    let line := ceil64 (field h 8 2 * (if rawBits (field h 6 1) ≤ 16 then 2 else 4))
    let rows := (List.range (field h 5 1)).flatMap fun e => (List.range (min (field h 0xC 2) (field h 0xA 2))).map fun y =>
      (a + 64 + (e * field h 0xA 2 + y) * line, line)
    if ((a, 64) :: rows).any (s0.rowPoison p) then s0.endWork p w.slot 0x20 0 0 false
    else if field h 0xC 2 < field h 0xA 2 && !pc.acceptShort then s0.endWork p w.slot 0x60 0 0 false
    else
      let (b, s1) := s0.takeBuffer k pc.buffers
      s1.outputFrame k pc n (s1.rawFrame p a c h b (some (k, pc))) 8 (some (p, w.slot, st))

end State

/-- REPROCESS: the descriptor of operation code 0x60. -/
def execReprocess (d : DescImage) (met : Met) (s : State) : Host.Outcome State Fault Refusal :=
  s.takeDesc 0x60 d [] (State.startReprocess met)

namespace State

/-- EDGE_RUN once nothing holds it: the checks in order, then the run begins. -/
def startEdgeRun (met : Met) (s : State) (p : Nat) (w : Work) : State :=
  let b (o n : Nat) := dBody w.raw o n
  let e := b 0 1
  let endW (st : Nat) := s.endWork p w.slot st 0 0 false
  let wd := b 4 2
  let ht := b 6 2
  if s.faults.heldEdges.contains e then endW 0x70
  else if 2 ≤ e || s.rdn 0x6500 (e + 1) ≠ 0x10 || s.rdn 0x6501 (e + 1) ≠ p || wd = 0 || 8192 < wd ||
      ht = 0 || 16383 < ht || b 0x14 4 < wd then endW 0x12
  else
    let g := s.readProgram p (b 0x28 8)
    if !EdgeProg.ok g then endW 0x12
    else
      let ho := EdgeProg.outH g ht
      let wo := EdgeProg.outW g wd
      let line := wo.toNat * EdgeProg.elem g
      if b 0x24 4 < line then endW 0x12
      else if ho ≤ 0 || wo ≤ 0 then endW 0x13
      else
        if b 0x30 4 < (EdgeProg.cin g - 1) * b 0x10 4 + (ht - 1) * b 0x14 4 + wd ||
            b 0x34 4 < (EdgeProg.planes g - 1) * b 0x20 4 + (ho.toNat - 1) * b 0x24 4 + line then endW 0x10
        else if !(s.inWindow p (b 8 8) (b 0x30 4) && s.inWindow p (b 0x18 8) (b 0x34 4) &&
            s.inWindow p (b 0x28 8) (EdgeProg.length g)) then endW 0x24
        else
          let (s0, st) := s.meet p [] met
          if 0x10 ≤ st then s0.endWork p w.slot st 0 0 false
          else if s0.rowPoison p (b 0x28 8, EdgeProg.length g) then s0.endWork p w.slot 0x20 0 0 false
          else
          let j : EdgeJob :=
            { programAddr := b 0x28 8, ring := s.edgeRing e, live := false, part := p, slot := w.slot, frameSeq := 0, gen := 0, short := false
              pipe := 8, buffer := 0, start := s.time, program := g
              input := [b 8 8, b 0x10 4, b 0x14 4, wd, ht, ht]
              output := [b 0x18 8, b 0x20 4, b 0x24 4], outBuffer := 0, seq := 0, corrected := st = 1
              blank := s0.blankOf (p * 64 + w.slot) }
          s0.setEdge e { s0.edge e with job := some j }

end State

/-- EDGE_RUN: the descriptor of operation code 0x61. -/
def execEdgeRun (d : DescImage) (met : Met) (s : State) : Host.Outcome State Fault Refusal :=
  s.takeDesc 0x61 d [] (State.startEdgeRun met)

/-- EDGE_RUN_DONE: a run ends; a live run's output and notice, or a descriptor's completion (R267 to R270, Table 9-8). -/
def execEdgeRunDone (e : Fin 2) (micros : W32) (met : Met) (s : State) : Host.Outcome State Fault Refusal :=
  .next <|
    match (if s.alive then (s.edge e.val).job else none) with
    | none => s
    | some j =>
      let (s0, st0) := s.meet j.part [] met
      let st := if st0 < 0x10 && s0.edgePoison j then 0x20 else st0
      let ue := 0x10 ≤ st
      let s1 := if ue then s0 else s0.edgeOutput j
      let s2 := (((s1.setEdge e.val { s1.edge e.val with job := none }).dropHolds (65536 + e.val)).bump64 0x650B (e.val + 1) 1).wrn 0x650D (e.val + 1) micros.toNat
      if j.live then
        let rows := if ue then 0 else j.rows
        let s3 := if ue then s2.raise 0x6401 3 else s2
        s3.edgeNotice e.val j.ring j.frameSeq j.gen j.start rows (some j.outBuffer)
          (b2n j.short + 4 * b2n ue) micros.toNat j.seq
      else s2.endWork j.part j.slot (if ue then st else if j.corrected then 1 else st) 0 0 false

end Sys2Proof.Machine
end

