-- ==== Sys2Proof/Machine/Plans.lean ====
section
/-! DEFINITION. Plans and invocations: loading and unloading, INVOKE and its copies, cheap points, pre-emption, hints and migrations (R43 to R46, R102 to R106, R301, R302, R304, R305, R310 to R312). -/

namespace Sys2Proof.Machine
namespace State

/-! ### Unloading (R44, R301, R321) -/

/-- Plan `id` of partition p is unloaded: its configuration leaves the tiles, its image and checkpoint frames are unpinned, and its pins go. -/
def unloadPlan (s : State) (p : Nat) (id : W64) : State :=
  let s1 := (s.dropConfig p id).emptyFrames p fun u => match u with
    | .image k | .checkpoint k => k = id
    | _ => false
  s1.updPart p fun x => { x with plans := x.plans.filter fun l => l.plan.planId ≠ id }

/-- A stream group that the plan serves has a context that is not FREE. -/
def planStreams (s : State) (p : Nat) (id : W64) : Bool :=
  (s.planGroups p id).any fun g => (s.openStreams p).any fun n => (s.stream n).group = g

/-- PLAN_UNLOAD once nothing holds it. -/
def startPlanUnload (s : State) (p : Nat) (w : Work) : State :=
  let id := BitVec.ofNat 64 (dBody w.raw 0 8)
  if (s.findPlan p id).isNone then s.endWork p w.slot 0x14 0 0 false
  else if s.planStreams p id then s.endWork p w.slot 0x44 0 0 false
  else (s.unloadPlan p id).endWork p w.slot 0 0 0 false

/-! ### Loading (R43, R102, R103) -/

/-- Frames of an image and its checkpoint area (R102). -/
def pagesOf (n : Nat) : Nat := (n + 65535) / 65536

/-- The image and checkpoint frames of a plan are pinned, when 16 frames stay unpinned (R103). -/
def pinPlan (s : State) (p : Nat) (id : W64) (bytes ckpt : Nat) : Option State :=
  if s.pinnedFrames p + pagesOf bytes + pagesOf ckpt + 16 ≤ s.weightFrames p then
    (pinFrames p (.image id) (pagesOf bytes) s).bind (pinFrames p (.checkpoint id) (pagesOf ckpt))
  else none

/-- Bytes of the checkpoint area that an image asks for. -/
def ckptOf (pl : Plan) : Nat := if pl.hasCheckpoints then pl.ckptBytes else 0

/-- A load's tiles hold it: one shifts (R50), or its staged half waits behind a running plan (R46). -/
def halvesBusy (s : State) (tiles : List Nat) : Bool :=
  tiles.any fun t => s.shifting t || (s.halves t).pending

/-- A load that failed at a step: its status, and PLAN_REJECT for steps 2 to 8; a failed signature is a security event (R385). -/
def rejectLoad (s : State) (p slot status step : Nat) (id : W64) : State :=
  let s1 := if 2 ≤ step && step ≤ 8 then s.raise 0x3001 4 else s
  let s2 := s1.endWork p slot status step 0 false
  if status = 0x80 then s2.security 0 (some p) id else s2

/-- The variant of a plan, checked by steps 1 to 6 (step 7). -/
def checkVariant (s : State) (p m : Nat) (pl : Plan) : Except Nat (Option (ModelPlan × Plan)) :=
  if pl.degradedId = 0 then .ok none
  else match s.modelPlan m pl.degradedId with
    | none => .error 0x33
    | some e =>
      match s.checkImage p m e (some pl) with
      | .error x => .error x.1
      | .ok v => .ok (some (e, v))

end State

/-- How a part of a load ends: at once because the plan is loaded (with its G), with a status and the step that failed, in a wait for another load of the plan or for a tile of its placement, in a read of image pages, or loaded with its status and G. -/
inductive LoadEnd where
  | already (gap : Nat)
  | failed (s : State) (status step : Nat)
  | waits
  | reading (s : State)
  | loaded (s : State) (status gap : Nat)

namespace State

/-- Load `slot` of partition p changes. -/
def updLoad (s : State) (p slot : Nat) (f : LoadJob → LoadJob) : State :=
  s.updPart p fun x => { x with loads := x.loads.map fun k => if k.slot = slot then f k else k }

/-- A load ends without its plan: it goes, and the frames that it pinned are free. -/
def dropLoad (s : State) (p : Nat) (j : LoadJob) : State :=
  s.updPart p fun x =>
    { x with loads := x.loads.filter fun k => k.slot ≠ j.slot, frames := dropLoads [j] x.frames }

/-- A load of plan `id` of model `m` into partition p begins: PLAN_MODEL before any byte is read (R301), then the frames of its image and its checkpoint area, and step 1 asks for the image's pages (Table 2-15). The spec identifies a loaded plan by its PlanId alone, which is unique only within a package: a plan that was loaded from another model slot counts as already loaded too (DESIGN CHOICE, log entry 76). -/
def startLoad (met : Met) (s : State) (p m : Nat) (id : W64) (slot : Nat) : LoadEnd :=
  if 256 ≤ m || (s.model m).state ≤ 1 then .failed s 0x33 5
  else match s.modelPlan m id with
    | none => .failed s 0x33 5
    | some e =>
      match s.findPlan p id with
      | some l => .already l.plan.gap
      | none =>
        if (s.part p).loads.any fun j => j.planId = id then .waits
        else match s.pinPlan p id e.bytes (ckptOf (parsePlan (s.planImage m e))) with
          | none => .failed s 0x25 1
          | some t =>
            let (t1, st) := t.meet p [] met
            let j : LoadJob :=
              { slot := slot, planId := id, model := m, left := imagePages m e.offset e.bytes, variant := false
                corrected := st = 1, lost := false }
            if 0x10 ≤ st then .failed (t1.dropLoad p j) st 1
            else if j.left.any t1.isLost then .failed (t1.dropLoad p j) 0x21 1
            else .reading (t1.updPart p fun x => { x with loads := x.loads ++ [j] })

/-- Load `j` goes on once the pages that it asked for are read: steps 2 to 6, the variant's own read and steps (step 7), the placement and the staged halves (steps 8 and 9). -/
def goLoad (s : State) (p : Nat) (j : LoadJob) : LoadEnd :=
  let fail (status step : Nat) : LoadEnd := .failed (s.dropLoad p j) status step
  if j.lost then fail 0x21 (if j.variant then 7 else 1)
  else match s.modelPlan j.model j.planId with
    | none => fail 0x33 5
    | some e =>
      match s.checkImage p j.model e none with
      | .error (x, n) => fail x n
      | .ok pl =>
        if pl.degradedId ≠ 0 && !j.variant then
          match s.modelPlan j.model pl.degradedId with
          | none => fail 0x33 7
          | some ve =>
            let pages := imagePages j.model ve.offset ve.bytes
            if pages.any s.isLost then fail 0x21 7
            else match s.pinPlan p j.planId ve.bytes (ckptOf (parsePlan (s.planImage j.model ve))) with
              | none => fail 0x25 7
              | some t => .reading (t.updLoad p j.slot fun k => { k with left := pages, variant := true })
        else match s.checkVariant p j.model pl with
          | .error x => fail x 7
          | .ok var =>
            match s.placement p pl with
            | none => fail 0x32 8
            | some tiles =>
              if s.halvesBusy tiles then .waits
              else
                let l : Loaded :=
                  { plan := pl, kind := e.kind, model := j.model, params := e.params
                    variant := var.map Prod.snd, variantKind := var.elim 0 fun x => x.1.kind
                    variantParams := var.elim [] fun x => x.1.params, onVariant := false, place := tiles, pins := []
                    ckpt := [], ckptFlow := Flow.none, fetched := [], saved := [], loadTime := s.time }
                let t := s.updPart p fun x =>
                  { x with plans := x.plans ++ [l], loads := x.loads.filter fun k => k.slot ≠ j.slot }
                .loaded (t.stage p j.planId tiles) (b2n j.corrected) pl.gap

/-- The load of a descriptor or wake stage that is under way. -/
def findLoad (s : State) (p slot : Nat) : Option LoadJob := (s.part p).loads.find? fun j => j.slot = slot

/-- What the descriptor of a load takes from a part of it (R301): its completion, a read that goes on, or a wait: for a tile as a load under way, for another load of the plan as a descriptor that is held. -/
def endLoad (s : State) (p slot : Nat) (id : W64) (r : LoadEnd) : State :=
  match r with
  | .already gap => s.endWork p slot 0 0 gap false
  | .failed t st step => t.rejectLoad p slot st step id
  | .waits => if (s.findLoad p slot).isSome then s else s.setPhase p slot .held
  | .reading t => t
  | .loaded t st gap => t.endWork p slot st 0 gap false

/-- The next part of a wake stage's load: its begin, or what follows its reads. -/
def loadPlan (met : Met) (s : State) (p m : Nat) (id : W64) (slot : Nat) : LoadEnd :=
  match s.findLoad p slot with
  | none => startLoad met s p m id slot
  | some j => if j.left.isEmpty then s.goLoad p j else .reading s

/-- PLAN_LOAD once nothing holds it (R301). -/
def startPlanLoad (met : Met) (s : State) (p : Nat) (w : Work) : State :=
  let id := BitVec.ofNat 64 (dBody w.raw 8 8)
  s.endLoad p w.slot id (startLoad met s p (dBody w.raw 0 2) id w.slot)

/-- The loads of partition p whose pages have all been read go on, after a read and when the scheduler looks for what can start; that of a wake stage goes on with its stage (R293). -/
def afterRead (s : State) (p : Nat) : State :=
  ((s.part p).loads.filter fun j => j.slot < 64 && j.left.isEmpty).foldl (fun s j =>
    if (s.findWork p j.slot).any fun w => w.phase = .running then s.endLoad p j.slot j.planId (s.goLoad p j) else s) s

/-- A staged plan starts: its half becomes the running one (R46). -/
def stagedStart (s : State) (p : Nat) (id : W64) : State :=
  match s.findPlan p id with
  | none => s
  | some l =>
    if l.place.any (fun t => (s.halves t).staged = some (p, id)) &&
        !(l.place.any fun t => (s.busyTiles p id).contains t || s.shifting t) then s.runOn p id l.place
    else s

/-! ### INVOKE (R301, R302) -/

/-- A copy record: From, To, length and AFTER. -/
structure Copy where
  src : Nat
  dst : Nat
  bytes : Nat
  after : Bool
  deriving DecidableEq, Repr

def copyRec (raw : BitVec 1024) (i : Nat) : Copy :=
  let o := 0x10 + 16 * i
  let v := dBody raw (o + 12) 4
  ⟨dBody raw o 6, dBody raw (o + 6) 6, v % 2147483648, bit v 31⟩

def copies (raw : BitVec 1024) : List Copy := (List.range (min 4 (dBody raw 8 1))).map (copyRec raw)

def isHost (a : Nat) : Bool := match region a with | some (.host _) => true | _ => false
def isWindow (a : Nat) : Bool := match region a with | some (.window _) => true | _ => false

/-- CopyCount is at most 4, the records beyond it are zero, and each record joins host memory and the window. -/
def copiesOk (raw : BitVec 1024) : Bool :=
  let n := dBody raw 8 1
  n ≤ 4 && ((List.range 4).all fun i => i < n || dBody raw (0x10 + 16 * i) 16 = 0) &&
  (copies raw).all fun c => (isHost c.src && isWindow c.dst) || (isWindow c.src && isHost c.dst)

/-- A window end or a host end reaches beyond its region. -/
def copyLong (s : State) (p : Nat) (c : Copy) : Bool :=
  [c.src, c.dst].any fun a => match region a with
    | some (.window o) => s.windowBytes p < o + c.bytes
    | _ => 0x1000000000000 < a + c.bytes

/-- One copy, by function `fn`: 0, or the status that ends its request (R112, R115, R117). The rows of `bl` read as zero (R228). -/
def doCopy (s : State) (p fn : Nat) (bl : Option Blank) (c : Copy) : State × Nat :=
  if c.bytes = 0 then (s, 0)
  else if !s.busMaster fn then (s.busBlocked, 0x23)
  else match region c.src, region c.dst with
    | some (.host a), some (.window o) =>
      (s.writeWindow p o (s.fromHost (s.busAddr p a) c.bytes), if s.windowEdge p o c.bytes then 0x20 else 0)
    | some (.window o), some (.host a) =>
      if s.windowPoison p o c.bytes then (s, 0x20)
      else (s.toHost (s.busAddr p a) (blanked bl c.src (s.readWindow p o c.bytes)), 0)
    | _, _ => (s, 0)

/-- Copies in record order until one fails. -/
def doCopies (s : State) (p fn : Nat) (bl : Option Blank) (cs : List Copy) : State × Nat :=
  cs.foldl (fun (x : State × Nat) c => if x.2 ≠ 0 then x else x.1.doCopy p fn bl c) (s, 0)

/-- A plan without a placement is placed again (R49). -/
def rePlace (s : State) (p : Nat) (l : Loaded) : Option Loaded :=
  if l.place.isEmpty then (s.placement p l.active).map fun t => { l with place := t } else some l

/-- INVOKE once nothing holds it. -/
def startInvoke (met : Met) (s : State) (p : Nat) (w : Work) : State :=
  let id := BitVec.ofNat 64 (dBody w.raw 0 8)
  let cs := copies w.raw
  let fail (s : State) (st : Nat) := s.endWork p w.slot st 0 0 false
  if !copiesOk w.raw then fail s 0x12
  else match s.findPlan p id with
    | none => fail s 0x14
    | some l0 =>
      if l0.kind = 1 || l0.kind = 2 then fail s 0x12
      else if cs.any fun c => c.src % 64 ≠ 0 || c.dst % 64 ≠ 0 then fail s 0x11
      else if cs.any (s.copyLong p) then fail s 0x10
      else match s.rePlace p l0 with
        | none => fail s 0x32
        | some l =>
          let (s1, st) := s.meet p [] met
          if l.place.any s.shifting then s.setPhase p w.slot .held
          else if 0x10 ≤ st then fail s1 st
          else
            let (s2, st2) := s1.doCopies p (workFn p w) (s1.blankOf (p * 64 + w.slot)) (cs.filter fun c => !c.after)
            if st2 ≠ 0 then fail s2 st2
            else
              let s3 := s2.updPlan p id fun x => { x with place := l.place }
              (s3.startInvocation p l w.slot false []).updInv p id fun v => { v with corrected := st = 1 }

/-! ### Demand migrations (R104, R106) -/

/-- A tile read of page `n` by slot `k` of plan `id` finds no frame with it. -/
def demand (s : State) (p : Nat) (id : W64) (k n : Nat) : State :=
  match s.findPlan p id with
  | none => s
  | some l =>
    let inPlan := (s.loadedRegions p).any fun x => x.1 ≤ n * 65536 && n * 65536 < x.1 + x.2
    if !s.serves || !s.planRuns p id || !inPlan || l.active.slotCount ≤ k || (s.pageFrame p n).isSome then s
    else if (s.pageModel n).any s.isLost then s.failPlan p id 0x21
    else
      let me : Waiter := ⟨id, k, s.time⟩
      match (s.part p).migrations.find? fun m => m.page = n with
      | none =>
        match s.victim p with
        | none => s.failPlan p id 0x25
        | some f => (s.setFrame p f (.filling n)).updPart p fun x =>
            { x with migrations := x.migrations ++ [⟨n, true, false, some f, s.time, [me], false⟩] }
      | some m =>
        let join (s : State) (f : Option Nat) : State := s.updPart p fun x =>
          { x with migrations := x.migrations.map fun y =>
              if y.page = n then { y with waiters := y.waiters ++ [me], frame := f, demand := true
                                          asked := if y.demand then y.asked else s.time } else y }
        match m.frame with
        | some f => join s (some f)
        | none =>
          match s.victim p with
          | none => s.failPlan p id 0x25
          | some f => join (s.setFrame p f (.filling n)) (some f)

/-- How a part of an invocation ends: at its point or its end, with a status that ends the invocation, or in a wait. -/
inductive Progress where
  | passed
  | ended (status : Nat)
  | waits
  deriving DecidableEq

/-- The lanes of an ATTEND that were lost take their statuses (R212). -/
def loseLanes (lost : List (Nat × Nat)) (lanes : List Lane) : List Lane :=
  lanes.zipIdx.map fun (x : Lane × Nat) =>
    match lost.find? fun y => y.1 = x.2 with
    | some y => if x.1.status = 0 then { x.1 with status := y.2 } else x.1
    | none => x.1

/-! ### Cheap points and the end (R40, R83, R305, R311) -/

/-- The invocation of plan `id` runs on to cheap point `i`, or to its end. Statistics merge once for each point (R83, R360). A part that waits has had no effect, but that the page it waits for is asked for (R104). -/
def advance (s : State) (p : Nat) (id : W64) (i : Option Nat) : State × Progress :=
  match s.findPlan p id, s.findInv p id with
  | some l, some v =>
    let c := s.runCtx p l v
    let goal := i.getD l.active.cheaps.length
    let r := Run.part c v.cheap i s
    let done := (Run.finish c s (v.merged < goal) r).updInv p id fun v =>
      { v with merged := max v.merged goal, flow := r.flow, lanes := loseLanes r.lost v.lanes }
    match r.wait, r.stop with
    | some (.page n k), _ => (s.demand p id k n, .waits)
    | some .early, _ => (s, .waits)
    | none, some st => (done, .ended st)
    | none, none =>
      let s1 := done.updPlan p id fun x => { x with fetched := [] }
      (match i with | some k => s1.passCheap p id k | none => s1.releaseAll p, .passed)
  | _, _ => (s, .passed)

/-- The points that remain, then the end. -/
def advanceEnd (s : State) (p : Nat) (id : W64) : State × Progress :=
  match s.findPlan p id, s.findInv p id with
  | some l, some v =>
    let rest := ((List.range l.active.cheaps.length).filter fun i => v.cheap < i).map some ++ [none]
    rest.foldl (fun (x : State × Progress) i => if x.2 = .passed then x.1.advance p id i else x) (s, .passed)
  | _, _ => (s, .passed)

/-- Nothing stands still for the plan: no fault, no stop, no shift and no read that waits. -/
def progresses (s : State) (p : Nat) (id : W64) : Bool :=
  match s.findPlan p id, s.findInv p id with
  | some l, some v => s.alive && !s.clearingOf p && !v.faulted && !v.stopped && !v.paused &&
      !(l.place.any fun t => s.tileMode t = 5 || !s.usable t) &&
      !((s.part p).migrations.any fun m => m.waiters.any fun x => x.planId = id)
  | _, _ => false

/-- The invocation stops at point `i`: its live ranges are saved and its tiles free (R311, R312). -/
def stopAt (s : State) (p : Nat) (id : W64) (i : Nat) : State :=
  match s.findPlan p id, s.findInv p id with
  | some l, some v =>
    match (l.active.cheaps[i]?).bind (s.liveMarked l) with
    | some x => s.endMarked p id x
    | none =>
      let s1 := (s.saveLive p l i).updInv p id fun v => { v with stopped := true, stop := .none }
      ((s1.keepMax 0x702A (p + 1) (s.time - v.stopTime)).bump32 0x7029 (p + 1) 1).raise 0x7001 3
  | _, _ => s

/-- The invocation stops at the cheap point just passed when a shift is to move tiles of its plan (Table 2-16 step 2). -/
def pauseFor (s : State) (p : Nat) (id : W64) (l : Loaded) : State :=
  if l.place.any s.shifting then s.updInv p id fun v => { v with paused := true } else s

/-- A shift stops the invocation before its end: cheap points are still ahead of it. -/
def shiftAhead (s : State) (l : Loaded) (v : Invocation) : Bool :=
  l.place.any s.shifting && decide (v.cheap + 2 < l.active.cheaps.length)

/-- CHEAP_POINT_REACHED: the next cheap point before the last passes, and a stop that was chosen happens there. -/
def cheapPoint (s : State) (p : Nat) (id : W64) : State :=
  match s.findPlan p id, s.findInv p id with
  | some l, some v =>
    let i := v.cheap + 1
    match l.active.cheaps[i]? with
    | none => s
    | some c =>
      if !s.progresses p id || l.active.cheaps.length ≤ i + 1 then s
      else
        let (s1, st) := s.advance p id (some i)
        match st with
        | .ended x => s1.endInvocation p id x
        | .waits => s1
        | .passed =>
          if (v.stop = .abort && c.preempt) || (v.stop = .abortChosen && l.active.usable c) then s1.endInvocation p id 0x72
          else if (v.stop = .preempt || v.stop = .slice) && l.active.usable c then s1.stopAt p id i
          else s1.pauseFor p id l
  | _, _ => s

/-- PREEMPT_STOP: the next point is the usable one that the scheduler chose. -/
def preemptStop (s : State) (p : Nat) (id : W64) : State :=
  match s.findPlan p id, s.findInv p id with
  | some l, some v =>
    match l.active.cheaps[v.cheap + 1]? with
    | some c => if (v.stop = .preempt || v.stop = .slice || v.stop = .abortChosen) && l.active.usable c then s.cheapPoint p id else s
    | none => s
  | _, _ => s

/-- PREEMPT_RESUME: a stopped invocation's configuration and live ranges return (R311 step 5). -/
def preemptResume (s : State) (p : Nat) (id : W64) : State :=
  match s.findPlan p id, s.findInv p id with
  | some l, some v =>
    if !s.serves || !v.stopped || v.faulted || !s.powered p ||
        (l.place.any fun t => (s.busyTiles p id).contains t || s.shifting t) then s
    else
      let s1 := (s.runOn p id l.place).loadLive l l.saved
      (s1.updInv p id fun v => { v with stopped := false, resumed := s.time, passed := s.time }).caughtUp p id
  | _, _ => s

/-- INVOCATION_END: the last result is delivered, the AFTER copies run, and the completion follows (R302, R305, R311). -/
def invocationEnd (met : Met) (s : State) (p : Nat) (id : W64) : State :=
  match s.findPlan p id, s.findInv p id with
  | some l, some v =>
    if v.attend || !s.progresses p id || s.shiftAhead l v then s
    else
      let (s1, st) := s.meet p l.place met
      if 0x10 ≤ st then s1.endInvocation p id st
      else
        let (s2, stop) := (s1.updInv p id fun v => { v with corrected := v.corrected || st = 1 }).advanceEnd p id
        match stop, s2.findInv p id, s2.findWork p v.slot with
        | .ended x, _, _ => s2.endInvocation p id x
        | .waits, _, _ | .passed, none, _ => s2
        | .passed, some _, none => s2.dropInv p id
        | .passed, some v2, some w =>
          let (s3, st3) := if v2.stop = .abort || v2.stop = .abortChosen then (s2, 0)
            else s2.doCopies p (workFn p w) (s2.blankOf (p * 64 + v.slot)) ((copies w.raw).filter Copy.after)
          s3.endInvocation p id (if st3 ≠ 0 then st3 else invResult v2)
  | _, _ => s

/-! ### The scheduler's choices (R310) -/

/-- A usable PREEMPT point remains before the end. -/
def pointLeft (l : Loaded) (v : Invocation) : Bool :=
  l.active.cheaps.any fun c => v.cheap < c.index && c.index + 1 < l.active.cheaps.length && l.active.usable c

/-- The invocations that run on tiles of plan `id`, with the priority of each. -/
def onTilesOf (s : State) (p : Nat) (id : W64) : List (Invocation × Loaded × Nat) :=
  match s.findPlan p id with
  | none => []
  | some l => (s.part p).invs.filterMap fun v =>
      if v.stopped || v.planId = id then none
      else match s.findPlan p v.planId, s.findWork p v.slot with
        | some k, some w => if k.place.any l.place.contains then some (v, k, dPriority w.raw) else none
        | _, _ => none

/-- The invocations of lower priority than `prio` on tiles of plan `id` are told to stop at their next usable point. -/
def stopBelow (s : State) (p : Nat) (id : W64) (prio : Nat) : State :=
  (s.onTilesOf p id).foldl (fun s (x : Invocation × Loaded × Nat) =>
    if x.2.2 < prio && x.1.stop = .none && pointLeft x.2.1 x.1 then
      s.updInv p x.1.planId fun v => { v with stop := .preempt, stopTime := s.time }
    else s) s

/-- A descriptor that only its plan's tiles hold. -/
def waitsForTiles (s : State) (p : Nat) (w : Work) : Bool :=
  w.phase = .held && !s.heldApart p w.slot w && s.tilesHold p w &&
  (match s.frameWait p w.slot (dWaitPipe w.raw) (dWaitSeq w.raw) with | .ready _ => true | _ => false)

/-- The scheduler chooses stops for the descriptors that wait for tiles, while Virkin serves. -/
def chooseStops (s : State) (p : Nat) : State :=
  if !s.serves then s
  else ((s.part p).work.filter (s.waitsForTiles p)).foldl (fun s w =>
    match runPlan w with
    | some id => s.stopBelow p id (dPriority w.raw)
    | none => s) s

/-- TIME_SLICE_EXPIRY: an invocation of equal priority waits, and the running one has had its slice (R310). -/
def timeSlice (s : State) (p : Nat) (id : W64) : State :=
  let slice := s.rdn 0x701C (p + 1)
  match s.findInv p id with
  | none => s
  | some v =>
    let waits := ((s.part p).work.filter (s.waitsForTiles p)).any fun w => match runPlan w with
      | some k => (s.onTilesOf p k).any fun x => x.1.planId = id && x.2.2 = dPriority w.raw && pointLeft x.2.1 v
      | none => false
    if s.serves && slice ≠ 0 && v.resumed + slice ≤ s.time && !v.stopped && v.stop = .none && waits then
      s.updInv p id fun v => { v with stop := .slice, stopTime := s.time }
    else s

/-! ### Hints (R105) -/

/-- Frames that stay pinned once every pin of the partition's plans has its page. -/
def pinLoad (s : State) (p : Nat) : Nat :=
  let pages := ((s.part p).plans.flatMap fun l => NMap.keys l.pins).eraseDups
  let other := ((List.range (s.weightFrames p)).filter fun f => s.frameHeld p f && (match s.frame p f with
    | .page _ _ => decide (f < s.rdn 0x5812 (p + 1)) | _ => true)).length
  other + pages.length

/-- Queue a prefetch of page `n`: none when the queue holds 256 pages. -/
def prefetch (s : State) (p n : Nat) : Option State :=
  if (s.pageFrame p n).isSome || ((s.part p).migrations.any fun m => m.page = n) || (s.pageModel n).any s.isLost then some s
  else if 256 ≤ ((s.part p).migrations.filter Migration.hinted).length then none
  else some (s.updPart p fun x =>
    { x with migrations := x.migrations ++ [⟨n, false, true, none, s.time, [], false⟩] })

/-- The hint of a plan that runs: its first page, and its page count. -/
def hintOf (s : State) (p : Nat) (id : W64) (h kind : Nat) : Option (Nat × Nat) :=
  match s.findPlan p id with
  | none => none
  | some l =>
    if !s.alive || !s.planRuns p id then none
    else match l.active.hints[h]? with
      | some r => if r.kind = kind then some (l.active.wBase / 65536 + r.firstPage, r.pageCount) else none
      | none => none

/-- The pages of a hint in ascending order, each prefetched and then given to `f`; once the queue is full the rest is dropped and counted. -/
def hintPages (s : State) (p first count : Nat) (f : State → Nat → State) : State :=
  let r := (List.range count).foldl (fun (x : State × Nat) i =>
    if x.2 ≠ 0 then (x.1, x.2 + 1)
    else match x.1.prefetch p (first + i) with
      | some t => (f t (first + i), 0)
      | none => (x.1, 1)) (s, 0)
  if r.2 = 0 then r.1 else (r.1.bump32 0x4015 (p + 1) r.2).raise 0x4001 8

/-- PIN of one page for plan `id`. -/
def pinPage (id : W64) (p : Nat) (s : State) (n : Nat) : State :=
  if s.pinCount p n = 0 && s.weightFrames p < s.pinLoad p + 1 + 16 then s.raise 0x4001 7
  else s.updPlan p id fun l => { l with pins := NMap.set (fun _ => 0) l.pins n (NMap.get (fun _ => 0) l.pins n + 1) }

def unpinPage (id : W64) (p : Nat) (s : State) (n : Nat) : State :=
  s.updPlan p id fun l => { l with pins := NMap.set (fun _ => 0) l.pins n (NMap.get (fun _ => 0) l.pins n - 1) }

/-! ### The end of a migration (R104, R132) -/

/-- The requests that waited on a rebuilt page end with DONE_CORRECTED (R132). -/
def markCorrected (s : State) (p : Nat) (id : W64) : State :=
  (s.planGroups p id).foldl (fun s g => s.updGroup g fun x =>
    { x with steps := x.steps.map fun t => { t with corrected := t.lanes.map Prod.snd } })
    (s.updInv p id fun v => { v with corrected := true })

/-- The tiles of the virtual array that slot `k` of plan `id` belongs to: all of them hold together (R33). -/
def arrayTiles (s : State) (p : Nat) (id : W64) (k : Nat) : List Nat :=
  match s.findPlan p id with
  | none => []
  | some l =>
    let slots := match l.active.slots.find? fun x => x.slot = k with
      | some x => if x.gang = 0xFFFF then [k] else (l.active.gangSlots x.gang).map SlotRec.slot
      | none => [k]
    slots.filterMap fun j => l.place[j]?

/-- A page that has been read is written into its frame, and the reads that waited go on (R104, R132). -/
def migrated (s : State) (p n : Nat) : State :=
  match s.pageModel n with
  | none => s
  | some id =>
    match s.findRead p id, (s.part p).migrations.find? fun m => m.page = n with
    | some r, some m =>
      if !s.alive || !r.ready || !s.powered p then s
      else
        let f := m.frame.getD 0
        let s1 := (s.writeFrame p f 0 ((s.pagePlain id).getD (List.replicate 65536 0))).setFrame p f (.page n s.time)
        let s2 := (s1.dropRead p id).updPart p fun x => { x with migrations := x.migrations.filter fun y => y.page ≠ n }
        let s3 := s2.bump64 0x4013 (p + 1) 1
        let s4 := match m.waiters with
          | [] => s3
          | w :: _ => s3.bump64 0x4014 (p + 1) (s.time - w.since)
        let s5 := match r.since with
          | some t => s4.bump64 0x4413 (p + 1) (s.time - t)
          | none => s4
        let s6 := m.waiters.foldl (fun s w =>
          (s.arrayTiles p w.planId w.slot).foldl (fun s t => s.bumpObj64 0x3150 t ((s.time - w.since) * s.tileClock t))
            (s.updPlan p w.planId fun l => { l with fetched := n :: l.fetched })) s5
        if r.parityFor.isSome && !r.standIn then m.waiters.foldl (fun s w => s.markCorrected p w.planId) s6 else s6
    | _, _ => s

/-! ### ABORT (R305) -/

/-- ABORT acts on the earliest-taken descriptor of the partition with the target Seq that has not completed. -/
def abortTarget (s : State) (p slot seq : Nat) : State :=
  match (s.part p).work.find? fun w => w.slot ≠ slot && w.phase ≠ .ended && dSeq w.raw = seq with
  | none => s.endWork p slot 0 0 0 false
  | some w =>
    let s1 :=
      if w.phase = .held then s.endWork p w.slot 0x72 0 0 false
      else match (s.part p).invs.find? fun v => v.slot = w.slot && !v.attend with
        | none => s
        | some v =>
          if v.stopped then s.endInvocation p v.planId 0x72
          else s.updInv p v.planId fun v => { v with stop := if v.stop = .none || v.stop = .abort then .abort else .abortChosen, stopTime := s.time }
    s1.endWork p slot 0 1 0 false

end State

/-! ### The meanings -/

/-- A change of partition p, after which the scheduler chooses its stops. -/
def withStops (p : Fin 128) (o : Host.Outcome State Fault Refusal) : Host.Outcome State Fault Refusal :=
  match o with
  | .next t => .next (t.chooseStops p.val)
  | x => x

def execPlanLoad (d : DescImage) (met : Met) (s : State) : Host.Outcome State Fault Refusal :=
  s.takeDesc 0x01 d [] (State.startPlanLoad met)

def execPlanUnload (d : DescImage) (s : State) : Host.Outcome State Fault Refusal :=
  s.takeDesc 0x02 d [] State.startPlanUnload

def execInvoke (d : DescImage) (met : Met) (s : State) : Host.Outcome State Fault Refusal :=
  withStops d.part (s.takeDesc 0x03 d [] (State.startInvoke met))

def execAbort (d : DescImage) (s : State) : Host.Outcome State Fault Refusal :=
  if d.reorderable then .fault .sealReordered
  else if dOpcode d.raw ≠ 0x04 then .next s
  else .next (s.takeWith d.part.val d.slot.val d.mirror d.raw [] fun t =>
    t.abortTarget d.part.val d.slot.val (dBody d.raw 0 4))

def execChunkDecodeResult (p : Fin 128) (page : PageRef) (failed : List (Fin 17)) (tagOk : Bool) (s : State) :
    Host.Outcome State Fault Refusal :=
  .next (if s.alive then (s.chunkResult p.val (pageId page) (failed.map Fin.val) tagOk).afterRead p.val else s)

def execRebuiltStripeProgrammed (p : Fin 128) (page : PageRef) (s : State) : Host.Outcome State Fault Refusal :=
  .next (if s.alive then (s.rebuiltProgrammed p.val (pageId page)).afterRead p.val else s)

def execStagedPlanStart (p : Fin 128) (planId : W64) (s : State) : Host.Outcome State Fault Refusal :=
  .next (if s.alive then s.stagedStart p.val planId else s)

def execCheapPointReached (p : Fin 128) (planId : W64) (s : State) : Host.Outcome State Fault Refusal :=
  .next (s.cheapPoint p.val planId)

def execInvocationEnd (p : Fin 128) (planId : W64) (met : Met) (s : State) : Host.Outcome State Fault Refusal :=
  .next (s.invocationEnd met p.val planId)

def execHintPrefetch (p : Fin 128) (planId : W64) (hint : Nat) (s : State) : Host.Outcome State Fault Refusal :=
  .next <| match s.hintOf p.val planId hint 1 with
    | some (a, n) => s.hintPages p.val a n fun t _ => t
    | none => s

def execHintPin (p : Fin 128) (planId : W64) (hint : Nat) (s : State) : Host.Outcome State Fault Refusal :=
  .next <| match s.hintOf p.val planId hint 2 with
    | some (a, n) => s.hintPages p.val a n (State.pinPage planId p.val)
    | none => s

def execHintUnpin (p : Fin 128) (planId : W64) (hint : Nat) (s : State) : Host.Outcome State Fault Refusal :=
  .next <| match s.hintOf p.val planId hint 3 with
    | some (a, n) => (List.range n).foldl (fun t i => State.unpinPage planId p.val t (a + i)) s
    | none => s

def execDemandMigration (p : Fin 128) (planId : W64) (slot : Fin 512) (page : Nat) (s : State) :
    Host.Outcome State Fault Refusal :=
  .next (s.demand p.val planId slot.val page)

def execMigrationComplete (p : Fin 128) (page : Nat) (s : State) : Host.Outcome State Fault Refusal :=
  .next (s.migrated p.val page)

def execPreemptStop (p : Fin 128) (planId : W64) (s : State) : Host.Outcome State Fault Refusal :=
  .next (s.preemptStop p.val planId)

def execPreemptResume (p : Fin 128) (planId : W64) (s : State) : Host.Outcome State Fault Refusal :=
  .next (s.preemptResume p.val planId)

def execTimeSliceExpiry (p : Fin 128) (planId : W64) (s : State) : Host.Outcome State Fault Refusal :=
  .next (s.timeSlice p.val planId)

end Sys2Proof.Machine
end

