-- ==== Sys2Proof/Machine/Streams.lean ====
section
/-! DEFINITION. The stream engine: groups and their parameters, OPEN and CLOSE, chunk windows and the checks at take, residency, and admission into steps (R152 to R173). -/

namespace Sys2Proof.Machine

/-! ### The stream parameter record (Table 6-1) -/

namespace Params

def sampleBytes (r : List Byte) : Nat := if field r 8 1 = 0 then 2 else 4
def channels (r : List Byte) : Nat := field r 9 1
def hop (r : List Byte) : Nat := field r 0xA 2
def rate (r : List Byte) : Nat := field r 0xC 4
def chunkFrames (r : List Byte) : Nat := field r 0x10 2
def lookFrames (r : List Byte) : Nat := field r 0x12 1
def stride (r : List Byte) : Nat := field r 0x13 1
def stateBytes (r : List Byte) : Nat := field r 0x14 4
def batch (r : List Byte) : Nat := field r 0x18 2
def kind (r : List Byte) : Nat := field r 0x1A 1
def maxTokens (r : List Byte) : Nat := field r 0x1C 2
def outPerFrame (r : List Byte) : Nat := field r 0x1E 2
def interval (r : List Byte) : Nat := field r 0x20 4
def inLane (r : List Byte) : Nat := field r 0x24 4
def inBase (r : List Byte) : Nat := field r 0x28 6
def outBase (r : List Byte) : Nat := field r 0x30 6
def laneBase (r : List Byte) : Nat := field r 0x38 4
def outLane (r : List Byte) : Nat := field r 0x3C 4

/-- Bytes of a result payload. -/
def payload (r : List Byte) : Nat :=
  if kind r = 0 then 4 + 4 * maxTokens r else 2 * chunkFrames r * outPerFrame r

/-- Bytes of the samples of `n` instants. -/
def samples (r : List Byte) (n : Nat) : Nat := n * channels r * sampleBytes r

/-- Bytes of one lane's input: a whole chunk with its whole look-ahead. -/
def input (r : List Byte) : Nat := samples r ((chunkFrames r + lookFrames r) * hop r)

/-- The smallest power of two, from `b` on, that is at least `n`. -/
def powerFrom : Nat → Nat → Nat → Nat
  | 0, b, _ => b
  | k + 1, b, n => if n ≤ b then b else powerFrom k (2 * b) n

/-- GroupBerthBytes (R153). -/
def berth (r : List Byte) : Nat := powerFrom 32 1024 (stateBytes r)

/-- Frames of a swap slot (R155). -/
def swapFrames (r : List Byte) : Nat := (stateBytes r + 16384 + 65535) / 65536

/-- The record keeps the ranges of Table 6-1 (R156). -/
def ok (r : List Byte) : Bool :=
  r.length = 64 && field r 8 1 ≤ 1 && 1 ≤ channels r && channels r ≤ 8 && 1 ≤ hop r && hop r ≤ 4096 &&
  (rate r = 8000 || rate r = 16000 || rate r = 32000 || rate r = 48000) &&
  1 ≤ chunkFrames r && chunkFrames r ≤ 256 && lookFrames r ≤ 64 && 1 ≤ stride r && stride r ≤ 64 &&
  chunkFrames r % stride r = 0 && 64 ≤ stateBytes r && stateBytes r ≤ 262144 && stateBytes r % 64 = 0 &&
  1 ≤ batch r && batch r ≤ 2048 && kind r ≤ 1 && field r 0x1B 1 = 0 && maxTokens r ≤ 1024 &&
  outPerFrame r ≤ 4096 && field r 0x2E 2 = 0 && field r 0x36 2 = 0

end Params

namespace State

/-! ### Groups (R152) -/

def groupPart (s : State) (g : Nat) : Nat := s.rdn 0x5100 (g + 1)
def groupModel (s : State) (g : Nat) : Nat := s.rdn 0x5101 (g + 1)
def groupPlan (s : State) (g : Nat) : W64 := s.rd 0x5102 (g + 1)
def groupBound (s : State) (g : Nat) : Bool := g < 64 && s.groupPart g < 128

/-- The group's stream parameter record; empty when its model slot holds none. -/
def params (s : State) (g : Nat) : List Byte :=
  if !s.groupBound g then []
  else match s.modelPlan (s.groupModel g) (s.groupPlan g) with
    | some e => if e.kind = 1 then e.params else []
    | none => []

/-- The plan that makes the group RUNNING. -/
def groupLoaded (s : State) (g : Nat) : Option Loaded :=
  if !s.groupBound g then none
  else (s.findPlan (s.groupPart g) (s.groupPlan g)).filter fun l => l.model = s.groupModel g

def groupRunning (s : State) (g : Nat) : Bool := (s.groupLoaded g).isSome

/-- Open streams of a group. -/
def groupStreams (s : State) (g : Nat) : List Nat :=
  (s.openStreams (s.groupPart g)).filter fun n => (s.stream n).group = g

/-- Priority of an invocation's descriptor. -/
def invPriority (s : State) (p : Nat) (v : Invocation) : Nat :=
  match s.findWork p v.slot with
  | some w => dPriority w.raw
  | none => 0

/-- Tiles of the group's plan. -/
def groupTiles (s : State) (g : Nat) : List Nat := ((s.groupLoaded g).map Loaded.place).getD []

/-- An invocation of priority 3 waits for the group's tiles or runs on them (R310). -/
def groupPreempted (s : State) (g : Nat) : Bool :=
  let p := s.groupPart g
  let tiles := s.groupTiles g
  let on (id : W64) : Bool := match s.findPlan p id with
    | some l => l.place.any tiles.contains
    | none => false
  ((s.part p).invs.any fun v => s.invPriority p v = 3 && on v.planId) ||
  ((s.part p).work.any fun w => dPriority w.raw = 3 && s.waitsForTiles p w &&
    (match runPlan w with | some id => on id | none => false))

/-- HoldReason of `GroupState`: LEASE, HANDOFF, POWER, PREEMPT from bit 0 (Table 6-14, R183). -/
def holdReason (s : State) (g : Nat) : Nat :=
  if !s.groupRunning g then 0
  else b2n (s.rdn 0x2100 3 ≠ 1) + 2 * b2n s.startsHold + 4 * b2n (!s.powered (s.groupPart g)) +
    8 * b2n (s.groupPreempted g)

/-- `5105` GroupState (Table 6-14). -/
def groupState (s : State) (g : Nat) : Nat :=
  let h := s.holdReason g
  (s.group g).steps.length * 65536 + h * 16 +
    (if !s.groupBound g then 0 else if !s.groupRunning g then 1 else if h ≠ 0 then 3 else 2)

/-- `5200` StreamState (Table 6-15). -/
def streamState (s : State) (n : Nat) : Nat :=
  let x := s.stream n
  let code := match x.state with
    | .free => 0 | .idle => 1 | .frozen => 2 | .exporting => 3 | .moved => 4 | .failed => 5
  if x.state = .free then 0
  else
    let held := (x.chunks.filter fun c => !c.inStep).foldl (fun a c => a ||| 2 ^ (c.slot % 4)) 0
    x.group * 67108864 + held * 65536 + 32 * b2n x.berth.isSome + 16 * b2n (x.chunks.any Chunk.inStep) + code

/-! ### Residency (R153, R170, R171) -/

/-- The stream that holds berth `k` of a group. -/
def berthHolder (s : State) (g k : Nat) : Option Nat :=
  (s.groupStreams g).find? fun n => (s.stream n).berth = some k

/-- Slice offset of berth `k`. -/
def berthOff (s : State) (g k : Nat) : Nat := Params.laneBase (s.params g) + k * Params.berth (s.params g)

/-- A stream that has no chunk taken or in a step. -/
def atRest (s : State) (n : Nat) : Bool := (s.stream n).chunks.isEmpty

/-- Berths at or beyond `GroupActiveMax` are taken from streams at rest, and retire (R153). -/
def retireBerths (s : State) (g : Nat) : State :=
  ((s.groupStreams g).filter fun n => s.atRest n &&
      (match (s.stream n).berth with | some k => decide (s.rdn 0x5104 (g + 1) ≤ k) | none => false)).foldl
    (fun s n => s.updStream n fun x => { x with berth := none }) s

/-- The berth for a stream that asks: a free one, else that of the stream at rest whose last step ended longest ago. -/
def chooseBerth (s : State) (g : Nat) : Option (Nat × Option Nat) :=
  let own := List.range (s.rdn 0x5104 (g + 1))
  match own.find? fun k => (s.berthHolder g k).isNone with
  | some k => some (k, none)
  | none =>
    let rest := own.filterMap fun k => match s.berthHolder g k with
      | some n => if s.atRest n then some (k, n) else none
      | none => none
    (rest.foldl (fun (b : Option (Nat × Nat)) (x : Nat × Nat) => match b with
      | none => some x
      | some y => if (s.stream x.2).lastEnd < (s.stream y.2).lastEnd then some x else some y) none).map
      fun x => (x.1, some x.2)

/-- Streams that wait for a berth, in order of take. -/
def waiters (s : State) (g : Nat) : List Nat :=
  (s.group g).want.filter fun n => (s.stream n).chunks.any fun c => c.phase = .wantBerth

/-- Stream `n` receives berth `k`: its swap-in begins. -/
def giveBerth (s : State) (g n k : Nat) (old : Option Nat) : State :=
  let s1 := match old with
    | some o => s.updStream o fun x => { x with berth := none }
    | none => s
  let s2 := s1.updStream n fun x =>
    { x with berth := some k
             chunks := x.chunks.map fun c => if c.phase = .wantBerth then { c with phase := .swapping } else c }
  (s2.updGroup g fun x => { x with want := (s.waiters g).filter (· ≠ n) }).bump64 0x510C (g + 1) 1

/-- The first waiting stream receives a berth when there is one for it (R170). -/
def grantBerth (s : State) (g : Nat) : State :=
  let s0 := s.retireBerths g
  match s0.waiters g, s0.chooseBerth g with
  | n :: _, some (k, old) => s0.giveBerth g n k old
  | _, _ => s0

/-- The swap-in of stream `n` ends: its chunks are ready. -/
def swapIn (s : State) (n : Nat) : State :=
  let x := s.stream n
  match s.streamPart n, x.berth with
  | some p, some k =>
    if !(x.chunks.any fun c => c.phase = .swapping) then s
    else
      (s.writeState p (s.berthOff x.group k) x.image).updStream n fun x =>
        { x with chunks := x.chunks.map fun c => if c.phase = .swapping then { c with phase := .ready s.time } else c }
  | _, _ => s

/-! ### OPEN and CLOSE (R157, R158) -/

/-- Number of a tenant's stream. -/
def streamNo (s : State) (p i : Nat) : Nat := s.streamBase p + i

/-- OPEN once nothing holds it. -/
def startOpen (s : State) (p : Nat) (w : Work) : State :=
  let i := dBody w.raw 0 2
  let g := dBody w.raw 2 1
  let n := s.streamNo p i
  let fail (st : Nat) := s.endWork p w.slot st 0 0 false
  if s.streamCount p ≤ i then fail 0x10
  else if !s.groupRunning g || s.groupPart g ≠ p then fail 0x40
  else if (s.stream n).state ≠ .free then fail 0x44
  else
    let r := s.params g
    match s.tryPin p (Params.swapFrames r) (.swap n) with
    | none => fail 0x25
    | some t =>
      (t.setStream n { Stream.free with
        state := .idle, group := g, next := BitVec.ofNat 32 (dBody w.raw 4 4), tag := BitVec.ofNat 64 (dBody w.raw 8 8)
        image := List.replicate (Params.stateBytes r) 0 }).endWork p w.slot 0 0 0 false

/-- Free a stream's berth and swap slot with all it holds: the context is FREE (R158). -/
def freeStream (s : State) (p n : Nat) : State :=
  (s.emptyFrames p fun u => match u with | .swap k => k = n | _ => false).setStream n Stream.free

/-- A stream's chunk is in a step, or its export runs: a CLOSE waits. -/
def closeWaits (s : State) (n : Nat) : Bool :=
  (s.stream n).chunks.any Chunk.inStep || (s.stream n).exporting.isSome

/-- The last part of a CLOSE. -/
def finishClose (s : State) (p n : Nat) : State :=
  match (s.stream n).closing with
  | none => s
  | some slot =>
    if s.closeWaits n then s
    else ((s.endChunks p n (fun _ => true) 0x72).freeStream p n).endWork p slot 0 0 0 false

/-- A feed holds the context of stream `n` (R291). -/
def feedHolds (s : State) (n : Nat) : Bool := s.audio.feeds.any fun x => x.2.stream = some n

/-- CLOSE once nothing holds it. While an export runs its chunks still complete, and the CLOSE acts after it (Table 6-11). -/
def startClose (s : State) (p : Nat) (w : Work) : State :=
  let i := dBody w.raw 0 2
  let n := s.streamNo p i
  if s.streamCount p ≤ i then s.endWork p w.slot 0x10 0 0 false
  else if (s.stream n).state = .free || (s.stream n).closing.isSome then s.endWork p w.slot 0x40 0 0 false
  else if s.feedHolds n then s.endWork p w.slot 0x44 0 0 false
  else
    let s1 := if (s.stream n).exporting.isSome then s else s.endChunks p n (fun c => !c.inStep) 0x72
    (s1.updStream n fun x => { x with closing := some w.slot }).finishClose p n

/-! ### Chunk windows (R160 to R165) -/

/-- Fields of a chunk slot (Table 6-4). -/
def slotChunk (h : List Byte) (slot : Nat) (time gap : Nat) (payload : List Byte) : Chunk :=
  { seq := BitVec.ofNat 32 (field h 0 4), slot := slot, samples := field h 4 2, look := field h 6 2
    reset := if field h 0xA 2 % 2 = 1 then some (field h 8 2) else none
    final := bit (field h 0xA 2) 1, irq := bit (field h 0xA 2) 2
    resultAddr := field h 0x10 8, resultBytes := field h 0x18 4, tag := BitVec.ofNat 64 (field h 0x20 8)
    sealTime := time, gap := gap, feed := none, behind := [], payload := payload, phase := .wantBerth }

/-- Distance of a ChunkSeq from the next expected one. -/
def seqGap (c x : W32) : Nat := (c - x).toNat

/-- The checks of R162 on stream `n` with its group's record: 0, or the status of the first that fails. -/
def chunkCheck (s : State) (n : Nat) (h : List Byte) (slot : Nat) : Nat :=
  let x := s.stream n
  let r := s.params x.group
  let c := slotChunk h slot 0 0 []
  let full := Params.chunkFrames r * Params.hop r
  if x.state = .free || !s.groupBound x.group || x.closing.isSome then 0x40
  else if x.state = .moved || x.state = .exporting || x.exporting.isSome then 0x43
  else if !(allZero (slice h 0xC 4) && allZero (slice h 0x1C 4) && allZero (slice h 0x28 20) && field h 0xA 2 < 8) then 0x12
  else if c.seq.toNat % 4 ≠ slot || 2147483648 ≤ seqGap c.seq x.next then 0x41
  else if 32704 < Params.samples r (c.samples + c.look) then 0x10
  else if c.resultBytes < 32 + Params.payload r then 0x10
  else if c.samples ≠ full && (!c.final || full < c.samples || c.samples % Params.hop r ≠ 0) then 0x12
  else if Params.lookFrames r * Params.hop r < c.look || c.look % Params.hop r ≠ 0 then 0x12
  else match c.reset with
    | some f => if c.samples / Params.hop r ≤ f || f % Params.stride r ≠ 0 then 0x42
        else if x.state = .failed && f ≠ 0 then 0x22 else 0
    | none => if x.state = .failed then 0x22 else 0

/-- Stream `n` asks for a berth if it has none (R170). -/
def wantBerth (s : State) (g n : Nat) : State :=
  if (s.stream n).berth.isSome then s
  else
    let s1 := if (s.group g).want.contains n then s else s.updGroup g fun x => { x with want := x.want ++ [n] }
    if s1.waiters g = [n] then
      match s1.chooseBerth g with
      | some (k, old) => s1.giveBerth g n k old
      | none => s1
    else s1

/-- The EXPORTs of partition p that are taken, not started, and name stream `n`. -/
def heldExports (s : State) (p n : Nat) : List W32 :=
  ((s.part p).work.filter fun w => w.phase = .held && dOpcode w.raw = 0x43 && s.streamNo p (dBody w.raw 0 2) = n).map
    fun w => BitVec.ofNat 32 (dSeq w.raw)

/-- An EXPORT sealed before the chunk may still move its stream away. -/
def behindExport (s : State) (p n : Nat) (c : Chunk) : Bool := c.behind.any (s.heldExports p n).contains

/-- The chunk in a slot is taken: it passes the checks and waits for its step, or ends at once (R162, R163, R402). `feed` names the feed that sealed it. -/
def takeChunk (s : State) (p n slot : Nat) (h payload : List Byte) (feed : Option Nat) : State :=
  let x := s.stream n
  let bad (st : Nat) (flag : Bool) : State :=
    let c := { slotChunk h slot s.time 0 [] with feed := feed }
    let s1 := if flag then s.raise 0x5001 1 else s
    s1.endChunk p n c st false
  if (s.part p).fenced then bad 0x70 false
  else if !s.feature 1 then bad 0x12 false
  else if s.chunkCheck n h slot ≠ 0 then bad (s.chunkCheck n h slot) true
  else
    let c0 := slotChunk h slot s.time 0 payload
    let gap := seqGap c0.seq x.next
    let swapping := x.chunks.any fun d => d.phase = .swapping
    let phase : ChunkPhase := if x.berth.isNone then .wantBerth else if swapping then .swapping else .ready s.time
    let c := { c0 with gap := gap, feed := feed, behind := s.heldExports p n, phase := phase }
    let s1 := s.updStream n fun y =>
      { y with chunks := y.chunks ++ [c], next := c.seq + 1, gap := y.gap + gap
               state := if y.state = .failed then .idle else y.state }
    s1.wantBerth x.group n

/-- The device holds chunk slot `j` of stream `n` (R164). -/
def holdsSlot (s : State) (n j : Nat) : Bool := (s.stream n).chunks.any fun c => c.slot = j && !c.inStep

def countOverrun (s : State) (n : Nat) : State := (s.bumpObj32 0x5300 n 1).raise 0x5001 0

/-- A write of `data` at byte `off` of chunk slot `j` of tenant stream `i`, from the virtual function's aperture (R161, R164, R165, R402). -/
def writeChunk (s : State) (p i j off : Nat) (data : List Byte) : State :=
  let n := s.streamNo p i
  let x := s.stream n
  let seals := off ≤ 0x3C && 0x40 ≤ off + data.length
  if !s.serves || !s.enabled p || 2 ^ (s.link.aperture - 17) ≤ i then s
  else if s.streamCount p ≤ i || x.state = .free || (seals && !s.takesSeals p false) || s.feedHolds n then s.raise 0x5001 9
  else if s.holdsSlot n j then s.countOverrun n
  else
    let old := NMap.get (fun _ => []) x.window j
    let bs := slice old 0 off ++ data ++ old.drop (off + data.length)
    let s1 := s.updStream n fun y => { y with window := NMap.set (fun _ => []) y.window j bs }
    if seals && field bs 0x3C 4 = 0x5EA10000 + field bs 0 4 % 65536 then
      s1.takeChunk p n j (slice bs 0 64) (bs.drop 64) none
    else s1

/-! ### Admission (R166, R167, R310) -/

/-- The stream's record waits in the device (R308). -/
def recordWaits (s : State) (p n : Nat) : Bool :=
  (s.part p).waiting.any fun r => r.chunk && r.stream = n - s.streamBase p

/-- The earliest-taken ready chunk of stream `n` that has not entered a step, if it makes the cut of the tick: since when it is ready. -/
def candidate (s : State) (n : Nat) : Option (Nat × Chunk) :=
  ((s.stream n).chunks.findSome? fun c => match c.phase with
    | .ready t => some (t, c)
    | _ => none).filter fun x => x.1 + 20 ≤ s.time

/-- Candidates of a tick in order of readiness, ties by lower stream number. -/
def candidates (s : State) (g : Nat) : List (Nat × Nat × Chunk) :=
  ((s.groupStreams g).filterMap fun n => (s.candidate n).map fun x => (x.1, n, x.2)).mergeSort
    fun a b => a.1 < b.1 || (a.1 = b.1 && a.2.1 ≤ b.2.1)

/-- A candidate may enter a step now. -/
def admits (s : State) (p n : Nat) (c : Chunk) : Bool :=
  !((s.stream n).chunks.any Chunk.inStep) && !s.recordWaits p n && !s.behindExport p n c &&
  ((s.stream n).closing.isNone || (s.stream n).exporting.isSome) && (s.rdn 0x2100 3 = 1 || s.feedHolds n) &&
  ((s.stream n).state = .idle || (s.stream n).state = .exporting || c.reset = some 0) && (s.stream n).state ≠ .frozen

/-- Clock of a plan's first lead tile in MHz. -/
def leadClock (s : State) (l : Loaded) : Nat :=
  s.tileClock ((l.place[((l.active.gangs.head?.map GangRec.lead).getD 0)]?).getD 0)

/-- No step of the group can start at this tick: 16 in flight, the interval, a hold, or an invocation on its tiles (R167, R310). -/
def tickHolds (s : State) (g : Nat) (l : Loaded) : Bool :=
  let p := s.groupPart g
  16 ≤ (s.group g).steps.length || 2 ≤ s.holdReason g || l.place.isEmpty ||
  (match (s.group g).lastStart with
    | some t => decide ((s.time - t) * s.leadClock l < Params.interval (s.params g))
    | none => false) ||
  (l.place.any fun t => s.shifting t || !s.usable t) ||
  ((s.part p).invs.any fun v => !v.stopped && v.planId ≠ l.plan.planId &&
    (match s.findPlan p v.planId with | some k => k.place.any l.place.contains | none => false)) ||
  s.stoppedAbove p l.plan.planId 2

/-- The samples that a step writes for a lane: the payload, and zeros for what is missing (R174). -/
def laneInput (r : List Byte) (c : Chunk) : List Byte :=
  let n := Params.samples r (c.samples + c.look)
  slice (c.payload.take n) 0 (max n (Params.input r))

/-- Candidate `x` enters lane `b` of step `k`: its payload is written and its slot released (R164, R167). A mark at frame 0 does not read the carried state (R173). -/
def admitted (g k : Nat) (s : State) (x : Nat × Nat × Chunk) (b : Nat) : State :=
  let p := s.groupPart g
  let n := x.2.1
  let c := x.2.2
  let r := s.params g
  let s1 := (s.releaseChunk n c.slot).updStream n fun y =>
    { y with chunks := y.chunks.map fun d => if d.seq = c.seq && d.slot = c.slot then { d with phase := .inStep k } else d
             state := if y.state = .failed then (if y.exporting.isSome then .exporting else .idle) else y.state }
  let s2 := s1.writeWindow p (Params.inBase r - 0x001000000000 + b * Params.inLane r) (laneInput r c)
  if c.reset = some 0 then
    match (s.stream n).berth with
    | some q => s2.writeState p (s.berthOff g q) (List.replicate (Params.berth r) 0)
    | none => s2
  else s2

/-- A candidate that a tick leaves behind (R167). -/
def passOver (s : State) (g : Nat) : State := (s.bump32 0x5109 (g + 1) 1).raise 0x5001 2

end State

/-! ### What a step met -/

/-- The lane of a step that an error lies in: its stream, and whether it is the carried state (Table 6-11). -/
def laneOf (s : State) (g : Nat) (t : Step) (a : MemPlace) : Option (Nat × Bool) :=
  let r := s.params g
  match a with
  | .frame f _ => match s.frame (s.groupPart g) f with
    | .swap n => some (n, true)
    | _ => none
  | .view v =>
    match region v with
    | some (.state o) =>
      (t.lanes.find? fun x => match (s.stream x.2).berth with
        | some k => decide (s.berthOff g k ≤ o ∧ o < s.berthOff g k + Params.berth r)
        | none => false).map fun x => (x.2, true)
    | some (.window _) =>
      (t.lanes.find? fun x =>
        (Params.inBase r + x.1 * Params.inLane r ≤ v && v < Params.inBase r + (x.1 + 1) * Params.inLane r) ||
        (Params.outBase r + x.1 * Params.outLane r ≤ v && v < Params.outBase r + (x.1 + 1) * Params.outLane r)).map
        fun x => (x.2, false)
    | _ => none

namespace State

/-- Stream `n`'s chunk in step `k` ends with a status, and leaves the step. -/
def endLane (s : State) (p g k n status : Nat) : State :=
  let s1 := s.updGroup g fun x =>
    { x with steps := x.steps.map fun t => if t.num = k then { t with lanes := t.lanes.filter fun y => y.2 ≠ n } else t }
  s1.endChunks p n Chunk.inStep status

/-- Streams of step `k` met a corrected error (R113). -/
def markStep (s : State) (g k : Nat) (ns : List Nat) : State :=
  s.updGroup g fun x =>
    { x with steps := x.steps.map fun t => if t.num = k then { t with corrected := t.corrected ++ ns } else t }

/-- One error that step `k` met: it touches the lane whose state or payload it lies in, or every lane (R113, R114, Table 6-11). A chunk whose mark is at frame 0 goes on from a zero state (R173). -/
def stepError (p g k : Nat) (place : List Nat) (s : State) (e : MemErr) : State :=
  match (s.group g).steps.find? fun t => t.num = k with
  | none => s
  | some t =>
    let who := laneOf s g t e.place
    let (s1, st) := s.meetErr p place e
    match who with
    | some (n, carried) =>
      if st = 0 then s1
      else if st = 1 then s1.markStep g k [n]
      else if !carried then s1.endLane p g k n st
      else if ((s.stream n).chunks.any fun c => c.inStep && c.reset = some 0) then
        match (s.stream n).berth with
        | some q => s1.writeState p (s.berthOff g q) (List.replicate (Params.berth (s.params g)) 0)
        | none => s1
      else s1.failStream p n
    | none =>
      if st = 0 then s1
      else if st = 1 then s1.markStep g k (t.lanes.map Prod.snd)
      else t.lanes.foldl (fun s x => s.endLane p g k x.2 st) s1

/-- Everything that step `k` met. -/
def stepMeets (s : State) (p g k : Nat) (place : List Nat) (met : Met) : State :=
  let s1 := met.errs.foldl (stepError p g k place) s
  if met.hostFault then
    match (s1.group g).steps.find? fun t => t.num = k with
    | none => s1
    | some t => t.lanes.foldl (fun s x => s.endLane p g k x.2 0x23) (s1.raise 0x4001 10)
  else s1

/-- A plan that lost its placement is placed again (R49). -/
def placeGroup (s : State) (g : Nat) : State :=
  match s.groupLoaded g with
  | none => s
  | some l =>
    if !l.place.isEmpty then s
    else match s.placement (s.groupPart g) l.active with
      | some t => s.updPlan (s.groupPart g) l.plan.planId fun x => { x with place := t }
      | none => s

/-- GROUP_TICK: the candidates that can go enter a new step; each one left behind is passed over (R166, R167). -/
def groupTick (s0 : State) (g : Nat) (met : Met) : State :=
  if !s0.serves || (s0.part (s0.groupPart g)).fenced then s0
  else
    let s := s0.placeGroup g
    match s.groupLoaded g with
    | none => s0
    | some l =>
      let p := s.groupPart g
      let all := s.candidates g
      let hold := s.tickHolds g l
      let go := if hold then [] else (all.filter fun x => s.admits p x.2.1 x.2.2).take (Params.batch (s.params g))
      let left := all.filter fun x => !(go.map fun y => y.2.1).contains x.2.1
      let s1 := left.foldl (fun s _ => s.passOver g) s
      let s2 := if hold && !all.isEmpty then s1.stopBelow p l.plan.planId 2 else s1
      if go.isEmpty then s2
      else
        let k := (s.group g).nextNum
        let s3 := go.zipIdx.foldl (fun s x => admitted g k s x.1 x.2) (s2.runOn p l.plan.planId l.place)
        let t : Step :=
          { num := k, start := s.time, lanes := go.zipIdx.map fun x => (x.2, x.1.2.1), replayed := false, corrected := [] }
        let s4 := (s3.updGroup g fun x =>
          { x with steps := x.steps ++ [t], lastStart := some s.time, nextNum := k + 1 }).bump64 0x5108 (g + 1) 1
        s4.stepMeets p g k l.place met

end State

/-! ### The meanings -/

/-- OPEN: the descriptor of operation code 0x40. -/
def execOpenStream (d : DescImage) (s : State) : Host.Outcome State Fault Refusal :=
  s.takeDesc 0x40 d [] State.startOpen

/-- CLOSE: the descriptor of operation code 0x41. -/
def execClose (d : DescImage) (s : State) : Host.Outcome State Fault Refusal :=
  s.takeDesc 0x41 d [] State.startClose

/-- CLOSE_COMPLETE: what the CLOSE waited for has ended. -/
def execCloseComplete (stream : Fin 16384) (s : State) : Host.Outcome State Fault Refusal :=
  .next <| match s.streamPart stream.val with
    | some p => if s.alive then s.finishClose p stream.val else s
    | none => s

/-- CHUNK_SEAL: the seal write of a chunk slot whose other bytes are there. R389 gives no effect to a seal behind which an earlier write of its slot could be reordered. -/
def execChunkSeal (p : Fin 128) (stream : Fin 16384) (slot : Fin 4) (header : BitVec 512) (payload : List Byte)
    (reorderable : Bool) (s : State) : Host.Outcome State Fault Refusal :=
  if reorderable then .fault .sealReordered
  else .next (s.writeChunk p.val stream.val slot.val 0 (leBytes 64 header.toNat ++ payload.take 32704))

/-- CHUNK_WINDOW_WRITE: a write into a stream's chunk window. -/
def execChunkWindowWrite (p : Fin 128) (stream : Fin 16384) (slot : Fin 4) (offset : Fin 32768) (data : List Byte) (s : State) :
    Host.Outcome State Fault Refusal :=
  .next (s.writeChunk p.val stream.val slot.val offset.val (data.take (32768 - offset.val)))

/-- SWAP_IN_DONE. -/
def execSwapInDone (stream : Fin 16384) (s : State) : Host.Outcome State Fault Refusal :=
  .next (if s.alive then s.swapIn stream.val else s)

/-- BERTH_GRANT. -/
def execBerthGrant (g : Fin 64) (s : State) : Host.Outcome State Fault Refusal :=
  .next (if s.alive then s.grantBerth g.val else s)

/-- GROUP_TICK. -/
def execGroupTick (g : Fin 64) (met : Met) (s : State) : Host.Outcome State Fault Refusal :=
  .next (s.groupTick g.val met)

end Sys2Proof.Machine
end

