-- ==== Sys2Proof/Machine/Wake.lean ====
section
/-! DEFINITION. Demands on the power state, wakes, and the host wake (R323, R326, R327, R397). -/

namespace Sys2Proof.Machine
namespace State

def updPower (s : State) (f : Power → Power) : State := { s with power := f s.power }
def updLink (s : State) (f : Link → Link) : State := { s with link := f s.link }

/-- The link is up: trained, with PERST_N deasserted. -/
def linkUp (s : State) : Bool := !s.link.perst && s.link.width ≠ 0

/-! ### Demands (Table 12-4) -/

/-- State that taken work demands: ACTIVE, or WATCH when only the sentinel partition has some. -/
def workDemand (s : State) : Nat :=
  let ps := (List.range 128).filter s.partWork
  if ps.isEmpty then 0 else if ps.all fun p => s.sentinel = some p then 3 else 4

/-- A stream context is not FREE, or a sequence is OPEN or FAILED. -/
def contextsHeld (s : State) : Bool :=
  (NMap.keys s.streams).any (fun n => (s.stream n).state ≠ .free) ||
  (NMap.keys s.seqs).any fun q => (s.seq q).state ≠ .free

def linkDemand (s : State) : Bool := s.link.dstate = 0 && s.linkUp && s.link.aspm ≠ 3

/-- A cascade stage is starting or running. -/
def stageOn (k : Nat) : Bool := k = 1 || k = 2

def cascadeDemand (s : State) : Nat :=
  if stageOn s.audio.stage2 then 4 else if stageOn s.audio.stage1 then 3 else 0

/-- Channels of the listening set: channel and microphone (R281). -/
def listening (s : State) : List (Nat × Nat) :=
  ((List.range 8).map fun i => (i, s.rdn 0x6830 (i + 1))).filter fun x => x.2 < 32

/-- The stage 0 plan is in the roost, and the roost is not held (Table 13-4). -/
def roostLoaded (s : State) : Bool := s.audio.plan.isSome && !s.faults.roostHeld

def roostDemand (s : State) : Bool := s.roostLoaded && !s.listening.isEmpty

/-- The target state: the highest demanded (R323). -/
def powerTarget (s : State) : Nat :=
  [s.rdn 0x8002 1, s.workDemand, 3 * b2n s.contextsHeld, 3 * b2n s.bedrock.job.isSome, 3 * b2n s.linkDemand,
    s.cascadeDemand, 2 * b2n s.roostDemand, s.power.wakeDemand].foldl max 1

/-- `8004:01` PowerState (Table 12-13). A change of state is one step of this model, so IN_TRANSITION reads 0. -/
def powerState (s : State) : Nat :=
  b2n (s.power.wakeDemand ≠ 0) * 2 ^ 19 + b2n s.roostDemand * 2 ^ 18 + b2n (s.cascadeDemand ≠ 0) * 2 ^ 17 +
  b2n s.linkDemand * 2 ^ 16 + b2n s.bedrock.job.isSome * 2 ^ 15 + b2n s.contextsHeld * 2 ^ 14 +
  b2n (s.workDemand ≠ 0) * 2 ^ 13 + b2n (1 < s.rdn 0x8002 1) * 2 ^ 12 + s.powerTarget * 16 + s.power.state

/-! ### Wakes (R326, R327) -/

/-- The 32.768 kHz cycle of a device time in µs. -/
def crystalCycle (t : Nat) : Nat := t * 32768 / 1000000

/-- A wake of source code `code` raises a demand for `target`; 0 is no wake. The first of a DORMANT or LISTEN period is recorded, and of wakes in one crystal cycle the lowest source code. -/
def wake (s : State) (code target : Nat) : State :=
  if !(s.power.state = 1 || s.power.state = 2) || target = 0 then s
  else
    let s1 :=
      if !s.power.woken then ((s.wrn 0x8004 2 code).wrn 0x8004 3 s.time).raise 0x8001 1
      else if crystalCycle (s.rdn 0x8004 3) = crystalCycle s.time && code % 16 < s.rdn 0x8004 2 % 16 then
        s.wrn 0x8004 2 code
      else s
    s1.updPower fun x => { x with woken := true, wakeDemand := max x.wakeDemand (if target ≤ s.power.state then 0 else target) }

/-- A wake whose target a field of `WakeConfig` gives: 1 LISTEN, 2 WATCH, 3 ACTIVE, 0 no wake (Table 12-14). -/
def wakeField (s : State) (code lo : Nat) : State :=
  let f := bits (s.rdn 0x8004 4) (lo + 1) lo
  s.wake code (if f = 0 then 0 else f + 1)

/-- The LTR in force, in µs (R396). -/
def ltr (s : State) : Nat := if s.workDemand = 0 then 3000 else 20

/-- The device raises the host wake (R397). -/
def hostWake (s : State) : State :=
  let s1 := s.raise 0x2101 3
  if s.link.dstate = 4 || s.link.perst then s1.updLink fun l => { l with wakeN := true }
  else if s.link.dstate = 0 then (s1.updLink fun l => { l with aspm := 0 }).msix 0 (s.rdn 0x2102 3)
  else if s.link.pmeEn then (s1.emit .pme).updLink fun l => { l with pmeStatus := true }
  else s1

end State
end Sys2Proof.Machine
end

