-- ==== Sys2Proof/Machine/Audio.lean ====
section
/-! DEFINITION. Listening: the ring and its marks, stage 0, feeds, and the wake cascade (R275 to R296). -/

namespace Sys2Proof.Machine

/-- The integer nearest to v / 256, ties to even. -/
def rne8 (v : Int) : Int :=
  let q := v / 256
  let r := v % 256
  if r < 128 then q else if 128 < r then q + 1 else if q % 2 = 0 then q else q + 1

def clampInt (lo hi v : Int) : Int := max lo (min hi v)

/-- Stage 5 of a decimation chain: gain and saturation (R278). -/
def stage5 (s : BitVec 24) (gain : Nat) : Int :=
  clampInt (-8388608) 8388607 ((s.toInt * (gain : Int) + 128) / 256)

/-- A stage 5 output as int16 (R278, R288). -/
def sample16 (v : Int) : W16 := BitVec.ofInt 16 (clampInt (-32768) 32767 (rne8 v))

/-- A feed's sample in its stream's format: int16, or int32 with the ring sample in [31:16] or the 24-bit sample in [31:8] (R288). -/
def ringSampleBytes (wide : Bool) (v : W16) : List Byte := if wide then [0, 0] ++ leBytes 2 v.toNat else leBytes 2 v.toNat
def mainSampleBytes (wide : Bool) (v : Int) : List Byte :=
  if wide then 0 :: leBytes 3 (BitVec.ofInt 24 v).toNat else leBytes 2 (sample16 v).toNat

def Feed.off : Feed := ⟨none, 0, []⟩

/-! ### The decimation chain (R277) -/

def Chain.zero : Chain := ⟨List.replicate 5 0, List.replicate 5 0, List.replicate 19 0, List.replicate 63 0, 0⟩

/-- A chain of which nothing is known. -/
def Chain.free (n : Nat) : Chain :=
  let v (i k : Nat) : List Int := (List.range k).map fun j => Config.chainValue n (i + j)
  ⟨v 0 5, v 5 5, v 10 19, v 29 63, Config.chainValue n 92⟩

/-- One step of the CIC's integrators. -/
def integrate : List Int → Int → List Int
  | [], _ => []
  | a :: l, x => (a + x) :: integrate l (a + x)

/-- One step of the CIC's combs: what they hold, and the output. -/
def combs : List Int → Int → List Int × Int
  | [], x => ([], x)
  | a :: l, x => (x :: (combs l (x - a)).1, (combs l (x - a)).2)

/-- A filter's last inputs with a new one. -/
def shiftIn (l : List Int) (x : Int) : List Int := (x :: l).take l.length

/-- Stage 1: R bits give one CIC output, which enters HB1. A one counts 1 and a zero −1. -/
def Chain.cic (r : Nat) (c : Chain) (bs : List Bool) : Chain :=
  let i := bs.foldl (fun l b => integrate l (if b then 1 else -1)) c.integ
  let y := combs c.comb (i.getLastD 0)
  { c with integ := i, comb := y.1, half1 := shiftIn c.half1 (Config.cicScale r y.2) }

/-- Stage 2: two CIC outputs give one HB1 output, which enters HB2. -/
def Chain.band (r : Nat) (c : Chain) (bs : List Bool) : Chain :=
  let d := (c.cic r (bs.take r)).cic r (bs.drop r)
  { d with half2 := shiftIn d.half2 (Config.halfBand1 d.half1) }

/-- Stages 1 to 4: 4 × R bits give one sample. -/
def Chain.sample (r : Nat) (hpf : Bool) (c : Chain) (bs : List Bool) : Chain × BitVec 24 :=
  let d := (c.band r (bs.take (2 * r))).band r (bs.drop (2 * r))
  let x := Config.halfBand2 d.half2
  if hpf then ({ d with high := (Config.highPass d.high x).1 }, (Config.highPass d.high x).2) else (d, x)

/-- `n` samples of a path with ratio R, from its microphone's bits. -/
def Chain.samples (r : Nat) (hpf : Bool) : Nat → Chain → List Bool → Chain × List (BitVec 24)
  | 0, c, _ => (c, [])
  | n + 1, c, bs =>
    let x := c.sample r hpf (bs.take (4 * r))
    let y := Chain.samples r hpf n x.1 (bs.drop (4 * r))
    (y.1, x.2 :: y.2)

/-- PDM bits as a command carries them: 24 a word, the oldest in bit 0. -/
def pdmBits (ws : List (BitVec 24)) : List Bool := ws.flatMap fun w => (List.range 24).map w.getLsbD

/-- Words that carry the bits of `n` samples at ratio R. -/
def pdmWords (r n : Nat) : Nat := (4 * r * n + 23) / 24

namespace State

def updAudio (s : State) (f : Audio → Audio) : State := { s with audio := f s.audio }

/-! ### Microphones and port clocks (R275, R276, R283) -/

def micGain (s : State) (m : Nat) : Nat := s.rdn 0x6820 (m + 1)
def pdmOn (s : State) (k : Nat) : Bool := bit (s.rdn 0x6810 (k + 1)) 0

/-- The clock that R276 gives port `k`: 0 stopped, 1 listening, 2 active. -/
def portClock (s : State) (k : Nat) : Nat :=
  if 3 ≤ s.power.state then (if s.pdmOn k then 2 else 0)
  else if s.power.state = 2 then (if s.listening.any fun x => x.2 / 8 = k then 1 else 0)
  else 0

/-- Microphone `m` is decoded: its port runs and its mask names it. -/
def decoded (s : State) (m : Nat) : Bool :=
  s.power.state ≠ 0 && NMap.get (fun _ => 0) s.audio.clocks (m / 8) ≠ 0 && bit (s.rdn 0x6810 (m / 8 + 1)) (16 + m % 8)

/-- Stage 4 of port `k`'s chains is active (Table 10-11). -/
def pdmHpf (s : State) (k : Nat) : Bool := bit (s.rdn 0x6810 (k + 1)) 1

/-- CIC ratio of the ring paths of port `k` (Table 10-2); 0 while its clock is stopped. -/
def ringRatio (s : State) (k : Nat) : Nat :=
  match NMap.get (fun _ => 0) s.audio.clocks k with
  | 0 => 0
  | 1 => 12
  | _ => 48

/-- CIC ratio of the main paths of port `k`, which run at the active clock (Table 10-2). -/
def mainRatio (s : State) (k : Nat) : Nat := ([96, 48, 24, 16][bits (s.rdn 0x6810 (k + 1)) 9 8]?).getD 0

def ringChain (s : State) (m : Nat) : Chain := NMap.get (fun _ => Chain.zero) s.audio.ringPath m
def mainChain (s : State) (m : Nat) : Chain := NMap.get (fun _ => Chain.zero) s.audio.mainPath m
def setRingChain (s : State) (m : Nat) (c : Chain) : State :=
  s.updAudio fun a => { a with ringPath := NMap.set (fun _ => Chain.zero) a.ringPath m c }
def setMainChain (s : State) (m : Nat) (c : Chain) : State :=
  s.updAudio fun a => { a with mainPath := NMap.set (fun _ => Chain.zero) a.mainPath m c }

/-- The microphones' bits on their ring paths: `n` samples of each, and zeros where the port's clock is stopped. -/
def ringDecimate (s : State) (n : Nat) (words : List (List (BitVec 24))) : State × List (Nat × Nat × List (BitVec 24)) :=
  s.listening.foldl (fun (a : State × List (Nat × Nat × List (BitVec 24))) x =>
    let r := s.ringRatio (x.2 / 8)
    if r = 0 then (a.1, a.2 ++ [(x.1, x.2, List.replicate n 0)])
    else
      let y := (a.1.ringChain x.2).samples r (s.pdmHpf (x.2 / 8)) n (pdmBits ((words[x.1]?).getD []))
      (a.1.setRingChain x.2 y.1, a.2 ++ [(x.1, x.2, y.2)])) (s, [])

/-- A clock change: the CIC stages of the port's ring paths restart from zero, and a main path at another rate than 16 kHz restarts as a whole (R283). -/
def restartChains (s : State) (k : Nat) : State :=
  (List.range 8).foldl (fun s i =>
    let m := 8 * k + i
    let cut (c : Chain) : Chain := { c with integ := Chain.zero.integ, comb := Chain.zero.comb }
    (s.setRingChain m (cut (s.ringChain m))).setMainChain m
      (if s.mainRatio k = 48 then cut (s.mainChain m) else Chain.zero)) s

/-- Listening channel of a microphone. -/
def channelOf (s : State) (m : Nat) : Option Nat := (s.listening.find? fun x => x.2 = m).map Prod.fst

/-! ### The ring (R281 to R284) -/

def ringIndex (s : State) : Nat := s.rdn 0x6831 1
def ringFrom (s : State) : Nat := s.rdn 0x6831 2

/-- A mark is written; the log keeps the last 64. -/
def mark (s : State) (kind index : Nat) : State :=
  s.updAudio fun a => { a with marks := (a.marks ++ [({ index := index, time := s.time, kind := kind } : Mark)]).drop (a.marks.length + 1 - 64) }

/-- 16 kHz samples of a number of µs, rounded up, and of a number of ms. -/
def microSamples (us : Nat) : Nat := (us * 16 + 999) / 1000
def milliSamples (ms : Nat) : Nat := ms * 16

/-- A settling interval opens at the present ring index (R284). -/
def settle (s : State) : State :=
  s.updAudio fun a => { a with settle := some (s.ringIndex + microSamples (s.rdn 0x6802 2)) }

/-- The ring stops on entering DORMANT. -/
def ringStop (s : State) : State :=
  if s.audio.ringOn then s.updAudio fun a => { a with ringOn := false, stoppedAt := s.time, clocks := [] } else s

/-- The ring starts again: its index has run on by the sample periods that passed (R282). -/
def ringStart (s : State) : State :=
  if s.audio.ringOn || !s.power.xtal then s
  else
    let n := s.ringIndex + (s.time - s.audio.stoppedAt) * 16 / 1000
    let s1 := (s.updAudio fun a => { a with ringOn := true }).wrn 0x6831 1 n
    (((s1.wrn 0x6831 2 n).mark 1 n).raise 0x6801 0).settle

/-- Place of channel `i`'s sample `n` in the roost's memory (R281). -/
def ringOff (i n : Nat) : Nat := 0x80000 + i * 0x10000 + n % 32768 * 2

/-- Channel `i`'s sample `n`; one older than `RingStartIndex` reads zero. The spec is silent on a sample not older than that which the ring has overwritten since: it reads as what stands in its place, the newer sample (DESIGN CHOICE, log entry 74). -/
def ringSample (s : State) (i : Nat) (n : Int) : W16 :=
  if n < s.ringFrom then 0
  else BitVec.ofNat 16 (leNat (s.tileBytes (roostTile * 0x100000 + ringOff i n.toNat) 2))

/-- The ring path stores the samples of each listening channel and its microphone, from the present index on (R278, R281). -/
def putHop (s : State) (samples : List (Nat × Nat × List (BitVec 24))) : State :=
  samples.foldl (fun s x =>
    (x.2.2.zipIdx).foldl (fun s (y : BitVec 24 × Nat) =>
      s.writeTile roostTile (ringOff x.1 (s.ringIndex + y.2)) (leBytes 2 (sample16 (stage5 y.1 (s.micGain x.2.1))).toNat) false) s) s

/-! ### Stage 0 (R285 to R287) -/

/-- The hop block for the hop that ends at `n` (R286 steps 1 and 2). -/
def hopBlock (s : State) (n : Nat) : State :=
  let s1 := s.listening.foldl (fun s x =>
    s.writeTile roostTile (0x70000 + x.1 * 0x140)
      ((List.range 160).flatMap fun (i : Nat) => leBytes 2 (s.ringSample x.1 ((n : Int) - 160 + (i : Int))).toNat) false) s
  s1.writeTile roostTile 0x71000 (leBytes 8 n) false

/-- What runs a stage 0 invocation. -/
def roostCtx (pl : Plan) : RunCtx :=
  { part := roostPart, planId := pl.planId, plan := pl, place := [roostTile], kind := 0, params := [], fn := 0
    laneBase := 0, berthBytes := 1, lanes := [], seqLanes := [], roost := true, blank := none, fetched := [], flow := Flow.none }

/-- An access of a roost plan's stream lies where R285 allows. -/
def roostRange (x : Nat × Nat) : Bool :=
  x.1 + x.2 ≤ 0x40000 || (0x70000 ≤ x.1 && x.1 + x.2 ≤ 0x71014)

/-- The checks of R285 beyond the steps of R43. -/
def roostOk (s : State) (pl : Plan) : Bool :=
  pl.slotCount = 1 && (pl.gangs.all fun g => g.mode = 0) && pl.latencyMode && pl.hints.isEmpty &&
  pl.wBytes ≤ 192 * 1024 && pl.nominal ≤ 9000 * s.rdn 0x6802 1 &&
  pl.streams.all fun r =>
    (r.kind = 3 || r.weightSource || r.sourceRows.all roostRange) && (!r.writes || r.destRows.all roostRange)

/-- The library's bytes of a plan's weight region, or the page that keeps them: lost, or with a bad tag. -/
def roostWeights (s : State) (m : Nat) (pl : Plan) : Except (PageId × Bool) (List Byte) :=
  if pl.wBytes = 0 then .ok []
  else
    let first := pl.wBase / 65536
    let ids := (List.range ((pl.wBase + pl.wBytes - 1) / 65536 - first + 1)).map fun i => (⟨m, false, first + i⟩ : PageId)
    let r : Except (PageId × Bool) (List Byte) := ids.foldl (fun (r : Except (PageId × Bool) (List Byte)) id => match r with
      | .error e => .error e
      | .ok bs => if s.isLost id then .error (id, false)
          else match s.pagePlain id with
            | none => .error (id, true)
            | some b => .ok (bs ++ b)) (.ok [])
    match r with
    | .error e => .error e
    | .ok bs => .ok (slice bs (pl.wBase % 65536) pl.wBytes)

/-- A load of the roost's plan ends. -/
def roostLoaded1 (s : State) (pl : Option Plan) (state status : Nat) : State :=
  let s1 := (s.updAudio fun a => { a with plan := pl, loadDue := false, hits := 0 }).wrn 0x6840 7 state
  if state = 0 then s1
  else
    let s2 := s1.wrn 0x6840 8 status
    if state = 3 then s2.raise 0x6801 8 else s2

/-- ROOST_PLAN_LOAD (R285): steps 1 to 7 of R43, the roost's own checks, the copy of the weight region, and RoostState. -/
def loadRoost (met : Met) (s0 : State) : State :=
  let m := s0.rdn 0x6840 1
  let id := s0.rd 0x6840 2
  if m = 0xFFFF then s0.roostLoaded1 none 0 0
  else
    let (s, st) := s0.meet roostPart [] met
    let fail (s : State) (status step : Nat) : State :=
      let s1 := if 2 ≤ step && step ≤ 8 then s.raise 0x3001 4 else s
      let s2 := s1.roostLoaded1 none 3 status
      if status = 0x80 && step = 3 then s2.security 0 none id else s2
    if 0x10 ≤ st then fail s st 1
    else if 256 ≤ m || (s.model m).state ≤ 1 then fail s 0x33 5
    else match s.modelPlan m id with
      | none => fail s 0x33 5
      | some e =>
        match s.checkImage roostPart m e none with
        | .error (x, n) => fail s x n
        | .ok pl =>
          match s.checkVariant roostPart m pl with
          | .error x => fail s x 7
          | .ok _ =>
            if !s.roostOk pl then fail s 0x12 9
            else match s.roostWeights m pl with
              | .error (_, false) => fail s 0x21 9
              | .error (id, true) => fail (s.tagLost id) 0x80 9
              | .ok w =>
                let t := ((s.zeroMarked roostTile).writeTile roostTile 0x40000 w true)
                t.roostLoaded1 (some pl) 1 (if st = 1 then 1 else 0)

/-- `6840:07` RoostState. -/
def roostState (s : State) : Nat :=
  if s.faults.roostHeld then 3
  else if s.audio.plan.isSome && s.audio.hop.isSome then 2
  else s.rdn 0x6840 7

/-! ### Feeds (R288 to R292) -/

def feedPart (s : State) (f : Nat) : Nat := s.rdn 0x6900 (f + 1)
def feedStream (s : State) (f : Nat) : Nat := s.rdn 0x6901 (f + 1)

/-- Microphones of feed `f` in the order of `FeedMics`. -/
def feedMics (s : State) (f : Nat) : List Nat := (leBytes 8 (s.rdn 0x6902 (f + 1))).map BitVec.toNat |>.takeWhile (· < 32)

def preroll (s : State) (f : Nat) : Bool := bit (s.rdn 0x6905 (f + 1)) 0

/-- The group of a feed: the lowest that is bound to its partition (DESIGN CHOICE: no entry of the spec names it). -/
def feedGroup (s : State) (f : Nat) : Option Nat :=
  (List.range 64).find? fun g => s.groupBound g && s.groupPart g = s.feedPart f

def feed (s : State) (f : Nat) : Feed := NMap.get (fun _ => Feed.off) s.audio.feeds f
def setFeed (s : State) (f : Nat) (x : Feed) : State :=
  s.updAudio fun a => { a with feeds := NMap.set (fun _ => Feed.off) a.feeds f x }

/-- `FeedState` of feed `f`: 0 OFF, 2 RUNNING, 3 STOPPING, 4 FAULT. -/
def feedState (s : State) (f : Nat) : Nat := s.rdn 0x6907 (f + 1)
def setFeedState (s : State) (f v : Nat) : State := s.wrn 0x6907 (f + 1) v

/-- Feed `f` is the feed of a cascade stage. -/
def cascadeFeed (s : State) (f : Nat) : Bool := s.rdn 0x6850 2 = f || s.rdn 0x6850 6 = f

/-- Instants of a chunk of the feed's group. -/
def feedChunk (s : State) (f : Nat) : Nat :=
  match s.feedGroup f with
  | none => 0
  | some g => Params.chunkFrames (s.params g) * Params.hop (s.params g)

def failFeed (s : State) (f : Nat) : State :=
  let s1 := s.setFeedState f 4
  if s.cascadeFeed f then s1.raise 0x6801 8 else s1

/-- First sample of a feed that starts with start index `e` (R289). -/
def feedFirst (s : State) (f e : Nat) : Int := if s.preroll f then (e : Int) - 32000 else e

/-- The pre-roll before start index `e` is staged in pinned frames (R289 step 3); none when they cannot be pinned. A feed without PREROLL, or one whose pre-roll is staged already, needs nothing. -/
def stagePreroll (s : State) (f e : Nat) : Option State :=
  let mics := s.feedMics f
  if !s.preroll f || !(s.feed f).staged.isEmpty then some s
  else
    (s.tryPin (s.feedPart f) ((mics.length * 64000 + 65535) / 65536) (.staging f)).map fun t =>
      let xs := mics.map fun m => match s.channelOf m with
        | some c => (List.range 32000).map fun (k : Nat) => s.ringSample c (s.feedFirst f e + (k : Int))
        | none => List.replicate 32000 0
      let t1 := t.setFeed f { t.feed f with staged := xs }
      if s.feedFirst f e < s.ringFrom then t1.raise 0x6801 9 else t1

/-- A pre-roll that was staged for a feed that does not start is let go. -/
def dropPreroll (s : State) (f : Nat) : State :=
  if (s.feed f).stream.isNone && !(s.feed f).staged.isEmpty then
    (s.emptyFrames (s.feedPart f) fun u => u = .staging f).setFeed f Feed.off
  else s

/-- Feed `f` starts with start index `e` (R289): the context is opened as OPEN would, and the pre-roll is staged. -/
def startFeed (s : State) (f e : Nat) : State :=
  let p := s.feedPart f
  let i := s.feedStream f
  let n := s.streamNo p i
  match s.feedGroup f with
  | none => s.failFeed f
  | some g =>
    if 128 ≤ p || s.streamCount p ≤ i || !s.groupRunning g || (s.part p).fenced || (s.stream n).state ≠ .free then s.failFeed f
    else
      let r := s.params g
      match (s.tryPin p (Params.swapFrames r) (.swap n)).bind fun t => t.stagePreroll f e with
      | none => s.failFeed f
      | some t =>
        let t := if s.preroll f then t else
          (s.feedMics f).foldl (fun t m => t.setMainChain m (Chain.free (t.free * 32 + m))) { t with free := t.free + 1 }
        let t1 := t.setStream n { Stream.free with
          state := .idle, group := g, tag := BitVec.ofNat 64 (0x4645444400000000 + f)
          image := List.replicate (Params.stateBytes r) 0 }
        ((t1.setFeed f { t1.feed f with stream := some n, next := 0 }).wr 0x6908 (f + 1) (BitVec.ofInt 64 (s.feedFirst f e))).setFeedState f 2

/-- The slot that chunk `k` of the feed goes to is free. -/
def feedSlotFree (s : State) (f : Nat) : Bool :=
  match (s.feed f).stream with
  | some n => !s.holdsSlot n ((s.feed f).next % 4)
  | none => false

/-- The feed writes its next chunk into the stream's window and seals it: `data` holds `k` instants, interleaved (R290). -/
def sealFeed (s : State) (f k : Nat) (final : Bool) (data : List Byte) : State :=
  match (s.feed f).stream, s.feedGroup f with
  | some n, some g =>
    let p := s.feedPart f
    let x := s.feed f
    let r := s.params g
    let slot := x.next % 4
    let room := ceil64 (32 + Params.payload r)
    let addr := s.rdn 0x6903 (f + 1) + x.next % (max 1 (s.rdn 0x6904 (f + 1))) * room
    let h := leBytes 4 x.next ++ leBytes 2 k ++ leBytes 2 0 ++ leBytes 2 0 ++
      leBytes 2 (b2n (x.next = 0) + 2 * b2n final) ++ leBytes 4 0 ++ leBytes 8 addr ++ leBytes 4 room ++
      leBytes 32 0 ++ leBytes 4 (0x5EA10000 + x.next % 65536)
    let s1 := (s.updStream n fun y => { y with window := NMap.set (fun _ => []) y.window slot (h ++ data) }).setFeed f
      { x with next := x.next + 1 }
    (s1.bump64 0x6909 (f + 1) 1).takeChunk p n slot h data (some f)
  | _, _ => s

/-- Samples [first, first + k) of the feed as a PREROLL feed takes them, counted from its start: from the staging frames, then from the ring. -/
def prerollData (s : State) (f first k : Nat) : List Byte :=
  let wide := match s.feedGroup f with
    | some g => Params.sampleBytes (s.params g) = 4
    | none => false
  let start := (s.rd 0x6908 (f + 1)).toInt
  let mics := s.feedMics f
  (List.range k).flatMap fun i =>
    mics.zipIdx.flatMap fun (m : Nat × Nat) =>
      let j := first + i
      ringSampleBytes wide <|
        if j < 32000 then ((((s.feed f).staged[m.2]?).getD [])[j]?).getD 0
        else match s.channelOf m.1 with
          | some c => s.ringSample c (start + j)
          | none => 0

/-- The microphones' bits on their main paths: `n` samples of each. -/
def mainDecimate (s : State) (n : Nat) (mics : List Nat) (words : List (List (BitVec 24))) : State × List (List (BitVec 24)) :=
  (mics.zip words).foldl (fun (a : State × List (List (BitVec 24))) x =>
    let y := (a.1.mainChain x.1).samples (s.mainRatio (x.1 / 8)) (s.pdmHpf (x.1 / 8)) n (pdmBits x.2)
    (a.1.setMainChain x.1 y.1, a.2 ++ [y.2])) (s, [])

/-- FEED_CHUNK_SEAL: the next chunk is complete and its slot free. `main` holds the PDM bits that a feed without PREROLL took for it, by microphone of the feed. -/
def feedChunkSeal (s : State) (f : Nat) (main : List (List (BitVec 24))) : State :=
  let n := s.feedChunk f
  let x := s.feed f
  if s.feedState f ≠ 2 || n = 0 || !s.feedSlotFree f then s
  else if s.preroll f then
    if (s.rd 0x6908 (f + 1)).toInt + ((x.next + 1) * n : Nat) ≤ (s.ringIndex : Int) then
      s.sealFeed f n false (s.prerollData f (x.next * n) n)
    else s
  else
    let mics := s.feedMics f
    if main.length ≠ mics.length || mics.any (fun m => NMap.get (fun _ => 0) s.audio.clocks (m / 8) ≠ 2) ||
        (main.zip mics).any fun x => x.1.length ≠ pdmWords (s.mainRatio (x.2 / 8)) n then s
    else
      let (t, samples) := s.mainDecimate n mics main
      let wide := match s.feedGroup f with
        | some g => Params.sampleBytes (s.params g) = 4
        | none => false
      t.sealFeed f n false <| (List.range n).flatMap fun i =>
        (samples.zip mics).flatMap fun (c : List (BitVec 24) × Nat) =>
          mainSampleBytes wide (stage5 ((c.1[i]?).getD 0) (s.micGain c.2))

/-- The chunk in formation is sealed with FINAL, when it holds a whole hop and its slot is free (R292). What a feed without PREROLL has gathered of it is a free value. -/
def sealFinal (s : State) (f : Nat) : State :=
  match s.feedGroup f with
  | none => s
  | some g =>
    let r := s.params g
    let n := s.feedChunk f
    let hop := Params.hop r
    let x := s.feed f
    if !s.feedSlotFree f || n = 0 then s
    else if s.preroll f then
      let have_ := ((s.ringIndex : Int) - (s.rd 0x6908 (f + 1)).toInt).toNat - x.next * n
      let k := min n have_ / hop * hop
      if k = 0 then s else s.sealFeed f k true (s.prerollData f (x.next * n) k)
    else
      let (d, s1) := s.draw
      let k := Config.freeNat d % Params.chunkFrames r * hop
      if k = 0 then s1
      else s1.sealFeed f k true ((List.range (Params.samples r k)).map fun i => Config.freeByte (d * 65536 + i))

/-- A stopping feed whose chunk in a step has ended: the context is FREE, the staging frames are unpinned, and FeedState is OFF; a stage that stops with it has stopped. -/
def finishFeed (s : State) (f : Nat) : State :=
  match (s.feed f).stream with
  | none => s
  | some n =>
    if s.feedState f ≠ 3 || s.closeWaits n then s
    else
      let p := s.feedPart f
      let s1 := ((s.freeStream p n).emptyFrames p fun u => u = .staging f).setFeed f Feed.off
      (s1.setFeedState f 0).updAudio fun a =>
        { a with stage1 := if a.stage1 = 3 && s.rdn 0x6850 2 = f then 0 else a.stage1
                 stage2 := if a.stage2 = 3 && s.rdn 0x6850 6 = f then 0 else a.stage2 }

/-- Feed `f` stops (R292): the last seal, then the close of R158. -/
def stopFeed (s : State) (f : Nat) : State :=
  match (s.feed f).stream with
  | none => s.setFeedState f 0
  | some n =>
    if s.feedState f = 3 then s
    else
      let s1 := (s.sealFinal f).setFeedState f 3
      (s1.endChunks (s.feedPart f) n (fun c => !c.inStep) 0x72).finishFeed f

/-- Feeds whose stop waited for a step. -/
def finishFeeds (s : State) : State := (List.range 8).foldl finishFeed s

/-! ### The cascade (R293) -/

def stage1Feed (s : State) : Nat := s.rdn 0x6850 2
def stage2Feed (s : State) : Nat := s.rdn 0x6850 6

def setStage (s : State) (k v : Nat) : State :=
  s.updAudio fun a => if k = 1 then { a with stage1 := v } else { a with stage2 := v }

def stageOf (s : State) (k : Nat) : Nat := if k = 1 then s.audio.stage1 else s.audio.stage2
def stageFeed (s : State) (k : Nat) : Nat := if k = 1 then s.stage1Feed else s.stage2Feed

/-- The plan of a stage's group returns as it was when WATCH was last left. -/
def reloadStage (s : State) (k : Nat) : LoadEnd :=
  match s.feedGroup (s.stageFeed k) with
  | none => .failed s 0x14 0
  | some g =>
    if s.groupRunning g then .already 0
    else match (if k = 1 then s.audio.kept1 else s.audio.kept2) with
      | none => .failed s 0x14 0
      | some (p, m, id) => loadPlan ⟨[], false⟩ s p m id (64 + k)

/-- A stage that is starting runs once the device is in its state: its pre-roll is staged as soon as the channel is powered (Table 10-6 step 4), its plan is reloaded and its feed starts; a failure stops it (Table 10-5). -/
def runStage (s0 : State) (k : Nat) : State :=
  let f := s0.stageFeed k
  let e := if k = 1 then s0.audio.start1 else s0.audio.start2
  if s0.stageOf k ≠ 1 || s0.power.state < k + 2 || !s0.serves then s0
  else if 8 ≤ f then (s0.setStage k 4).raise 0x6801 8
  else match s0.stagePreroll f e with
  | none => (s0.failFeed f).setStage k 4
  | some s =>
    let go (t : State) : State :=
      let t1 := (t.startFeed f e).dropPreroll f
      t1.setStage k (if t1.feedState f = 2 then 2 else 4)
    match s.reloadStage k with
      | .already _ => go s
      | .loaded t _ _ => go t
      | .waits => s
      | .reading t => t
      | .failed t st n =>
        let t1 := if 2 ≤ n && n ≤ 8 then t.raise 0x3001 4 else t
        let t2 := ((t1.dropPreroll f).setStage k 4).raise 0x6801 8
        if st = 0x80 then
          match (if k = 1 then s.audio.kept1 else s.audio.kept2) with
          | some (p, _, id) => t2.security 0 (some p) id
          | none => t2
        else t2

def runStages (s : State) : State := (s.runStage 1).runStage 2

def window1 (s : State) : State :=
  s.updAudio fun a => { a with window1 := s.time + s.rdn 0x6850 3 * 1000 }
def window2 (s : State) : State :=
  s.updAudio fun a => { a with window2 := s.time + s.rdn 0x6850 7 * 1000 }

/-- The cascade may start: CASCADE is active, and `CascadeEnable` is 1 (R287, R402). -/
def cascadeOn (s : State) : Bool := !s.without 6 && s.rdn 0x6850 1 = 1

/-- A stage is stopped: STOPPED, or FAULT until its next start. -/
def stageOff (v : Nat) : Bool := v = 0 || v = 4

/-- A stage 0 event at index `e`, and what it does in the cascade (R287, Table 10-5). -/
def stage0Event (s : State) (e : Nat) : State :=
  let s1 := (((s.mark 5 e).raise 0x6801 4).wrn 0x6850 0xC e).updAudio fun a =>
    { a with hits := 0, refractory := s.rdn 0x6840 5 ≠ 0 }
  if !s1.cascadeOn || !s1.alive then s1
  else if stageOff s1.audio.stage1 then
    let s2 := (s1.updAudio fun a => { a with stage1 := 1, start1 := e, hit1 := false }).window1
    (s2.wake 5 3).runStage 1
  else if stageOn s1.audio.stage1 then s1.window1
  else s1

/-- A score at or above the threshold; NaN is below. -/
def scoreHit (s : State) (score : W32) : Bool := F32.le (BitVec.ofNat 32 (s.rdn 0x6840 3)) score

/-- STAGE0_INVOCATION_END (R286 step 4, R287). -/
def stage0End (s : State) : State :=
  match s.audio.hop, s.audio.plan with
  | some n, some pl =>
    let c := roostCtx pl
    let s1 := Run.finish c s true (Run.part c 0 none s)
    let score := BitVec.ofNat 32 (leNat (s1.tileBytes (roostTile * 0x100000 + 0x71010) 4))
    let s2 := (s1.wrn 0x6840 6 score.toNat).updAudio fun a =>
      { a with hop := none, hits := if s.scoreHit score then a.hits + 1 else 0 }
    if s.rdn 0x6840 4 ≤ s2.audio.hits && s2.audio.hits ≠ 0 && !s2.audio.refractory then s2.stage0Event n else s2
  | _, _ => s.updAudio fun a => { a with hop := none }

/-- ROOST_HOP (R286): what is left of the hop passes through the ring paths from the microphones' PDM bits, by listening channel, and its samples enter the ring; then an invocation starts, or the hop is skipped. -/
def roostHop (s : State) (words : List (List (BitVec 24))) : State :=
  let n := (s.ringIndex / 160 + 1) * 160
  if s.power.state < 2 || !s.audio.ringOn ||
      s.listening.any fun x => ((words[x.1]?).getD []).length ≠ pdmWords (s.ringRatio (x.2 / 8)) (n - s.ringIndex) then s
  else
    let (s0, samples) := s.ringDecimate (n - s.ringIndex) words
    let s1 := (s0.putHop samples).wrn 0x6831 1 n
    let s2 :=
      if !s1.roostLoaded || s1.audio.loadDue && s1.audio.hop.isNone then s1.updAudio fun a => { a with hits := 0 }
      else if s1.audio.hop.isSome then (s1.raise 0x6801 3).updAudio fun a => { a with hits := 0 }
      else (s1.hopBlock n).updAudio fun a => { a with hop := some n }
    s2.runStages

/-- A load that is under way for stage `k` is let go. -/
def dropStageLoad (s : State) (k : Nat) : State :=
  s.partKeys.foldl (fun s p => match s.findLoad p (64 + k) with
    | some j => s.dropLoad p j
    | none => s) s

/-- Stage `k` stops: its feed stops, a load for it ends, and its demand ends. -/
def stopStage (s0 : State) (k : Nat) : State :=
  let s := s0.dropStageLoad k
  let f := s.stageFeed k
  let s1 := if stageOn (s.stageOf k) then s.setStage k 3 else s
  let s2 := if f < 8 then (if (s1.feed f).stream.isSome then s1.stopFeed f else s1.dropPreroll f) else s1
  if s2.stageOf k = 3 && (8 ≤ f || (s2.feed f).stream.isNone) then s2.setStage k 0 else s2

/-- A stage's window has run out. -/
def windowEnd (s : State) (k : Nat) : State :=
  let hit := if k = 1 then s.audio.hit1 else s.audio.hit2
  let end_ := if k = 1 then s.audio.window1 else s.audio.window2
  if !stageOn (s.stageOf k) || s.time < end_ then s
  else (if hit then s else s.raise 0x6801 7).stopStage k

/-- A result of feed `f` holds token indices `toks`; its chunk's last sample precedes index `e` (Table 10-5). -/
def judgeHit (s : State) (f : Nat) (toks : List Nat) (e : Nat) : State :=
  let inRange (lo hi : Nat) : Bool := toks.any fun t => s.rdn 0x6850 lo ≤ t && t ≤ s.rdn 0x6850 hi
  if f = s.stage1Feed && stageOn s.audio.stage1 && inRange 4 5 then
    let s1 := (s.updAudio fun a => { a with hit1 := true }).window1
    if stageOff s1.audio.stage2 then
      let s2 := ((s1.mark 6 s.ringIndex).raise 0x6801 5).updAudio fun a =>
        { a with stage2 := 1, start2 := e, hit2 := false }
      s2.window2.runStage 2
    else if stageOn s1.audio.stage2 then s1.window2
    else s1
  else if f = s.stage2Feed && stageOn s.audio.stage2 && inRange 8 9 then
    (((s.mark 7 s.ringIndex).raise 0x6801 6).updAudio fun a => { a with hit2 := true }).window2.hostWake
  else s

/-- `6850:0A` CascadeState (Table 10-12). -/
def cascadeState (s : State) : Nat :=
  s.audio.stage2 * 256 + s.audio.stage1 * 16 +
    (if !s.roostLoaded || s.power.state < 2 then 0 else if s.audio.refractory then 2 else 1)

/-- The clock of port `k` becomes the one that R276 gives it, at an output boundary (R283, R284). -/
def portChange (s : State) (k : Nat) (active : Bool) : State :=
  let now := NMap.get (fun _ => 0) s.audio.clocks k
  let next := s.portClock k
  if s.power.state = 0 || now = next || (active != (next = 2)) then s
  else
    let s1 := (s.restartChains k).updAudio fun a => { a with clocks := NMap.set (fun _ => 0) a.clocks k next }
    if next = 0 then s1
    else ((s1.mark (if active then 3 else 2) s.ringIndex).raise 0x6801 1).settle

end State

/-! ### The meanings -/

/-- MIC_SILENT (R280). -/
def execMicSilent (m : Fin 32) (s : State) : Host.Outcome State Fault Refusal :=
  .next (if s.decoded m.val then s.raise 0x6801 2 else s)

/-- PDM_CLOCK_CHANGE (R283, R284). -/
def execPdmClockChange (port : Fin 4) (active : Bool) (s : State) : Host.Outcome State Fault Refusal :=
  .next (s.portChange port.val active)

/-- SETTLE_END: the mark at the first sample after the settling interval. -/
def execSettleEnd (s : State) : Host.Outcome State Fault Refusal :=
  .next <| match s.audio.settle with
    | some t => if s.power.state ≠ 0 && t < s.ringIndex + 160 && s.audio.ringOn then (s.mark 4 t).updAudio fun a => { a with settle := none } else s
    | none => s

/-- ROOST_HOP. The operand is the microphones' PDM data since the last hop (log entry 81). -/
def execRoostHop (samples : List (List (BitVec 24))) (s : State) : Host.Outcome State Fault Refusal :=
  .next (s.roostHop samples)

/-- STAGE0_INVOCATION_END. -/
def execStage0InvocationEnd (s : State) : Host.Outcome State Fault Refusal :=
  .next (if 2 ≤ s.power.state && s.roostLoaded then s.stage0End else s)

/-- STAGE0_REFRACTORY_END: the refractory period is measured in ring samples. -/
def execStage0RefractoryEnd (s : State) : Host.Outcome State Fault Refusal :=
  .next (if s.power.state ≠ 0 && s.audio.refractory && s.rdn 0x6850 0xC + State.milliSamples (s.rdn 0x6840 5) < s.ringIndex + 160 then
    s.updAudio fun a => { a with refractory := false } else s)

/-- ROOST_PLAN_LOAD: in WATCH or ACTIVE, once the current invocation has ended. -/
def execRoostPlanLoad (met : Met) (s : State) : Host.Outcome State Fault Refusal :=
  .next (if s.audio.loadDue && s.audio.hop.isNone && s.serves && 3 ≤ s.power.state && !s.faults.roostHeld then
    State.loadRoost met s else s)

/-- FEED_CHUNK_SEAL. -/
def execFeedChunkSeal (f : Fin 8) (mainPath : List (List (BitVec 24))) (s : State) : Host.Outcome State Fault Refusal :=
  .next (if s.serves then s.feedChunkSeal f.val mainPath else s)

/-- STAGE1_WINDOW_END. -/
def execStage1WindowEnd (s : State) : Host.Outcome State Fault Refusal :=
  .next (if s.alive then s.windowEnd 1 else s)

/-- STAGE2_WINDOW_END. -/
def execStage2WindowEnd (s : State) : Host.Outcome State Fault Refusal :=
  .next (if s.alive then s.windowEnd 2 else s)

end Sys2Proof.Machine
end

