-- ==== Sys2Proof/Machine/Steps.lean ====
section
/-! DEFINITION. The end of a stream step, audio output on TDM, and statistics snapshots (R83 to R86, R168, R169, R178, R182, R184 to R186). -/

namespace Sys2Proof.Machine

def Tdm.empty : Tdm := ⟨[], false, 0⟩

namespace State

/-! ### TDM output (R184 to R186) -/

def tdmChannel (s : State) (c : Nat) : Tdm := NMap.get (fun _ => Tdm.empty) s.tdm c
def setTdm (s : State) (c : Nat) (x : Tdm) : State := { s with tdm := NMap.set (fun _ => Tdm.empty) s.tdm c x }

/-- The stream that channel `c` plays. -/
def tdmStream (s : State) (c : Nat) : Nat := s.rdn 0x5510 (c + 1)

/-- The channel to which a chunk of stream `n` sealed at `time` is routed: one bound before the chunk (R185). -/
def tdmOf (s : State) (n time : Nat) : Option Nat :=
  (List.range 16).find? fun c => s.tdmStream c = n && (s.tdmChannel c).bound ≤ time

/-- Rate code of port `k`; 0 is off. -/
def tdmRate (s : State) (k : Nat) : Nat := bits (s.rdn 0x5500 (k + 1)) 19 16

/-- Samples join channel `c`'s FIFO; those that do not fit are dropped from the end. -/
def tdmAppend (s : State) (c : Nat) (xs : List W16) : State :=
  let x := s.tdmChannel c
  let keep := xs.take (16384 - x.fifo.length)
  let fifo := x.fifo ++ keep
  let s1 := s.setTdm c { x with fifo := fifo, playing := x.playing || decide (s.rdn 0x5511 (c + 1) ≤ fifo.length) }
  if keep.length < xs.length then (s1.bump32 0x5513 (c + 1) (xs.length - keep.length)).raise 0x5001 8 else s1

/-- The sample that channel `c` puts in its slot now. -/
def tdmSlot (s : State) (c : Nat) : State × W16 :=
  let n := s.tdmStream c
  let x := s.tdmChannel c
  if n = 0xFFFF || (s.stream n).state = .frozen || (s.stream n).state = .moved || !x.playing then (s, 0)
  else match x.fifo with
    | v :: rest => (s.setTdm c { x with fifo := rest }, v)
    | [] => ((s.bump32 0x5512 (c + 1) 1).raise 0x5001 7, 0)

/-- A sample left-justified in its slot: a 16-bit slot holds the sample; a 32-bit slot holds it, as 16 or 24 bits, in [31:16]. -/
def tdmWord (wide : Bool) (v : W16) : W32 := BitVec.ofNat 32 (if wide then v.toNat * 65536 else v.toNat)

/-- One frame of port `k`. -/
def tdmFrame (s : State) (k : Nat) : State :=
  if !s.alive || s.power.state < 3 || s.tdmRate k = 0 then s
  else
    let wide := bits (s.rdn 0x5500 (k + 1)) 5 4 = 1
    let r := (List.range 8).foldl (fun (a : State × List W32) i =>
      let (t, v) := a.1.tdmSlot (8 * k + i)
      (t, a.2 ++ [tdmWord wide v])) (s, [])
    r.1.emit (.tdm k r.2)

/-! ### Results (R168, R169) -/

/-- The 4-byte entries of a token payload. -/
def tokenEntries (payload : List Byte) : List Nat :=
  (List.range (min (field payload 0 2) ((payload.length - 4) / 4))).map fun i => field payload (4 + 4 * i) 4

/-- A token payload without the tokens of frames that the chunk does not have. -/
def trimTokens (payload : List Byte) (frames : Nat) : List Byte :=
  let keep := (tokenEntries payload).filter fun e => e / 65536 < frames
  slice (leBytes 2 keep.length ++ slice payload 2 2 ++ keep.flatMap (leBytes 4)) 0 payload.length

/-- Samples of an OutputKind 1 payload. -/
def payloadSamples (payload : List Byte) : List W16 :=
  (List.range (payload.length / 2)).map fun i => BitVec.ofNat 16 (field payload (2 * i) 2)

/-- The result header (Table 6-5). -/
def resultHeader (c : Chunk) (gap replayed held : Bool) (admitted step bytes : Nat) : List Byte :=
  leBytes 4 c.seq.toNat ++
  leBytes 2 (b2n c.reset.isSome + 2 * b2n gap + 4 * b2n c.final + 8 * b2n replayed + 16 * b2n held) ++
  leBytes 2 (c.reset.getD 0) ++ leBytes 4 c.gap ++ leBytes 4 admitted ++ leBytes 8 c.sealTime ++ leBytes 4 step ++
  leBytes 4 bytes

/-- A window region's offset. -/
def windowOff (a : Nat) : Nat := a - 0x001000000000

/-- Where a result went: its chunk's status when it could not go, and the state. -/
def sendResult (s : State) (p n : Nat) (c : Chunk) (held : Bool) (bytes : List Byte) : State × Option Nat :=
  match c.feed, region c.resultAddr with
  | some _, some (.window o) =>
    if o + bytes.length ≤ s.windowBytes p then (s.writeWindow p o bytes, none) else (s.raise 0x4001 9, some 0x24)
  | none, some (.host a) =>
    if 0x1000000000000 < c.resultAddr + bytes.length then (s.raise 0x4001 9, some 0x24)
    else if held then
      (s.updStream n fun y => { y with heldResults := y.heldResults ++ [({ addr := s.busAddr p a, bytes := bytes } : HeldResult)] }, none)
    else if !s.busMaster (p + 1) then (s.busBlocked, some 0x23)
    else (s.toHost (s.busAddr p a) bytes, none)
  | _, _ => (s.raise 0x4001 9, some 0x24)

/-- The chunk of lane `x` in step `t` of group `g`, with everything R168 gives it. -/
def completeLane (p g : Nat) (t : Step) (s : State) (x : Nat × Nat) : State :=
  let n := x.2
  let r := s.params g
  let y := s.stream n
  match y.chunks.find? fun c => c.phase = .inStep t.num, y.berth with
  | some c, some k =>
    let frames := c.samples / Params.hop r
    let admitted := t.start - c.sealTime
    let step := s.time - t.start
    let off := windowOff (Params.outBase r) + x.1 * Params.outLane r
    let later := ((y.chunks.filter (· ≠ c)).map Chunk.gap).foldl (· + ·) 0
    let pend := y.gap - later
    let image := s.readState p (s.berthOff g k) (Params.stateBytes r)
    let s1 := (s.updStream n fun y =>
      { y with image := image, lastEnd := s.time
               framesSince := match c.reset with | some f => frames - f | none => y.framesSince + frames }).keepMax 0x510A (g + 1) admitted
    let s2 := s1.wrn 0x510B (g + 1) step
    if s2.windowPoison p off (Params.payload r) then s2.endChunk p n c 0x20 false
    else
      let raw := s2.readWindow p off (Params.payload r)
      let route := if Params.kind r = 1 then s2.tdmOf n c.sealTime else none
      let payload := if Params.kind r = 0 then (if c.final then trimTokens raw frames else raw)
        else if route.isSome then [] else raw
      let s3 := match route with
        | some ch => s2.tdmAppend ch ((payloadSamples raw).take (frames * Params.outPerFrame r))
        | none => s2
      let held := y.state = .frozen || (s.rdn 0x2100 3 ≠ 1 && c.feed.isNone)
      let bytes := resultHeader c (pend ≠ 0) t.replayed held admitted step payload.length ++ payload
      let (s4, bad) := s3.sendResult p n c held bytes
      let s5 := s4.updStream n fun y => { y with gap := later }
      let status := bad.getD (if t.replayed then 2 else if t.corrected.contains n then 1 else 0)
      let s6 := s5.endChunk p n c status (t.replayed && bad.isNone)
      match c.feed with
      | none => s6
      | some f => if bad.isSome || Params.kind r ≠ 0 then s6 else
          s6.judgeHit f ((tokenEntries payload).map (· % 65536))
            ((s6.rd 0x6908 (f + 1)).toInt + (c.seq.toNat * s6.feedChunk f + c.samples : Nat)).toNat
  | _, _ => s

/-- What runs step `t` of group `g`. -/
def stepCtx (s : State) (p g : Nat) (l : Loaded) (t : Step) : RunCtx :=
  let lane (b : Nat) : Option StepLane := do
    let x ← t.lanes.find? fun x => x.1 = b
    let k ← (s.stream x.2).berth
    let c ← (s.stream x.2).chunks.find? fun c => c.phase = .inStep t.num
    some ⟨x.2, s.berthOff g k, c.reset⟩
  { part := p, planId := l.plan.planId, plan := l.active, place := l.place, kind := l.activeKind, params := l.activeParams
    fn := p + 1, laneBase := Params.laneBase (s.params g), berthBytes := Params.berth (s.params g)
    lanes := (List.range (Params.batch (s.params g))).map lane, seqLanes := [], roost := false, blank := none
    fetched := l.fetched, flow := Flow.none }

/-- The input of each lane as the step takes it. -/
def putInputs (p g : Nat) (t : Step) (s : State) : State :=
  let r := s.params g
  t.lanes.foldl (fun s x =>
    match (s.stream x.2).chunks.find? fun c => c.phase = .inStep t.num with
    | some c => s.writeWindow p (windowOff (Params.inBase r) + x.1 * Params.inLane r) (laneInput r c)
    | none => s) s

/-- Berths take their streams' images again: the step's state updates are undone. -/
def undoBerths (p g : Nat) (t : Step) (s : State) : State :=
  t.lanes.foldl (fun s x => match (s.stream x.2).berth with
    | some k => s.writeState p (s.berthOff g k) (s.stream x.2).image
    | none => s) s

/-- Every lane of a step that failed ends with a status. -/
def failLanes (p g : Nat) (t : Step) (status : Nat) (s : State) : State :=
  t.lanes.foldl (fun s x => s.endChunks p x.2 (fun c => c.phase = .inStep t.num) status) (s.undoBerths p g t)

/-- Lane `x` of a step that ran completes, or ends as the run lost it: with its stream FAILED when its state was, else with its state as before the step (R114). -/
def endStepLane (p g : Nat) (t : Step) (lost : List (Nat × Nat)) (s : State) (x : Nat × Nat) : State :=
  match lost.find? fun y => y.1 = x.1 with
  | none => s.completeLane p g t x
  | some (_, 0x22) => (s.endChunks p x.2 (fun c => c.phase = .inStep t.num) 0x22).failStream p x.2
  | some (_, st) => failLanes p g { t with lanes := [x] } st s

/-- Nothing stands still for the group's plan. -/
def stepGoes (s : State) (p : Nat) (l : Loaded) : Bool :=
  s.alive && !s.clearingOf p && !l.place.isEmpty && !(l.place.any fun t => s.tileMode t = 5 || !s.usable t || (s.busyTiles p l.plan.planId).contains t) &&
  !((s.part p).migrations.any fun m => m.waiters.any fun x => x.planId = l.plan.planId)

/-- The oldest step of group `g` runs, and its lanes complete (R168). -/
def runStep (s : State) (p g : Nat) (l : Loaded) (t : Step) : State :=
  let r := s.params g
  let base := windowOff (Params.inBase r)
  let size := Params.batch r * Params.inLane r
  let more := 1 < (s.group g).steps.length
  let s0 := (s.updGroup g fun x => { x with steps := x.steps.filter fun y => y.num ≠ t.num }).runOn p l.plan.planId l.place
  let old := if more then s0.readWindow p base size else []
  let s1 := s0.putInputs p g t
  let c := s1.stepCtx p g l t
  let run := Run.part c 0 none s1
  match run.wait with
  | some (.page n k) => s.demand p l.plan.planId k n
  | some .early => s
  | none =>
    let s2 := ((Run.finish c s1 true run).releaseAll p).updPlan p l.plan.planId fun x => { x with fetched := [] }
    let s3 := if more then s2.writeWindow p base old else s2
    let s4 := match run.stop with
      | some st => failLanes p g t st s3
      | none => t.lanes.foldl (endStepLane p g t run.lost) s3
    (s4.retireBerths g).finishFeeds

/-- STEP_END. -/
def stepEnd (s : State) (g : Nat) (met : Met) : State :=
  match s.groupLoaded g, (s.group g).steps.head? with
  | some l, some t =>
    let p := s.groupPart g
    if !s.stepGoes p l then s
    else
      let s1 := s.stepMeets p g t.num l.place met
      match (s1.group g).steps.find? fun y => y.num = t.num with
      | some t1 => s1.runStep p g l t1
      | none => s1
  | _, _ => s

/-! ### Statistics snapshots (R86, R178) -/

/-- Fields of a statistics set in the order of `3601` and `5401`. -/
def statFields (x : StatSet) : List Nat :=
  [x.count.toNat, x.sumSqErr.toNat, x.sumSqRef.toNat, x.maxAbsErr.toNat, x.satCount.toNat, x.nonFinite.toNat,
    x.zeroScale.toNat, x.lastUpdate.toNat]

/-- A snapshot goes into entries `i:01` to `i:08` of interface `fn`. -/
def putSnapshot (s : State) (fn i : Nat) (x : StatSet) : State :=
  (statFields x).zipIdx.foldl (fun s (v : Nat × Nat) => s.wrI fn i (v.2 + 1) (BitVec.ofNat 64 v.1)) s

/-- The set that interface `fn` selects; none beyond its window. -/
def statSelected (s : State) (fn : Iface) : Option Nat :=
  let k := (s.rdI (ifaceNo fn) 0x3600 1).toNat
  match fn with
  | .vf p => if k < s.rdn 0x3411 (p.val + 1) then some (s.rdn 0x3410 (p.val + 1) + k) else none
  | _ => if k < 4096 then some k else none

def statSet (s : State) (n : Nat) : StatSet := NMap.get (fun _ => StatSet.none) s.stats n
def setStat (s : State) (n : Nat) (x : StatSet) : State := { s with stats := NMap.set (fun _ => StatSet.none) s.stats n x }

/-- StatCommand: 1 SNAPSHOT, 2 SNAPSHOT_CLEAR, 3 CLEAR; other values are ignored. -/
def statCommand (s : State) (fn : Iface) (v : Nat) : State :=
  let sel := s.statSelected fn
  let s1 := if v = 1 || v = 2 then
      ((s.putSnapshot (ifaceNo fn) 0x3601 ((sel.map s.statSet).getD StatSet.none)).wrI (ifaceNo fn) 0x3600 3 (BitVec.ofNat 64 s.time))
    else s
  match sel with
  | some n => if v = 2 || v = 3 then s1.setStat n StatSet.none else s1
  | none => s1

/-- The stream that interface `fn` selects; none beyond its range. -/
def streamSelected (s : State) (fn : Iface) : Option Nat :=
  let k := (s.rdI (ifaceNo fn) 0x5400 1).toNat
  match fn with
  | .vf p => if k < s.streamCount p.val then some (s.streamBase p.val + k) else none
  | _ => if k < 16384 then some k else none

/-- StreamStatCommand, with the values of StatCommand. -/
def streamStatCommand (s : State) (fn : Iface) (v : Nat) : State :=
  let sel := s.streamSelected fn
  let s1 := if v = 1 || v = 2 then
      s.putSnapshot (ifaceNo fn) 0x5401 ((sel.map fun n => (s.stream n).stats).getD StatSet.none)
    else s
  match sel with
  | some n => if v = 2 || v = 3 then s1.updStream n fun x => { x with stats := StatSet.none } else s1
  | none => s1

end State

/-! ### The meanings -/

/-- STEP_END: the oldest step of the group ends. -/
def execStepEnd (g : Fin 64) (met : Met) (s : State) : Host.Outcome State Fault Refusal :=
  .next (s.stepEnd g.val met)

/-- TDM_FRAME. -/
def execTdmFrame (port : Fin 2) (s : State) : Host.Outcome State Fault Refusal :=
  .next (s.tdmFrame port.val)

end Sys2Proof.Machine
end

