-- ==== Sys2Proof/Machine/StreamMove.lean ====
section
/-! DEFINITION. Moving a stream to another device: tickets, exports and imports (R179 to R181, R371). -/

namespace Sys2Proof.Machine
namespace State

/-- `k` bytes drawn from the DRBG (R371). -/
def random (s : State) (k : Nat) : List Byte × State :=
  (slice (Config.drbg s.sec.draws k) 0 k, { s with sec := { s.sec with draws := s.sec.draws + 1 } })

/-- A retry of the random source has failed and none has succeeded since: operations that draw end with RANDOM. -/
def randomFailed (s : State) : Bool := s.rdn 0xA040 1 = 2

/-- The device's identity certificate (Table 14-2). -/
def ownCert : List Byte := slice Config.identityCert 0 6512

/-- A range of host memory that a work of partition p names: its bus address, or the status that ends the work (R87, R391). -/
def hostRange (s : State) (p : Nat) (w : Work) (a n : Nat) : State × Except Nat Nat :=
  match region a with
  | some (.host x) =>
    if 0x1000000000000 < a + n then (s.raise 0x4001 9, .error 0x24)
    else if !s.busMaster (workFn p w) then (s.busBlocked, .error 0x23)
    else (s, .ok (s.busAddr p x))
  | _ => (s.raise 0x4001 9, .error 0x24)

/-! ### TICKET (R179) -/

/-- The record of Table 6-7. -/
def ticketRecord (s : State) (value : List Byte) : List Byte :=
  leBytes 4 0x544B5453 ++ leBytes 2 0x0100 ++ leBytes 2 6512 ++ s.serialBytes ++ value ++ leBytes 8 s.time ++
  leBytes 4 (s.rdn 0x5002 1) ++ leBytes 12 0 ++ ownCert

/-- TICKET once nothing holds it. -/
def startTicket (met : Met) (s : State) (p : Nat) (w : Work) : State :=
  let g := dBody w.raw 0 1
  let fail (s : State) (st : Nat) := s.endWork p w.slot st 0 0 false
  if 256 ≤ s.tickets.length then fail s 0x48
  else if dBody w.raw 0x10 4 < 64 + 6512 then fail s 0x10
  else if !s.groupRunning g || s.groupPart g ≠ p then fail s 0x40
  else if s.randomFailed then fail s 0x81
  else
    let (s1, st) := s.meet p [] met
    if 0x10 ≤ st then fail s1 st
    else match s1.hostRange p w (dBody w.raw 8 8) (64 + 6512) with
      | (t, .error e) => fail t e
      | (t, .ok addr) =>
        let (v, t1) := t.random 16
        let k : Ticket :=
          { value := BitVec.ofNat 128 (leNat v), part := p, group := g, issued := s.time
            expires := s.time + s.rdn 0x5002 1 * 1000000 }
        { t1 with tickets := t1.tickets ++ [k] }.endWorkWith p w.slot st 0 0 false [(addr, t1.ticketRecord v)]

/-- A ticket's life ends. -/
def expireTicket (s : State) (v : BitVec 128) : State :=
  { s with tickets := s.tickets.filter fun k => k.value ≠ v || decide (s.time < k.expires) }

/-! ### EXPORT (R180) -/

/-- Bytes of a state blob with an image of `n` bytes. -/
def blobBytes (n certBytes : Nat) : Nat := 0x500 + ceil64 n + 64 + ceil64 certBytes + 3312

/-- The key of a blob: from the shared secret and the blob's first 0x90 bytes. -/
def blobKey (secret head : List Byte) : List Byte := Config.shake256 (secret ++ head) 32

/-- The blob of stream `n` to the destination whose ticket record is `rec` (Table 6-9). -/
def makeBlob (s : State) (n : Nat) (rec : List Byte) (draw : Nat) : List Byte :=
  let x := s.stream n
  let m := s.model (s.groupModel x.group)
  let cert := rec.drop 0x40
  let rnd := slice (Config.drbg draw 44) 0 44
  let (cipher, secret) := Config.kemEncaps (certKem cert) (rnd.take 32)
  let head := leBytes 4 0x4C425453 ++ leBytes 2 0x0100 ++ leBytes 2 0x500 ++ leBytes 4 (blobBytes x.image.length 6512) ++
    leBytes 4 x.image.length ++ s.serialBytes ++ slice rec 8 16 ++ slice rec 0x18 16 ++ leBytes 8 x.tag.toNat ++
    leBytes 4 (x.moveCount + 1) ++ leBytes 4 6512 ++ slice m.digest 0 32 ++ leBytes 8 (s.groupPlan x.group).toNat ++
    leBytes 4 x.next.toNat ++ leBytes 4 (b2n (x.gap ≠ 0)) ++ leBytes 8 x.framesSince ++ leBytes 8 0
  let nonce := rnd.drop 32
  let header := head ++ slice cipher 0 1088 ++ nonce ++ leBytes 36 0
  let (body, tag) := Config.gcmSeal (blobKey secret head) nonce header x.image
  let all := header ++ slice body 0 (ceil64 x.image.length) ++ slice tag 0 64 ++ slice ownCert 0 (ceil64 6512)
  all ++ deviceSigns all

/-- The kept blob goes to host memory, and the export's descriptor ends (Table 6-8 step 6). -/
def writeBlob (s : State) (p n slot addr status : Nat) : State :=
  match s.findWork p slot with
  | none => s
  | some w =>
    match s.hostRange p w addr (s.stream n).blob.length with
    | (t, .error e) => t.endWork p slot e 0 0 false
    | (t, .ok a) => t.endWorkWith p slot status 0 0 false [(a, (s.stream n).blob)]

/-- Table 6-8 step 4: the chunks sealed after the export's own seal end with STREAM_MOVED, and the stream expects again what it expected then. -/
def endLate (s : State) (p n : Nat) (seq : W32) : State :=
  match (s.stream n).chunks.find? fun c => c.behind.contains seq with
  | none => s
  | some f =>
    let late := (s.stream n).chunks.filter fun c => c.behind.contains seq
    (s.updStream n fun y => { y with next := f.seq - BitVec.ofNat 32 f.gap, gap := y.gap - (late.map Chunk.gap).foldl (· + ·) 0 }).endChunks p n
      (fun c => c.behind.contains seq) 0x43

/-- A drained export: the blob is built and kept, the context becomes MOVED, and the blob is written (Table 6-8 steps 5 and 6). -/
def finishExport (s : State) (p n : Nat) (met : Met) : State :=
  let x := s.stream n
  match x.exporting with
  | none => s
  | some slot =>
    if !x.chunks.isEmpty || s.rdn 0x2100 3 ≠ 1 then s
    else
      let quit (t : State) : State := t.updStream n fun y => { y with state := .moved, exporting := none, exportTo := [], berth := none }
      if x.state = .failed then ((quit s).updStream n fun y => { y with blob := [] }).endWork p slot 0x22 0 0 false
      else
        let blob := s.makeBlob n x.exportTo x.exportDraw
        let s1 := ((quit s).updStream n fun y =>
          { y with moveCount := y.moveCount + 1, blob := blob }).raise 0x5001 4
        let (s2, st) := s1.meet p [] met
        if 0x10 ≤ st then s2.endWork p slot st 0 0 false else s2.writeBlob p n slot x.exportAddr st

/-- EXPORT once nothing holds it. -/
def startExport (met : Met) (s : State) (p : Nat) (w : Work) : State :=
  let i := dBody w.raw 0 2
  let n := s.streamNo p i
  let x := s.stream n
  let fail (s : State) (st : Nat) := s.endWork p w.slot st 0 0 false
  if s.streamCount p ≤ i then fail s 0x10
  else if x.state = .free then fail s 0x40
  else if (x.state ≠ .idle && x.state ≠ .moved) || x.closing.isSome || s.feedHolds n then fail s 0x44
  else
    let (s1, st) := s.meet p [] met
    if 0x10 ≤ st then fail s1 st
    else match s1.hostRange p w (dBody w.raw 8 8) (dBody w.raw 0x10 4) with
      | (t, .error e) => fail t e
      | (t, .ok _) =>
        let rec_ := slice w.extra 0 (dBody w.raw 0x10 4)
        let cert := slice rec_ 0x40 (field rec_ 6 2)
        if dBody w.raw 0x10 4 < 64 || dBody w.raw 0x10 4 < 64 + field rec_ 6 2 then fail t 0x10
        else if field rec_ 0 4 ≠ 0x544B5453 || field rec_ 4 2 ≠ 0x0100 then fail t 0x12
        else if x.state = .moved then
          if x.blob.isEmpty then fail t 0x22
          else t.writeBlob p n w.slot (dBody w.raw 0x18 8) st
        else if !certOk 1 cert || slice cert 0x10 16 ≠ slice rec_ 8 16 then
          (fail t 0x80).security 5 (some p) (BitVec.ofNat 64 (field rec_ 8 8))
        else if dBody w.raw 0x14 4 < blobBytes x.image.length 6512 then fail t 0x10
        else if t.randomFailed then fail t 0x81
        else
          let (_, t1) := t.random 44
          let u := (t1.updStream n fun y => { y with
            state := .exporting, exporting := some w.slot, exportTo := slice rec_ 0 0x40 ++ cert
            exportAddr := dBody w.raw 0x18 8, exportDraw := t.sec.draws }).endLate p n (BitVec.ofNat 32 (dSeq w.raw))
          u.finishExport p n ⟨[], false⟩

/-! ### IMPORT (R181) -/

/-- Parts of a blob. -/
def blobCipher (b : List Byte) : List Byte := slice b 0x500 (field b 0xC 4)
def blobTag (b : List Byte) : List Byte := slice b (0x500 + ceil64 (field b 0xC 4)) 16
def blobCert (b : List Byte) : List Byte := slice b (0x500 + ceil64 (field b 0xC 4) + 64) (field b 0x4C 4)
def blobSigned (b : List Byte) : Nat := 0x500 + ceil64 (field b 0xC 4) + 64 + ceil64 (field b 0x4C 4)

/-- Magic, version and reserved fields of a blob. -/
def blobFormat (b : List Byte) : Bool :=
  field b 0 4 = 0x4C425453 && field b 4 2 = 0x0100 && field b 6 2 = 0x500 && field b 0x7C 4 < 2 &&
  allZero (slice b 0x88 8) && allZero (slice b 0x4DC 36) && allZero (slice b (0x500 + ceil64 (field b 0xC 4) + 16) 48) &&
  allZero (slice b (0x500 + ceil64 (field b 0xC 4) + 64 + field b 0x4C 4) (ceil64 (field b 0x4C 4) - field b 0x4C 4))

/-- The plaintext state image of a blob, when its tag is good. -/
def openBlob (b : List Byte) : Option (List Byte) :=
  Config.gcmOpen (blobKey (Config.kemDecaps kemSeed (slice b 0x90 1088)) (slice b 0 0x90)) (slice b 0x4D0 12)
    (slice b 0 0x500) (blobCipher b) (blobTag b)

/-- The ticket that a blob names is outstanding, and bound to partition p and group g. -/
def ticketGood (s : State) (v p g : Nat) : Bool :=
  s.tickets.any fun k => k.value.toNat = v && k.part = p && k.group = g && s.time < k.expires

/-- An import ends with the status of its failed step. -/
def rejectImport (s : State) (p slot status : Nat) : State :=
  (s.raise 0x5001 6).endWork p slot status 0 0 false

/-- The checks of Table 6-10 but for step 7, in order: the image, or the status of the first that fails. -/
def checkBlob (s : State) (p i g bytes : Nat) (b : List Byte) : Except Nat (List Byte) :=
  let r := s.params g
  if s.streamCount p ≤ i then .error 0x10
  else if bytes < 0x500 || field b 8 4 ≠ bytes || bytes < blobBytes (field b 0xC 4) (field b 0x4C 4) then .error 0x10
  else if !blobFormat b then .error 0x12
  else if slice b 0x20 16 ≠ s.serialBytes then .error 0x46
  else if !s.ticketGood (field b 0x30 16) p g then .error 0x45
  else if !certOk 1 (blobCert b) || !signedBy (certDsa (blobCert b)) (b.take (blobSigned b)) (slice b (blobSigned b) 3312) then
    .error 0x80
  else match openBlob b with
    | none => .error 0x80
    | some image =>
      if slice b 0x50 32 ≠ (s.model (s.groupModel g)).digest || field b 0x70 8 ≠ (s.groupPlan g).toNat ||
          r.isEmpty || field b 0xC 4 ≠ Params.stateBytes r || !s.groupBound g then .error 0x47
      else .ok image

/-- IMPORT once nothing holds it. -/
def startImport (met : Met) (s : State) (p : Nat) (w : Work) : State :=
  let i := dBody w.raw 0 2
  let g := dBody w.raw 2 1
  let n := s.streamNo p i
  let bytes := dBody w.raw 4 4
  if s.streamCount p ≤ i then s.rejectImport p w.slot 0x10
  else
    let (s1, st) := s.meet p [] met
    if 0x10 ≤ st then s1.endWork p w.slot st 0 0 false
    else match s1.hostRange p w (dBody w.raw 8 8) bytes with
      | (t, .error e) => t.endWork p w.slot e 0 0 false
      | (t, .ok _) =>
        let b := slice w.extra 0 bytes
        match t.checkBlob p i g bytes b with
        | .error e =>
          let t1 := t.rejectImport p w.slot e
          if e = 0x80 then t1.security 5 (some p) (BitVec.ofNat 64 (field b 0x10 8)) else t1
        | .ok image =>
          if (t.stream n).state ≠ .free then t.rejectImport p w.slot 0x44
          else match t.tryPin p (Params.swapFrames (t.params g)) (.swap n) with
            | none => t.rejectImport p w.slot 0x25
            | some u =>
              let u1 := { u with tickets := u.tickets.filter fun k => k.value.toNat ≠ field b 0x30 16 }
              let u2 := u1.setStream n { Stream.free with
                state := .idle, group := g, next := BitVec.ofNat 32 (field b 0x78 4), tag := BitVec.ofNat 64 (field b 0x40 8)
                moveCount := field b 0x48 4, framesSince := field b 0x80 8, gap := field b 0x7C 4 % 2, image := image }
              (u2.raise 0x5001 5).endWork p w.slot st 0 0 false

end State

/-! ### The meanings -/

/-- TICKET: the descriptor of operation code 0x42. -/
def execTicket (d : DescImage) (met : Met) (s : State) : Host.Outcome State Fault Refusal :=
  s.takeDesc 0x42 d [] (State.startTicket met)

/-- TICKET_EXPIRY. -/
def execTicketExpiry (ticket : BitVec 128) (s : State) : Host.Outcome State Fault Refusal :=
  .next (if s.alive then s.expireTicket ticket else s)

/-- EXPORT: the descriptor of operation code 0x43, with the ticket record that it reads. -/
def execExportStream (d : DescImage) (record : List Byte) (met : Met) (s : State) : Host.Outcome State Fault Refusal :=
  s.takeDesc 0x43 d record (State.startExport met)

/-- EXPORT_DRAINED: the last chunk taken before the export's seal has completed. -/
def execExportDrained (stream : Fin 16384) (met : Met) (s : State) : Host.Outcome State Fault Refusal :=
  .next <| match s.streamPart stream.val with
    | some p => if s.alive then s.finishExport p stream.val met else s
    | none => s

/-- IMPORT: the descriptor of operation code 0x44, with the blob that it reads. -/
def execImportStream (d : DescImage) (blob : List Byte) (met : Met) (s : State) : Host.Outcome State Fault Refusal :=
  s.takeDesc 0x44 d blob (State.startImport met)

end Sys2Proof.Machine
end

