-- ==== Sys2Proof/Machine/Attention.lean ====
section
/-! DEFINITION. Sequences, the key-value pool, and ATTEND (R188 to R218). -/

namespace Sys2Proof.Machine
namespace State

/-! ### The pool (R194 to R197) -/

def poolPages (s : State) (p : Nat) : Nat := 2 * s.rdn 0x5812 (p + 1)

/-- Pool pages that hold the reference counts (R195). -/
def countPages (s : State) (p : Nat) : Nat := (s.poolPages p + 16383) / 16384

/-- The device writes bytes at offset `o` of pool page `k` (R194). -/
def putPool (s : State) (p k o : Nat) (bs : List Byte) : State :=
  let (c, a) := s.poolLoc p k o
  s.privWrite c a bs

/-- The device writes zeros over the whole of pool page `k`. -/
def zeroPool (s : State) (p k : Nat) : State :=
  let (c, o) := s.poolLoc p k 0
  let a := bkey c o
  s.updMem fun m => { m with
    bonded := if NMap.get (fun _ => 0) m.lost c = 0 then clearRange a (a + 32768) m.bonded
      else putBytes m.bondedBase m.bonded a (List.replicate 32768 0)
    merge := m.merge.filter fun e => e.channel ≠ c || e.line < o / 64 || o / 64 + 512 ≤ e.line
    poisonBonded := clearRange (lineKey c (o / 64)) (lineKey c (o / 64) + 512) m.poisonBonded }

def pageCount (s : State) (p k : Nat) : Nat := NMap.get (fun _ => 0) (s.pool p).counts k
/-- The reference count of pool page `k` becomes `v`, in its 16 bits of the count pages (R195). -/
def setCount (s : State) (p k v : Nat) : State :=
  (s.setPool p { s.pool p with counts := NMap.set (fun _ => 0) (s.pool p).counts k v }).putPool p
    (k / 16384) (k % 16384 * 2) (leBytes 2 v)

/-- A pool page that nothing uses and no error has taken out. -/
def pageFree (s : State) (p k : Nat) : Bool :=
  s.countPages p ≤ k && k < s.poolPages p && s.pageCount p k = 0 && !(s.pool p).bad.contains k

/-- `KvPagesFree` and `KvPagesShared`. -/
def freePages (s : State) (p : Nat) : Nat := ((List.range (s.poolPages p)).filter (s.pageFree p)).length
def sharedPages (s : State) (p : Nat) : Nat := ((s.pool p).counts.filter fun x => 1 < x.2).length

/-- The lowest free pool page is taken, with a count of 1. -/
def takePage (s : State) (p : Nat) : Option (Nat × State) :=
  ((List.range (s.poolPages p)).find? (s.pageFree p)).map fun k => (k, s.setCount p k 1)

/-- A page is taken for a directory or a leaf: every entry of it is invalid. -/
def takeTable (s : State) (p : Nat) : Option (Nat × State) := (s.takePage p).map fun x => (x.1, x.2.zeroPool p x.1)

/-- A page's count falls by 1. -/
def dropPage (s : State) (p k : Nat) : State := s.setCount p k (s.pageCount p k - 1)

/-! ### Page tables (R196) -/

def leafOf (q : Seq) (v : Nat) : Option Nat := NMap.get (fun _ => none) q.leaves (v / 8192)

/-- Entry `i` of the directory or leaf in pool page `k` maps a page, or is invalid (Table 7-4). -/
def putEntry (s : State) (p k i : Nat) (x : Option Nat) : State :=
  s.putPool p k (4 * i) (leBytes 4 (x.elim 0 fun n => 2147483648 + n))

/-- The directory entry `d` of sequence `c` names a leaf, or none. -/
def setLeaf (p c d : Nat) (x : Option Nat) (s : State) : State :=
  let q := s.seq c
  (s.setSeq c { q with leaves := NMap.set (fun _ => none) q.leaves d x }).putEntry p q.dir d x

/-- The leaf entry of virtual page `v` of sequence `c` maps a pool page, or is invalid. -/
def setEntry (p c v : Nat) (x : Option Nat) (s : State) : State :=
  let q := s.seq c
  let s1 := s.setSeq c { q with pages := NMap.set (fun _ => none) q.pages v x }
  match leafOf q v with
  | some l => s1.putEntry p l (v % 8192) x
  | none => s1

/-- The leaf of virtual page `v` of sequence `c` is there: it is allocated with its first entry (R196). -/
def withLeaf (p c v : Nat) (s : State) : Option State :=
  match leafOf (s.seq c) v with
  | some _ => some s
  | none => (s.takeTable p).map fun x => setLeaf p c (v / 8192) (some x.1) x.2

/-- Virtual page `v` of sequence `c` is mapped to pool page `k`. -/
def mapPage (p c v k : Nat) (s : State) : Option State := (withLeaf p c v s).map (setEntry p c v (some k))

/-- Virtual page `v` of sequence `c` is mapped to a fresh page. -/
def mapFresh (p c v : Nat) (s : State) : Option State :=
  (withLeaf p c v s).bind fun t => (t.takePage p).map fun x => setEntry p c v (some x.1) x.2

/-- Virtual page `v` of sequence `c` is unmapped: its page loses a reference, and a leaf without entries is freed (R189). -/
def unmapPage (p c : Nat) (s : State) (v : Nat) : State :=
  let q := s.seq c
  match kvPage q v with
  | none => s
  | some k =>
    let s1 := setEntry p c v none (s.dropPage p k)
    if (s1.seq c).pages.any fun x => x.1 / 8192 = v / 8192 then s1
    else match leafOf q v with
      | none => s1
      | some l => setLeaf p c (v / 8192) none (s1.dropPage p l)

/-- Blocks that `n` tokens fill. -/
def blocksOf (q : Seq) (n : Nat) : Nat := (n + q.block - 1) / q.block

/-- Pages of the region of a sequence of `n` tokens (R192). -/
def regionPages (q : Seq) (n : Nat) : Nat := blocksOf q n * q.blockPages

/-- Virtual pages of block `k`. -/
def blockRange (q : Seq) (k : Nat) : List Nat := (List.range q.blockPages).map (k * q.blockPages + ·)

/-- KV_NO_PAGES: the operation or lane fails, and the flag is set (Table 7-11). -/
def noPages (s : State) : State := s.raise 0x5801 1

/-! ### SEQ_OPEN, SEQ_CLOSE, SEQ_FORK, SEQ_TRUNCATE -/

/-- The layout of R188 step 3 is allowed. -/
def layoutOk (layers heads size fmt : Nat) : Bool :=
  1 ≤ layers && layers ≤ 128 && 1 ≤ heads && heads ≤ 64 && (kvRow size fmt).isSome

/-- SEQ_OPEN once nothing holds it. -/
def startSeqOpen (s : State) (p : Nat) (w : Work) : State :=
  let b (o n : Nat) := dBody w.raw o n
  let c := s.seqBase p + b 0 2
  let fail (s : State) (st : Nat) := s.endWork p w.slot st 0 0 false
  let q : Seq := { Seq.free with
    state := .opened, layers := b 2 1, heads := b 3 1, headSize := b 4 2, fmt := b 6 1, maxTokens := b 8 4
    tag := BitVec.ofNat 64 (b 0x10 8) }
  if s.seqCount p ≤ b 0 2 then fail s 0x10
  else if (s.seq c).state ≠ .free then fail s 0x51
  else if !layoutOk (b 2 1) (b 3 1) (b 4 2) (b 6 1) then fail s 0x52
  else if b 8 4 = 0 || 262144 < b 8 4 || 2097152 < regionPages q (b 8 4) then fail s 0x10
  else match s.takeTable p with
    | none => fail s.noPages 0x55
    | some (k, t) => (t.setSeq c { q with dir := k }).endWork p w.slot 0 0 0 false

/-- Everything that a sequence maps goes back to the pool, every walker forgets its translations (R205), and its context is FREE (R189). -/
def freeSeq (s : State) (p c : Nat) : State :=
  let s1 := ((s.seq c).pages.map Prod.fst).foldl (unmapPage p c) (s.dropLab c)
  (s1.dropPage p (s1.seq c).dir).setSeq c Seq.free

/-- SEQ_CLOSE once nothing holds it: R190 has made it wait for every lane that held the sequence. -/
def startSeqClose (s : State) (p : Nat) (w : Work) : State :=
  let c := s.seqBase p + dBody w.raw 0 2
  if s.seqCount p ≤ dBody w.raw 0 2 then s.endWork p w.slot 0x10 0 0 false
  else if (s.seq c).state = .free then s.endWork p w.slot 0x50 0 0 false
  else (s.freeSeq p c).endWork p w.slot 0 0 0 false

/-- A leaf entry of the fork's destination: the page gains a reference (R200). -/
def sharePage (p c : Nat) (r : Option State) (x : Nat × Nat) : Option State :=
  r.bind fun s => (mapPage p c x.1 x.2 s).map fun t => t.setCount p x.2 (t.pageCount p x.2 + 1)

/-- SEQ_FORK once nothing holds it. -/
def startSeqFork (s : State) (p : Nat) (w : Work) : State :=
  let b (o n : Nat) := dBody w.raw o n
  let a := s.seqBase p + b 0 2
  let d := s.seqBase p + b 2 2
  let q := s.seq a
  let fail (s : State) (st : Nat) := s.endWork p w.slot st 0 0 false
  if s.seqCount p ≤ b 0 2 || s.seqCount p ≤ b 2 2 then fail s 0x10
  else if q.state = .free then fail s 0x50
  else if q.state = .failed then fail s 0x22
  else if (s.seq d).state ≠ .free then fail s 0x51
  else if q.length < b 4 4 then fail s 0x53
  else if b 8 4 < b 4 4 || 262144 < b 8 4 || 2097152 < regionPages q (b 8 4) then fail s 0x10
  else match s.takeTable p with
    | none => fail s.noPages 0x55
    | some (k, t) =>
      let t1 := ((t.dropLab a).dropLab d).setSeq d { q with
        maxTokens := b 8 4, length := b 4 4, tag := BitVec.ofNat 64 (b 0x10 8), dir := k, leaves := [], pages := [] }
      let shared := (List.range (regionPages q (b 4 4))).filterMap fun v => (kvPage q v).map fun k => (v, k)
      match shared.foldl (sharePage p d) (some t1) with
      | none => fail s.noPages 0x55
      | some t2 => t2.endWork p w.slot 0 0 0 false

/-- SEQ_TRUNCATE once nothing holds it. -/
def startSeqTruncate (s : State) (p : Nat) (w : Work) : State :=
  let c := s.seqBase p + dBody w.raw 0 2
  let n := dBody w.raw 4 4
  let q := s.seq c
  let fail (st : Nat) := s.endWork p w.slot st 0 0 false
  if s.seqCount p ≤ dBody w.raw 0 2 then fail 0x10
  else if q.state = .free then fail 0x50
  else if q.state = .failed then fail 0x22
  else if q.length < n then fail 0x53
  else if n = q.length then fail 0
  else
    let s1 := (s.dropLab c).setSeq c { q with length := n }
    let gone := (q.pages.map Prod.fst).filter fun v => regionPages q n ≤ v
    (gone.foldl (unmapPage p c) s1).endWork p w.slot 0 0 0 false

/-! ### ATTEND (R199, R209 to R212) -/

/-- The 32 KiB from key `a` on are copied to key `b`. -/
def copyPage (s : State) (a b : Nat) : State :=
  let clean (k : Nat) : Bool := NMap.get (fun _ => 0) s.mem.lost (k / 0x8000000) = 0
  if clean a && clean b then s.updMem fun m => { m with bonded := copyBytes m.bondedBase b 32768 (some a) m.bonded }
  else s.updMem fun m => { m with bonded := putBytes m.bondedBase m.bonded b (bytesAt m.bondedBase m.bonded a 32768) }

/-- Block `k` of sequence `c` is copied: fresh pages take the originals' bytes and places, and every walker forgets the sequence's translations (R199 step 2, R205). -/
def copyBlock (p c k : Nat) (s : State) : Option State :=
  (blockRange (s.seq c) k).foldl (fun (r : Option State) v => r.bind fun s =>
    match kvPage (s.seq c) v with
    | none => some s
    | some old =>
      (s.takePage p).map fun x =>
        let (c1, o1) := s.poolLoc p old 0
        let (c2, o2) := s.poolLoc p x.1 0
        (setEntry p c v (some x.1) (x.2.copyPage (bkey c1 o1) (bkey c2 o2))).dropPage p old) (some (s.dropLab c))

/-- The pages that a lane's tokens need: the state, and the number of pages copied. -/
def lanePages (p c first n : Nat) (s : State) : Option (State × Nat) :=
  let q := s.seq c
  let blocks := (List.range ((first + n - 1) / q.block + 1 - first / q.block)).map (first / q.block + ·)
  let fresh := blocks.filter fun k => (kvPage q (k * q.blockPages)).isNone
  let mapped := (fresh.flatMap (blockRange q)).foldl (fun (r : Option State) v => r.bind (mapFresh p c v)) (some s)
  let shared := blocks.filter fun k => (blockRange q k).any fun v => match kvPage q v with
    | some x => decide (1 < s.pageCount p x)
    | none => false
  (shared.foldl (fun (r : Option State) k => r.bind (copyBlock p c k)) mapped).map fun t =>
    ((shared.foldl (fun s _ => s.raise 0x5801 0) t).bump64 0x5815 (p + 1) (shared.length * q.blockPages),
      shared.length * q.blockPages)

/-- R211 on one lane but for step 8: 0, or the lane's status. -/
def laneCheck (s : State) (p : Nat) (r : List Byte) (before : List Lane) (j n : Nat) : Nat :=
  let c := s.seqBase p + j
  let q := s.seq c
  if s.seqCount p ≤ j then 0x10
  else if q.state = .free then 0x50
  else if q.state = .failed then 0x22
  else if q.layers ≠ field r 8 1 || q.heads ≠ field r 9 1 || q.headSize ≠ field r 0xA 2 || q.fmt ≠ field r 0xC 1 then 0x52
  else if n = 0 || field r 0x14 2 < n then 0x10
  else if q.maxTokens < q.length + n then 0x53
  else if field r 0x10 4 < q.length + n then 0x54
  else if before.any fun l => l.seq = c && l.rejected then 0x57
  else 0

/-- A lane of the table is admitted or rejected (R199, R211). -/
def admitLane (p : Nat) (r : List Byte) (x : State × List Lane) (e : Nat × Nat) : State × List Lane :=
  let s := x.1
  let c := s.seqBase p + e.1
  let reject (s : State) (st : Nat) : State × List Lane :=
    ((s.bump32 0x5817 (p + 1) 1).raise 0x5801 3, x.2 ++ [⟨c, e.2, 0, 0, st, 0, false⟩])
  match s.laneCheck p r x.2 e.1 e.2 with
  | 0 =>
    let q := s.seq c
    match s.lanePages p c q.length e.2 with
    | none => reject s.noPages 0x55
    | some (t, cow) =>
      (t.setSeq c { t.seq c with length := q.length + e.2 }, x.2 ++ [⟨c, e.2, q.length, q.length + e.2, 0, cow, false⟩])
  | st => reject s st

/-- Lanes that name one sequence are adjacent in the table. -/
def lanesAdjacent : List Nat → Bool
  | [] => true
  | a :: rest => !((rest.dropWhile (· = a)).contains a) && lanesAdjacent rest


/-- The device's read of a table of `n` bytes in device memory meets a poisoned word or line (0x20), or a marked line (0x80, with its place); 0 otherwise (R42, R114). -/
def tableRead (s : State) (p : Nat) (l : Loaded) (a n : Nat) : Nat × W64 :=
  match region a with
  | some (.window o) => (if s.windowPoison p o n then 0x20 else 0, 0)
  | some (.state o) => (if wordsBad s.mem.poisonState (s.stateLoc p o) n then 0x20 else 0, 0)
  | some (.slotWindow k o) =>
    let t := (l.place[k]?).getD 0
    match s.markedIn t o n with
    | some x => (0x80, BitVec.ofNat 64 (t * 4294967296 + x))
    | none => (if wordsBad s.mem.poisonTile (t * 0x100000 + o) n then 0x20 else 0, 0)
  | _ => (0, 0)

/-- ATTEND once nothing holds it. -/
def startAttend (met : Met) (s : State) (p : Nat) (w : Work) : State :=
  let id := BitVec.ofNat 64 (dBody w.raw 0 8)
  let n := dBody w.raw 0x18 2
  let table := s.laneTable p w
  let lanes := (List.range n).map fun i => (field table (8 * i) 2, field table (8 * i + 2) 2)
  let fail (s : State) (st : Nat) := s.endWork p w.slot st 0 0 false
  if ((List.range n).any fun i => field table (8 * i + 4) 4 ≠ 0) || !lanesAdjacent (lanes.map Prod.fst) then fail s 0x12
  else match (s.findPlan p id).filter fun l => l.kind = 2 with
    | none => fail s 0x56
    | some l0 =>
      let at1 := s.tableAt p id (dBody w.raw 8 8) (8 * n)
      let at2 := s.tableAt p id (dBody w.raw 0x10 8) (8 * n)
      if n = 0 || field l0.activeParams 0xE 2 < n || at1 = 0x10 || at2 = 0x10 then fail s 0x10
      else if at1 ≠ 0 || at2 ≠ 0 then fail (s.raise 0x4001 9) 0x24
      else match s.rePlace p l0 with
        | none => fail s 0x32
        | some l =>
          let (s1, st) := s.meet p [] met
          if l.place.any s.shifting then s.setPhase p w.slot .held
          else if 0x10 ≤ st then fail s1 st
          else if isHost (dBody w.raw 8 8) && !s1.busMaster (workFn p w) then fail s1.busBlocked 0x23
          else if (s1.tableRead p l (dBody w.raw 8 8) (8 * n)).1 = 0x20 then fail s1 0x20
          else if (s1.tableRead p l (dBody w.raw 8 8) (8 * n)).1 = 0x80 then
            (fail s1 0x80).security 2 (some p) (s1.tableRead p l (dBody w.raw 8 8) (8 * n)).2
          else
            let (s2, ls) := lanes.foldl (admitLane p l.activeParams) (s1, [])
            let s3 := (s2.updPlan p id fun x => { x with place := l.place }).bump64 0x5816 (p + 1) 1
            (s3.startInvocation p l w.slot true ls).updInv p id fun v => { v with corrected := st = 1 }

/-- The lanes of an ATTEND whose own data an error met: those whose sequence has the pool page, or whose input or output it is; none when the data serves the whole step. -/
def lanesMet (s : State) (p : Nat) (l : Loaded) (v : Invocation) (e : MemErr) : Option (List Nat) :=
  match e.place with
  | .frame f o =>
    if f < s.rdn 0x5812 (p + 1) then
      some ((List.range v.lanes.length).filter fun b => (v.lanes[b]?).any fun x =>
        !x.rejected && (s.seq x.seq).has (f * 2 + o / 32768))
    else none
  | .view a => (Run.laneOfAddr (s.runCtx p l v) a).map fun b => [b]

/-- One error that an ATTEND met: a status for the whole step, else its lanes have taken it (R114, R212, R214). -/
def attendMeetErr (p : Nat) (l : Loaded) (v : Invocation) (x : State × Nat) (e : MemErr) : State × Nat :=
  let (t, st) := x.1.meetErr p l.place e
  match x.1.lanesMet p l v e with
  | none => (t, worse x.2 st)
  | some bs =>
    let mark (y : Lane) : Lane :=
      if st = 1 then { y with corrected := true } else if 0x10 ≤ st && y.status = 0 then { y with status := st } else y
    let all (ls : List Lane) : List Lane := ls.zipIdx.map fun (y : Lane × Nat) => if bs.contains y.2 then mark y.1 else y.1
    (t.updInv p l.plan.planId fun v => { v with lanes := all v.lanes }, x.2)

/-- What an ATTEND met: 0 none or lanes only, 1 corrected, else the status of every lane that has none. -/
def attendMeets (s : State) (p : Nat) (l : Loaded) (v : Invocation) (met : Met) : State × Nat :=
  let r := met.errs.foldl (attendMeetErr p l v) (s, 0)
  if met.hostFault then (if 0x10 ≤ r.2 then r else (r.1.raise 0x4001 10, 0x23)) else r

/-- ATTEND_STEP_END: the last cheap point passes, and lane statuses and completion follow. -/
def attendEnd (met : Met) (s : State) (p : Nat) (id : W64) : State :=
  match s.findPlan p id, s.findInv p id with
  | some l, some v =>
    if !v.attend || !s.progresses p id || s.shiftAhead l v then s
    else
      let (s1, st) := s.attendMeets p l v met
      if 0x10 ≤ st then s1.endInvocation p id st
      else
        let (s2, stop) := (s1.updInv p id fun v => { v with corrected := v.corrected || st = 1 }).advanceEnd p id
        match stop with
        | .ended x => s2.endInvocation p id x
        | .waits => s2
        | .passed => s2.endInvocation p id 0
  | _, _ => s

/-! ### Views (Tables 7-10, 7-12) -/

/-- `5900` SeqState. -/
def seqState (s : State) (c : Nat) : Nat :=
  let q := s.seq c
  let owner := (List.range 128).find? fun p => s.seqBase p ≤ c && c < s.seqBase p + s.seqCount p
  let code := match q.state with | .free => 0 | .opened => 1 | .failed => 2
  let shared := match owner with
    | some p => q.pages.any fun x => match x.2 with | some k => decide (1 < s.pageCount p k) | none => false
    | none => false
  owner.getD 0xFF * 16777216 + 32 * b2n shared + 16 * b2n (s.inStep c) + code

/-- `59A0` SeqLayout. -/
def seqLayout (s : State) (c : Nat) : Nat :=
  let q := s.seq c
  q.layers * 16777216 + q.heads * 65536 + q.headSize * 16 + q.fmt

end State

/-! ### The meanings -/

/-- SEQ_OPEN: the descriptor of operation code 0x50. -/
def execSeqOpen (d : DescImage) (s : State) : Host.Outcome State Fault Refusal :=
  s.takeDesc 0x50 d [] State.startSeqOpen

/-- SEQ_CLOSE: the descriptor of operation code 0x51. -/
def execSeqClose (d : DescImage) (s : State) : Host.Outcome State Fault Refusal :=
  s.takeDesc 0x51 d [] State.startSeqClose

/-- SEQ_FORK: the descriptor of operation code 0x52. -/
def execSeqFork (d : DescImage) (s : State) : Host.Outcome State Fault Refusal :=
  s.takeDesc 0x52 d [] State.startSeqFork

/-- SEQ_TRUNCATE: the descriptor of operation code 0x53. -/
def execSeqTruncate (d : DescImage) (s : State) : Host.Outcome State Fault Refusal :=
  s.takeDesc 0x53 d [] State.startSeqTruncate

/-- ATTEND: the descriptor of operation code 0x54, with the lane table that it reads. -/
def execAttend (d : DescImage) (table : List Byte) (met : Met) (s : State) : Host.Outcome State Fault Refusal :=
  withStops d.part (s.takeDesc 0x54 d table (State.startAttend met))

/-- ATTEND_STEP_END. -/
def execAttendStepEnd (p : Fin 128) (planId : W64) (met : Met) (s : State) : Host.Outcome State Fault Refusal :=
  .next (s.attendEnd met p.val planId)

end Sys2Proof.Machine
end

