-- ==== Sys2Proof/Machine/Install.lean ====
section
/-! DEFINITION. Installing and removing models: the package's format, the checks of each install step, pages as they are written, repair, abort and removal (R146 to R150, R373, R374, Tables 5-6, 5-7, 14-4 to 14-6). -/

namespace Sys2Proof.Machine

/-! ### The package's format -/

namespace Package

def manifestBytes (h : List Byte) : Nat := field h 0x10 4
def wrapCount (h : List Byte) : Nat := field h 0x14 2
def pageCount (h : List Byte) : Nat := field h 0x18 4
def pagesOffset (h : List Byte) : Nat := field h 0x20 8
def imagesOffset (h : List Byte) : Nat := field h 0x28 8
def packageBytes (h : List Byte) : Nat := field h 8 8
/-- End of the last wrap entry. -/
def frontBytes (h : List Byte) : Nat := 64 + manifestBytes h + 3312 + 6512 + 0x4C0 * wrapCount h

/-- The header's format (Table 14-4), and its parts in order and inside the package. -/
def headerOk (h : List Byte) : Bool :=
  field h 0 4 = 0x474B504D && field h 4 2 = 0x0100 && field h 6 2 = 0x40 &&
  1 ≤ wrapCount h && wrapCount h ≤ 64 && allZero (slice h 0x16 2) && allZero (slice h 0x1C 4) &&
  allZero (slice h 0x30 16) && pagesOffset h % 4096 = 0 && frontBytes h ≤ pagesOffset h &&
  imagesOffset h = pagesOffset h + pageCount h * 65600 && imagesOffset h ≤ packageBytes h

def manifest (f : List Byte) : List Byte := slice f 64 (manifestBytes f)
def planCount (m : List Byte) : Nat := field m 0x3C 2
def signature (f : List Byte) : List Byte := slice f (64 + manifestBytes f) 3312
def cert (f : List Byte) : List Byte := slice f (64 + manifestBytes f + 3312) 6512
def wrap (f : List Byte) (i : Nat) : List Byte := slice f (64 + manifestBytes f + 3312 + 6512 + 0x4C0 * i) 0x4C0

/-- Bytes of the parameter record of a plan of the given kind that begins `r`. -/
def paramBytes (kind : Nat) (r : List Byte) : Nat :=
  if kind = 1 then 64
  else if kind = 2 then 64 + 32 * field r 0x16 2
  else if kind = 3 then 32 + 64 * field r 8 2 + 48 * field r 0xA 2
  else 0

/-- The plan entries of a manifest with their parameter records, and how many bytes of records they use. -/
def plans (m : List Byte) : List ModelPlan × Nat :=
  let base := 0x800 + 64 * planCount m
  (List.range (planCount m)).foldl (fun (a : List ModelPlan × Nat) i =>
    let e := slice m (0x800 + 64 * i) 64
    let kind := field e 0x14 1
    let n := paramBytes kind (slice m (base + a.2) 64)
    let x : ModelPlan :=
      { planId := BitVec.ofNat 64 (field e 0 8), offset := field e 8 8, bytes := field e 0x10 4, kind := kind
        digest := slice e 0x20 32, params := slice m (base + a.2) n }
    (a.1 ++ [x], a.2 + n)) ([], 0)

/-- The manifest's format (Table 14-5). -/
def manifestOk (h m : List Byte) : Bool :=
  1 ≤ planCount m && planCount m ≤ 1024 &&
  m.length = 0x800 + 64 * planCount m + field m 0x3E 2 && (plans m).2 = field m 0x3E 2 &&
  allZero (slice m 0x7E0 32) && field m 0x20 8 % 65536 = 0 && field m 0x28 8 % 65536 = 0 &&
  pageCount h = field m 0x28 8 / 65536 &&
  (List.range (planCount m)).all fun i =>
    let e := slice m (0x800 + 64 * i) 64
    field e 0x14 1 ≤ 3 && allZero (slice e 0x15 11) && imagesOffset h + field e 8 8 + field e 0x10 4 ≤ packageBytes h

/-- A wrap entry's format (Table 14-6). -/
def wrapOk (w : List Byte) : Bool :=
  (field w 0 1 = 1 || (field w 0 1 = 2 && allZero (slice w 0x10 8))) && allZero (slice w 1 7) &&
  allZero (slice w 0x458 8) && allZero (slice w 0x488 56)

/-- Step 2 of Table 5-6 but for the length. -/
def formatOk (f : List Byte) : Bool :=
  headerOk f && manifestOk f (manifest f) && (List.range (wrapCount f)).all fun i => wrapOk (wrap f i)

/-- Step 3: the vendor certificate, VendorId against it, and the manifest signature. -/
def authentic (f : List Byte) : Bool :=
  certOk 3 (cert f) && field (manifest f) 0x30 8 = certSubject (cert f) &&
  signedBy (certDsa (cert f)) (f.take (64 + manifestBytes f)) (signature f)

end Package

namespace State

/-! ### Checks of an install -/

/-- Step 4: the first wrap entry whose recipient is this device or a fleet it holds; its model key, or the status that ends the install (R373). -/
def modelKey (s : State) (f : List Byte) : Except Nat (List Byte) :=
  let seedOf (w : List Byte) : Option (List Byte) :=
    if field w 0 1 = 1 then (if slice w 8 16 = s.serialBytes then some kemSeed else none)
    else (s.sec.fleets.find? fun x => x.id.toNat = field w 8 8).map Fleet.seed
  match ((List.range (Package.wrapCount f)).findSome? fun i =>
      (seedOf (Package.wrap f i)).map fun d => (Package.wrap f i, d)) with
  | none => .error 5
  | some (w, d) =>
    match unwrapWith d (slice w 0x18 1088) (f.take 64 ++ slice (Package.manifest f) 0 0x40) (slice w 0x460 40) with
    | none => .error 4
    | some k => .ok k

/-- Image pages of a package (R124). -/
def imageCount (f : List Byte) : Nat := (Package.packageBytes f - Package.imagesOffset f + 65535) / 65536

/-- The model that a package describes, with its key. -/
def newModel (f key : List Byte) : Model :=
  let m := Package.manifest f
  { state := 1, base := field m 0x20 8, bytes := field m 0x28 8, digest := slice m 0 32
    planKey := slice m 0x40 1952, key := key, plans := (Package.plans m).1, imagePages := imageCount f }

/-- The slot of the installed model with a digest. -/
def digestSlot (s : State) (d : List Byte) : Option Nat :=
  (List.range 256).find? fun m => 2 ≤ (s.model m).state && (s.model m).digest = d

/-- A region leaves the weight range or overlaps another model's. -/
def regionBusy (s : State) (base bytes : Nat) : Bool :=
  0x40000000000 < base + bytes ||
  (List.range 256).any fun m =>
    (s.model m).state ≠ 0 && base < (s.model m).base + (s.model m).bytes && (s.model m).base < base + bytes

/-- The weight pages, then the image pages, of a model in slot `m`. -/
def allPages (m : Nat) (x : Model) : List PageId :=
  ((List.range (x.bytes / 65536)).map fun i => ⟨m, false, x.base / 65536 + i⟩) ++
  ((List.range x.imagePages).map fun k => ⟨m, true, k⟩)

/-- The pages of a degraded model that a repair writes, in the order of steps 6 and 7. -/
def lostPages (s : State) (m : Nat) : List PageId :=
  (allPages m (s.model m)).filter s.isLost

/-- Step 5 of Table 5-6: the slot, whether the install repairs it, or the result that ends it (R148). -/
def placeModel (s : State) (x : Model) : Except Nat (Nat × Bool) :=
  match s.digestSlot x.digest with
  | some m =>
    if (s.model m).state ≠ 3 then .error 14
    else if x.base ≠ (s.model m).base || x.bytes ≠ (s.model m).bytes then .error 6
    else .ok (m, true)
  | none =>
    if s.regionBusy x.base x.bytes then .error 6
    else match (List.range 256).find? fun m => (s.model m).state = 0 with
      | none => .error 13
      | some m => if s.freeBytes < x.bytes + x.imagePages * 65536 then .error 7 else .ok (m, false)

/-! ### Results -/

/-- An install or remove ends with a result (Tables 5-7, 5-9). -/
def installResult (s : State) (r : Nat) : State :=
  let s1 := (s.wrn 0x4480 6 r).wrn 0x4480 5 0
  if r = 1 then s1 else s1.raise 0x4401 10

/-- A command while an install runs ends with BUSY (step 1); the running install and `InstallState` go on. -/
def busyResult (s : State) : State := (s.wrn 0x4480 6 2).raise 0x4401 10

/-- An install ends with AUTH: PACKAGE_AUTH with the failed page, or with no page (Table 14-7, R469). -/
def installAuth (s : State) (page : Nat) : State :=
  (s.installResult 4).security 1 none (BitVec.ofNat 64 page)

/-- What a command that starts an install or a remove meets while one runs. -/
def installBusy (s : State) : Bool := s.bedrock.job.isSome

/-- A running install ends with a result other than OK: the pages written for a new model go, and its slot is EMPTY again; a repair keeps what it repaired (R147, R148). -/
def dropInstall (s : State) : State :=
  match s.bedrock.job with
  | none => s
  | some j =>
    let s1 := s.updBedrock fun b => { b with job := none }
    if j.repair then
      let m := s1.model j.slot
      s1.setModel j.slot { m with state := if (s1.lostPages j.slot).isEmpty then 2 else 3 }
    else
      let t := s1.updBedrock fun b => { b with library := b.library.filter fun x => x.id.model ≠ j.slot }
      t.setModel j.slot ⟨0, 0, 0, [], [], [], [], 0⟩

/-! ### The commands -/

/-- Steps 3 to 5 for a package whose format and length are right. -/
def admitPackage (s : State) (a : Nat) (f : List Byte) : State :=
  if !Package.authentic f then s.installAuth 0xFFFFFFFF
  else match s.modelKey f with
    | .error r => if r = 4 then s.installAuth 0xFFFFFFFF else s.installResult r
    | .ok key =>
      let x := newModel f key
      match s.placeModel x with
      | .error r => s.installResult r
      | .ok (m, repair) =>
        let s1 := (s.wrn 0x4480 8 m).wrn 0x4480 5 2
        let old := s1.model m
        let s2 := if repair then s1.setModel m { old with state := 4 } else s1.setModel m x
        let todo := if repair then s2.lostPages m else allPages m x
        let j : InstallJob :=
          { slot := m, repair := repair, aborting := false, todo := todo, package := a, bytes := Package.packageBytes f
            pagesOffset := Package.pagesOffset f, imagesOffset := Package.imagesOffset f }
        s2.updBedrock fun b => { b with job := some j }

/-- INSTALL: steps 1 to 5 (R146). The physical function reads the package. -/
def startInstall (s : State) (header : List Byte) (hostFault : Bool) : State :=
  let a := s.rdn 0x4480 1
  let n := s.rdn 0x4480 2
  if s.installBusy then s.busyResult
  else if a % 4096 ≠ 0 || n < 65536 then s.installResult 3
  else
    let s0 := s.wrn 0x4480 7 0
    if !s0.busMaster 0 then s0.busBlocked.installResult 8
    else if hostFault then (s0.raise 0x4001 10).installResult 8
    else
      let s1 := s0.toHost a header
      let h := s1.fromHost a 64
      if !Package.headerOk h then s1.installResult 3
      else
        let f := s1.fromHost a (Package.frontBytes h)
        if !Package.formatOk f then s1.installResult 3
        else if Package.packageBytes f ≠ n then s1.installResult 12
        else s1.admitPackage a f

/-- A page's stripe is written into the library (R123). -/
def writePage (s : State) (id : PageId) (data tag : List Byte) : State :=
  let (n, s1) := s.draw
  let places := s1.newPlaces [] n
  s1.updBedrock fun b =>
    { b with library := (b.library.filter fun x => x.id ≠ id) ++ [⟨id, data, tag, places⟩]
             lost := b.lost.filter fun x => x.id ≠ id }

/-- Host address of a page in its package, and how many bytes of it the package holds: a weight page with its trailer (R374), or 64 KiB of the image area (R124). -/
def packageAt (s : State) (j : InstallJob) (id : PageId) : Nat × Nat :=
  if id.image then (j.package + j.imagesOffset + id.page * 65536, min 65536 (j.bytes - j.imagesOffset - id.page * 65536))
  else (j.package + j.pagesOffset + (id.page - (s.model j.slot).base / 65536) * 65600, 65600)

/-- An image page as the package holds it, filled with zeros behind the last image. -/
def packageImage (s : State) (j : InstallJob) (id : PageId) : List Byte :=
  let x := s.packageAt j id
  s.fromHost x.1 x.2 ++ List.replicate (65536 - x.2) 0

/-- The bytes of a plan image while page `id` is about to be written: that page and the pages that are still lost from the package, the others from the library. -/
def imageAsRead (s : State) (j : InstallJob) (id : PageId) (e : ModelPlan) : List Byte :=
  let area := (imagePages j.slot e.offset e.bytes).flatMap fun k =>
    if k = id || s.isLost k then s.packageImage j k
    else match s.storedPage k with
      | some x => slice x.data 0 65536
      | none => List.replicate 65536 0
  slice area (e.offset % 65536) e.bytes

/-- The images whose digests are checked before image page `id` is written: those whose last byte it holds (step 7), and in a repair every image that it holds a part of (R148). -/
def imagesDue (s : State) (j : InstallJob) (id : PageId) : List ModelPlan :=
  (s.model j.slot).plans.filter fun e =>
    if j.repair then (imagePages j.slot e.offset e.bytes).contains id
    else (e.offset + e.bytes - 1) / 65536 = id.page

/-- A page passes the check of step 6 or 7: a weight page its GCM tag (R374), an image page the digests of its images. -/
def pageAuthentic (s : State) (j : InstallJob) (id : PageId) : Bool :=
  let m := s.model j.slot
  if id.image then
    (s.imagesDue j id).all fun e => slice (Config.shake256 (s.imageAsRead j id e) 32) 0 32 = e.digest
  else
    let i := id.page - m.base / 65536
    let data := s.fromHost (s.packageAt j id).1 65552
    (Config.gcmOpen m.key (leBytes 8 i ++ leBytes 4 0) (m.digest ++ leBytes 8 i) (slice data 0 65536) (slice data 65536 16)).isSome

/-- What PACKAGE_AUTH names: the number of a weight page in its package, and no page for an image (R469). -/
def packagePage (m : Model) (id : PageId) : Nat :=
  if id.image then 0xFFFFFFFF else id.page - m.base / 65536

/-- Step 8: the model becomes visible, DEGRADED when a page of it is lost (R134, R148). -/
def finishInstall (s : State) (j : InstallJob) : State :=
  let m := s.model j.slot
  let s1 := s.updBedrock fun b => { b with job := none }
  let s2 := s1.setModel j.slot { m with state := if (s1.lostPages j.slot).isEmpty then 2 else 3 }
  (s2.raise 0x4401 9).installResult 1

/-- INSTALL_PAGE: the next page is read from the host, which answers with `data`, checked and written; the last one ends the install (steps 6 to 8, R147, R148). The tag and the digests are judged by the bytes; `tagOk` and `digestOk` can only add a failure. -/
def installPage (s : State) (data : List Byte) (tagOk digestOk hostFault : Bool) : State :=
  match s.bedrock.job with
  | none => s
  | some j =>
    if !s.wheelRuns || !s.ftlRuns || s.bedrock.patrolFirst then s
    else if j.aborting then s.dropInstall.installResult 9
    else match j.todo with
      | [] => s.finishInstall j
      | id :: rest =>
        if !s.busMaster 0 then s.busBlocked.dropInstall.installResult 8
        else if hostFault then (s.raise 0x4001 10).dropInstall.installResult 8
        else
        let s0 := s.toHost (s.packageAt j id).1 (data.take (s.packageAt j id).2)
        if (id.image && !digestOk) || (!id.image && !tagOk) || !s0.pageAuthentic j id then
          s0.dropInstall.installAuth (packagePage (s.model j.slot) id)
        else
          let page := if id.image then s0.packageImage j id else s0.fromHost (s0.packageAt j id).1 65552
          let tag := if id.image then List.replicate 16 0 else slice page 65536 16
          let s1 := (s0.writePage id (slice page 0 65536) tag).bump64 0x4480 7 65536
          let j1 := { j with todo := rest }
          if rest.isEmpty then s1.finishInstall j1
          else s1.updBedrock fun b => { b with job := some j1 }

/-- INSTALL_ABORT: a running install stops at the next page boundary. -/
def abortInstall (s : State) : State :=
  match s.bedrock.job with
  | none => s
  | some j => (s.updBedrock fun b => { b with job := some { j with aborting := true } }).wrn 0x4480 5 4

/-- A partition has a plan of model `m` loaded or being loaded. -/
def modelPlans (s : State) (m : Nat) : List Nat :=
  s.partKeys.filter fun p =>
    ((s.part p).plans.any fun l => l.model = m) || ((s.part p).loads.any fun j => j.model = m) ||
    ((s.part p).work.any fun w => w.phase = .held && dOpcode w.raw = 0x01 && dBody w.raw 0 2 = m)

/-- A stream group, or the roost, is bound to model `m`. -/
def modelBound (s : State) (m : Nat) : Bool :=
  ((List.range 64).any fun g => s.rdn 0x5101 (g + 1) = m) || s.rdn 0x6840 1 = m

/-- REMOVE (R150). -/
def removeModel (s : State) : State :=
  let m := s.rdn 0x4480 4
  if s.installBusy then s.busyResult
  else if 256 ≤ m || (s.model m).state = 0 then s.installResult 11
  else if !(s.modelPlans m).isEmpty || s.modelBound m then s.installResult 10
  else
    let x := s.model m
    let lo := x.base / 65536
    let hi := (x.base + x.bytes) / 65536
    let mine (n : Nat) : Bool := lo ≤ n && n < hi
    let s1 := s.partKeys.foldl (fun s p => (s.emptyFrames p fun u => match u with
      | .page n _ | .filling n => mine n
      | _ => false).updPart p fun y => { y with migrations := y.migrations.filter fun g => !mine g.page }) s
    let blocks := ((s.bedrock.library.filter fun y => y.id.model = m).flatMap StoredPage.chunks).eraseDups
    let s2 := s1.updBedrock fun b =>
      { b with library := b.library.filter fun y => y.id.model ≠ m
               lost := b.lost.filter fun y => y.id.model ≠ m
               reads := b.reads.filter fun r => r.id.model ≠ m }
    ((blocks.foldl (fun s k => s.queueUpkeep .reclaim k) s2).setModel m ⟨0, 0, 0, [], [], [], [], 0⟩).installResult 1

end State

/-- INSTALL_PAGE. -/
def execInstallPage (data : List Byte) (tagOk digestOk hostFault : Bool) (s : State) : Host.Outcome State Fault Refusal :=
  .next (s.installPage data tagOk digestOk hostFault)

end Sys2Proof.Machine
end

