-- ==== Sys2Proof/Machine/Nmt.lean ====
section
/-! DEFINITION. The CAN controllers: the active node-ID, Reset Communication, and what switches a controller on and off (R429 to R431, R440). -/

namespace Sys2Proof.Machine
namespace State

/-- The node-ID that R430 chooses, and its source: 1 straps, 2 stored, 0 none. -/
def nodeChoice (s : State) : Nat × Nat :=
  let strap := s.rdn 0x2010 4
  let stored := s.rdn 0x2010 1
  if 1 ≤ strap && strap ≤ 127 then (strap, 1)
  else if 1 ≤ stored && stored ≤ 127 then (stored, 2)
  else (0xFF, 0)

/-- The active node-ID becomes the one that R430 chooses. -/
def chooseNode (s : State) : State :=
  let (id, src) := s.nodeChoice
  if id = s.rdn 0x2010 2 then s.wrn 0x2010 3 src
  else ((s.wrn 0x2010 2 id).wrn 0x2010 3 src).raise 0x2013 6

/-- Reset Communication on controller n (R429, R430, R431): the transfer in progress ends without an abort frame, the configuration and the node-ID apply, and the boot-up message goes out. -/
def resetComm (s : State) (n : Nat) : State :=
  let cfg := BitVec.ofNat 32 (s.rdn 0x2011 (n + 1))
  if !bit cfg.toNat 0 then s.setCan n { Can.off with cfg := cfg }
  else
    let s1 := s.chooseNode
    let id := s1.rdn 0x2010 2
    let s2 := { s1.updCan n fun c =>
      { c with nmt := if id = 0xFF then 5 else 1, err := if c.err = 3 then 0 else c.err, cfg := cfg
               rate := bits cfg.toNat 19 16, node := id, sdo := none, lss := Lss.idle }
      with rpdoWait := s1.rpdoWait.filter fun x => x.1 ≠ n }
    if id = 0xFF then s2
    else (s2.canSend n (0x700 + id) [0]).updCan n fun c => { c with nmt := if bit cfg.toNat 3 then 3 else 2 }

/-- Reset Communication on every controller that is not held: Virkin starts, or the device enters WATCH from below (R440). -/
def startCans (s : State) : State :=
  [0, 1].foldl (fun s n => if s.faults.heldCans.contains n then s else s.resetComm n) s

/-- Both controllers are off. -/
def stopCans (s : State) : State :=
  { (s.setCan 0 Can.off).setCan 1 Can.off with rpdoWait := [], hbArmed := [] }

/-- Controller n serves: powered, in use, not held, not bus-off, and Virkin runs. -/
def canServes (s : State) (n : Nat) : Bool := s.canSends n && s.serves

/-- `2012` CanState of controller n (Table 16-12). -/
def canState (s : State) (n : Nat) : Nat :=
  let c := s.can n
  let matcher := (s.power.state = 1 || s.power.state = 2) && bits (s.rdn 0x8004 4) 8 8 = n
  min 255 c.txErr * 16777216 + min 255 c.rxErr * 65536 + c.err * 256 +
    64 * b2n (s.faults.heldCans.contains n) + 32 * b2n matcher + 16 * b2n (1 ≤ c.nmt && 3 ≤ s.power.state) + c.nmt

end State
end Sys2Proof.Machine
end

