-- ==== Sys2Proof/Machine/Power.lean ====
section
/-! DEFINITION. Power: changes of state, wakes, the link's power events, the cap and its factors, temperature, the supply, droop and ageing (R319 to R345, R396, R441). -/

namespace Sys2Proof.Machine
namespace State

/-! ### The rail (R330, R331) -/

/-- The device commands the rail voltage of R330 over AVSBus. -/
def setRail (s : State) : State :=
  if s.power.state < 3 || s.power.railMv = s.railVolts then s
  else (s.updPower fun x => { x with railMv := s.railVolts }).emit (.avs s.railVolts)

/-! ### Stepping down (R320, R321, R328) -/

/-- The channels and granules of partition p stay powered in WATCH (R320). -/
def retained (s : State) (p : Nat) : Bool :=
  s.sentinel = some p || !(s.part p).plans.isEmpty || !(s.openStreams p).isEmpty || !(s.openSeqs p).isEmpty

/-- Unit `u` of memory is off in WATCH (Table 12-2); the numbers are those of `Mem.lost`. -/
def offInWatch (s : State) (u : Nat) : Bool :=
  if u < 256 then !(s.channelOwner u).any s.retained
  else if u < 512 then !(s.granuleOwner (u - 256)).any s.retained
  else u < 1024 && !(s.sentinel.any fun p => s.ownsTile p (u - 512))

/-- A frame in reception on a port that is not powered any more is gone; one of a pipeline that the state does not run is not processed (R249). -/
def cameraDark (s : State) : State :=
  (NMap.keys s.sensors).foldl (fun s n =>
    match (s.sensor n).frame with
    | some f =>
      if !s.portOn f.cfg.port then s.updSensor n fun x => { x with frame := none }
      else s.updFrame n fun f => match f.pipe with
        | some (_, pc) => if some pc.part = s.sentinel then f else { f with pipe := none, buffer := none }
        | none => f
    | none => s) s

/-- ACTIVE to WATCH. A weight cache whose channels go off holds no page any more. -/
def toWatch (s : State) : State :=
  let off := (List.range 256).map s.offInWatch ++ ((List.range 768).map fun i => s.offInWatch (256 + i))
  let s1 := s.loseUnits fun u => (off[u]?).getD false
  let s2 := (List.range 128).foldl (fun s p => if s.retained p then s else s.emptyFrames p fun _ => true) s1
  (((s2.updPower fun x => { x with state := 3 }).raise 0x8001 0).setRail).cameraDark

/-- The plan of a stage's group, to be reloaded when WATCH is entered again (R293). -/
def keepStage (s : State) (k : Nat) : Option (Nat × Nat × W64) := do
  let g ← s.feedGroup (s.stageFeed k)
  let l ← s.findPlan (s.groupPart g) (s.rd 0x5102 (g + 1))
  some (s.groupPart g, l.model, l.plan.planId)

/-- Every plan is unloaded, every pin dropped and every weight cache emptied (R321); bedrock reads and prefetches end with them, but for the writing of a rebuilt page, which is queued upkeep (R141, Table 5-5). -/
def dropPlans (s : State) : State :=
  let s1 := s.updAudio fun a => { a with kept1 := s.keepStage 1, kept2 := s.keepStage 2 }
  let s2 := s1.partKeys.foldl (fun s p =>
    let t := ((s.part p).plans.map fun l => l.plan.planId).foldl (fun s id => s.unloadPlan p id) s
    t.updPart p fun x => { x with frames := [], migrations := [], loads := [] }) s1
  (s2.updBedrock fun b => { b with reads := b.reads.filter fun r => r.rebuilt && !r.ready && !r.id.image }).raise 0x8001 11

/-- WATCH to LISTEN. -/
def toListen (s : State) : State :=
  let s1 := (s.dropPlans.writeJournal).loseUnits fun u => u < 1024
  (((s1.updPower fun x => { x with state := 2, coreEn := false, woken := false }).raise 0x8001 0).stopCans).cameraDark

/-- LISTEN to DORMANT: the roost finishes its invocation, and the ring stops. -/
def toDormant (s : State) : State :=
  let s1 := if s.audio.hop.isSome && s.roostLoaded then s.stage0End else s
  ((s1.ringStop).updPower fun x => { x with state := 1 }).raise 0x8001 0

/-! ### Stepping up (R324, R328) -/

/-- The device enters the next higher state. -/
def stepUp1 (s : State) : State :=
  let s1 := (s.updPower fun x => { x with state := x.state + 1 }).raise 0x8001 0
  if s.power.state = 1 then s1.ringStart
  else if s.power.state = 2 then
    let s2 := (s1.updPower fun x => { x with coreEn := true, woken := false }).setRail
    if s2.serves then s2.startCans else s2
  else s1.setRail

/-- The power component is not restarting, and no hold of a live update keeps its requests (R406, Table 15-11). -/
def powerRuns (s : State) : Bool := s.alive && !s.link.hold && !s.link.restarting.contains 4

/-- The device enters its target state through the states between, without holds; the stages that waited for it run (R293). -/
def stepUp (s : State) : State :=
  let t := s.powerTarget
  if !s.powerRuns || t ≤ s.power.state || 4 < t then s
  else
    let s1 := (List.range (t - s.power.state)).foldl (fun s _ => s.stepUp1) s
    (s1.updPower fun x => { x with wakeDemand := if x.wakeDemand ≤ x.state then 0 else x.wakeDemand }).runStages

/-- The hold of the present state has ended: the device steps down one state (R324). -/
def stepDown (s : State) : State :=
  if !s.powerRuns || s.power.state ≤ s.powerTarget then s
  else if s.power.state = 4 then s.toWatch
  else if s.power.state = 3 then s.toListen
  else if s.power.state = 2 then s.toDormant
  else s

/-! ### Wake events (R326, R441) -/

/-- The link leaves L1.2. -/
def leaveL12 (s : State) : State :=
  if s.link.aspm = 3 then (s.updLink fun l => { l with aspm := 0 }).wakeField 1 0 else s

/-- The link leaves D3cold. -/
def leaveD3cold (s : State) : State :=
  if s.link.dstate = 4 then (s.updLink fun l => { l with dstate := 0, aspm := 0 }).wakeField 2 0 else s

/-- LINK_POWER_CHANGE (R396). -/
def linkPower (s : State) : LinkPowerEvent → State
  | .d0 => if s.link.dstate = 4 then s.leaveD3cold else s.updLink fun l => { l with dstate := 0 }
  | .d3hot e => if s.link.dstate = 4 then s else s.updLink fun l => { l with dstate := 3, pmeEn := e }
  | .d3cold e => s.updLink fun l => { l with dstate := 4, pmeEn := e }
  | .l0 => if s.link.aspm = 3 then s.leaveL12 else s.updLink fun l => { l with aspm := 0 }
  | .l1 => s.updLink fun l => { l with aspm := 1 }
  | .l11 => s.updLink fun l => { l with aspm := 2 }
  | .l12 => s.updLink fun l => { l with aspm := 3 }

/-- The frame is the call frame (R441). -/
def callFrame (s : State) (f : CanFrame) : Bool :=
  let id := s.rdn 0x2014 1
  let want := s.rdn 0x2014 4
  let data := f.data.toNat % 2 ^ (8 * min 8 f.len)
  let mask := s.rdn 0x2014 3
  !f.fd && !f.remote && f.crcOk && bit id 31 && (bit id 29 = f.ide) && f.ident.toNat = bits id 28 0 &&
    (want = 0xFF || want = f.len) && Nat.land data mask = Nat.land (s.rdn 0x2014 2) mask

/-- The controller that the matcher stands for. -/
def wakeController (s : State) : Nat := bits (s.rdn 0x8004 4) 8 8

/-- The matcher runs (R441). -/
def matcherRuns (s : State) : Bool := s.alive && s.power.state < 3

/-! ### The cap (R332 to R335, R340) -/

/-- A factor moves to its target: down at once, up by at most 1/32 of its range (R334). -/
def slew (now target floor : Nat) : Nat :=
  if target ≤ now then target else min target (now + (65536 - floor) / 32)

/-- Factor for a grant in mW/65 536 and a full-rate demand in mW, not below its floor. -/
def factorOf (grant demand floor : Nat) : Nat :=
  if demand = 0 then 65536 else max floor (min 65536 (grant / demand))

/-- Floors of the classes: 1 compute (200 of 1 800 MHz), 2 memory, 3 links (Table 12-7). -/
def classFloor (k : Nat) : Nat := if k = 1 then 7281 else 16384

/-- Reserved floor power of a class, in mW/65 536. -/
def floorPower (k demand : Nat) : Nat := if k = 1 then demand * 65536 / 9 else demand * 16384

/-- Target factors of compute, memory and links for a budget in mW, and whether the floors alone exceed it (R334). -/
def divide (order : Nat) (budget c m l : Nat) : (Nat × Nat × Nat) × Bool :=
  let demand (k : Nat) : Nat := if k = 1 then c else if k = 2 then m else l
  let floors := floorPower 1 c + floorPower 2 m + floorPower 3 l
  let unmet := budget * 65536 < floors
  let grants := [bits order 5 4, bits order 3 2, bits order 1 0].foldl
    (fun (x : NMap Nat × Nat) (k : Nat) =>
      let take := min x.2 (demand k * 65536 - floorPower k (demand k))
      (NMap.insert k (floorPower k (demand k) + take) x.1, x.2 - take)) (([] : NMap Nat), budget * 65536 - floors)
  let f (k : Nat) : Nat := factorOf (NMap.get (fun j => floorPower j (demand j)) grants.1 k) (demand k) (classFloor k)
  ((f 1, f 2, f 3), unmet)

/-- A tile that runs satisfies `f`. -/
def someRunning (s : State) (f : Nat → Bool) : Bool :=
  (NMap.keys s.fabric.halves).any fun n => s.tileMode n = 3 && f n

/-- The throttle reasons that bind, bit i for subindex i + 1 of Table 12-9. -/
def throttles (s : State) : Nat :=
  let x := s.power
  b2n (x.kc < 65536 || x.km < 65536 || x.kl < 65536) +
  2 * b2n (x.ki < 65536 && x.ki ≤ x.kc && x.ki ≤ x.kt * 256) +
  4 * b2n (x.tripped || (x.kt < 256 && x.kt * 256 ≤ x.kc && x.kt * 256 ≤ x.ki)) +
  8 * b2n (s.someRunning fun n =>
    let g := s.gangTiles n
    g.any fun t => s.ageCeiling (s.phys t) < s.testCeiling (s.phys t) && s.ageCeiling (s.phys t) < s.rdObj 0x3110 (g.headD n)) +
  16 * b2n (s.someRunning fun n => s.rdn 0x8002 5 < s.rdObj 0x3110 ((s.gangTiles n).headD n)) +
  32 * b2n ((x.lowSupply || x.avsFault) && s.someRunning fun _ => true)

/-- Every reason that binds counts the 2 µs of a window; POWER_CAP and THERMAL set their flags when they begin to bind (R340). -/
def countThrottles (s : State) : State :=
  let b := s.throttles
  let was := s.power.binding.toNat
  let s1 := (List.range 6).foldl (fun s i => if bit b i then s.bump64 0x8010 (i + 1) 2 else s) s
  let s2 := if bit b 0 && !bit was 0 then s1.raise 0x8001 2 else s1
  let s3 := if bit b 2 && !bit was 2 then s2.raise 0x8001 4 else s2
  s3.updPower fun x => { x with binding := BitVec.ofNat 8 b }

/-- The factors of the classes and of the core current, from the full-rate demands in mW and the core current in mA. -/
def setFactors (s : State) (c m l fixed ma : Nat) : State :=
  if s.power.tripped || s.link.restarting.contains 4 then s
  else
    let ((kc, km, kl), unmet) := divide (s.rdn 0x8002 3) (s.rdn 0x8002 2 - fixed) c m l
    let amps := s.rdn 0x8002 4
    let ki := if amps * 1000 < ma then
        (divide (s.rdn 0x8002 3) (amps * s.power.railMv - fixed) c m l).1.1
      else 65536
    let s1 := s.updPower fun x => { x with
      kc := slew x.kc kc 7281, km := slew x.km km 16384, kl := slew x.kl kl 16384, ki := slew x.ki ki 7281 }
    if unmet then s1.raise 0x8001 3 else s1

/-- Mean of the estimates of the last 100 ms. -/
def powerAvg (s : State) : Nat :=
  if s.power.history.isEmpty then 0 else s.power.history.foldl (· + ·) 0 / s.power.history.length

/-- POWER_WINDOW: the estimate of the window is the fixed power and each class's demand at the factor that was in force (R332, R333). -/
def powerWindow (s : State) (c m l fixed ma : Nat) : State :=
  let p := fixed + (c * s.computeFactor + m * s.power.km + l * s.power.kl) / 65536
  let s1 := (s.wrn 0x8005 1 (p % 4294967296)).updPower fun x =>
    { x with energyNano := x.energyNano + 2 * p, history := (p :: x.history).take 50000 }
  (s1.setFactors c m l fixed ma).countThrottles

/-! ### Temperature (R336) -/

def throttleDeci (s : State) : Int := (s.rdn 0x8005 9 : Int) * 10

/-- THERMAL_SAMPLE, in 0.1 °C: at 115 °C the thermal trip, which ends below `ThermalThrottleC`. -/
def thermalSample (s : State) (t : Int) : State :=
  let s1 := s.updPower fun x => { x with hottest := t }
  if 1150 ≤ t then s1.unitFault 0x40 .package
  else if t < s1.throttleDeci then s1.updPower fun x => { x with tripped := false }
  else s1

/-- THERMAL_FACTOR_STEP. -/
def thermalStep (s : State) : State :=
  if s.link.restarting.contains 4 then s
  else if s.throttleDeci ≤ s.power.hottest then s.updPower fun x => { x with kt := x.kt - 1 }
  else if s.power.hottest < s.throttleDeci - 20 then s.updPower fun x => { x with kt := min 256 (x.kt + 1) }
  else s

/-! ### The supply (R337) -/

/-- AVS_READ: three failures in a row lose AVSBus; a low output or an undervoltage limits every tile to half its clock. -/
def avsRead (s : State) (ok : Bool) (mv : Nat) (uv : Bool) : State :=
  if s.power.avsFault then s
  else if !ok then
    if 3 ≤ s.power.avsFails + 1 then (s.updPower fun x => { x with avsFails := 0 }).unitFault 0x41 .package
    else s.updPower fun x => { x with avsFails := x.avsFails + 1 }
  else
    let low := mv * 100 < s.power.railMv * 97
    let reads := if low then s.power.lowReads + 1 else 0
    let s1 := (s.wrn 0x8005 4 mv).updPower fun x => { x with avsFails := 0, lowReads := reads }
    if 2 ≤ reads || uv then
      (if s1.power.lowSupply then s1 else s1.raise 0x8001 7).updPower fun x => { x with lowSupply := true, lowTail := false }
    else s1.updPower fun x => { x with lowTail := x.lowSupply }

/-! ### Droop (R339) -/

/-- Logical tile `n` is powered and its clock runs. -/
def tilePowered (s : State) (n : Nat) : Bool :=
  s.tileMode n ≠ 0 && s.tileMode n ≠ 6 &&
    (s.power.state = 4 || (s.power.state = 3 && s.sentinel.any fun p => s.ownsTile p n))

def droop (s : State) (n : Nat) : State :=
  if !s.tilePowered n || s.fabric.drooping.contains n then s
  else ((s.updFabric fun f => { f with drooping := insertNat n f.drooping }).bump64 0x8011 1 1).raise 0x8001 6

def droopEnd (s : State) (n nanos : Nat) : State :=
  if !s.fabric.drooping.contains n || nanos < 50 then s
  else (s.updFabric fun f => { f with drooping := f.drooping.filter (· ≠ n) }).bump64 0x8011 2 nanos

/-! ### Ageing (R341, R342) -/

/-- GAUGE_DUE: a tile that has run for the whole interval is due, and is read at its plan's next usable PREEMPT point. -/
def gaugeDue (s : State) (n : Nat) : State :=
  if s.powerRuns && s.tilePowered n && s.tileMode n = 3 then
    s.updFabric fun f => { f with gaugeDue := insertNat n f.gaugeDue }
  else s

/-- The plan that runs on tile `n` stands at a usable PREEMPT point. -/
def atPreempt (s : State) (n : Nat) : Bool :=
  match s.runningOn n with
  | none => false
  | some (p, id) =>
    match s.findPlan p id, s.findInv p id with
    | some l, some v => (l.active.cheaps[v.cheap]?).any l.active.usable
    | _, _ => false

/-- A reading below `MarginMinMv`: the offset rises, or the tile's ageing ceiling falls (R342). -/
def lowMargin (s : State) (n : Nat) : State :=
  let off := s.rdn 0x8012 1
  if off + 5 ≤ s.rdn 0x8000 6 then ((s.wrn 0x8012 1 (off + 5)).raise 0x8001 9).setRail
  else
    let p := s.phys n
    ({ s with persist := { s.persist with
        lowered := NMap.set (fun _ => 0) s.persist.lowered p (NMap.get (fun _ => 0) s.persist.lowered p + 25) } }).raise 0x8001 10

/-- GAUGE_READING. A tile that runs is read only when it is due, in a pause at a usable PREEMPT point. -/
def gaugeRead (s : State) (n : Nat) (mv : Int) : State :=
  let pause := s.tileMode n = 3
  if !s.powerRuns || !s.tilePowered n || (pause && !(s.fabric.gaugeDue.contains n && s.atPreempt n)) then s
  else
    let s1 := if pause then s.bump32 0x8011 3 1 else s
    let s2 := ((s1.wrObj 0x8120 n (BitVec.ofInt 16 mv).toNat).wrObj 0x8130 n s.time).updFabric fun f =>
      { f with gaugeDue := f.gaugeDue.filter (· ≠ n) }
    if mv < s.rdn 0x8012 3 then s2.lowMargin n else s2

/-- `LifeMarginPercent` (R342). -/
def lifeMargin (s : State) : Nat := 100 * (s.rdn 0x8000 6 - s.rdn 0x8012 1) / s.rdn 0x8000 6

end State

/-! ### The meanings -/

def execHoldExpiry (s : State) : Host.Outcome State Fault Refusal := .next s.stepDown

def execStateStepUp (s : State) : Host.Outcome State Fault Refusal := .next s.stepUp

def execLinkL12Exit (s : State) : Host.Outcome State Fault Refusal :=
  .next (if s.power.state = 0 then s else s.leaveL12)

def execLinkD3coldExit (s : State) : Host.Outcome State Fault Refusal :=
  .next (if s.power.state = 0 then s else s.leaveD3cold)

/-- CAN_CALL: the frame sets CALL_FRAME and raises its wake. -/
def execCanCall (f : CanFrame) (s : State) : Host.Outcome State Fault Refusal :=
  .next (if s.matcherRuns && s.callFrame f then (s.raise 0x2013 7).wakeField (3 + 16 * s.wakeController) 2 else s)

/-- CAN_ANY: every other complete frame. -/
def execCanAny (f : CanFrame) (s : State) : Host.Outcome State Fault Refusal :=
  .next (if s.matcherRuns && !s.callFrame f then s.wakeField (4 + 16 * s.wakeController) 4 else s)

def execGpioWake (pin : Fin 16) (s : State) : Host.Outcome State Fault Refusal :=
  .next (if s.alive && bit (s.rdn 0x8004 5) pin.val then s.wakeField (6 + 16 * pin.val) 6 else s)

def execLinkPowerChange (ev : LinkPowerEvent) (s : State) : Host.Outcome State Fault Refusal :=
  .next (if s.power.state = 0 then s else s.linkPower ev)

def execPowerWindow (compute memory links fixed coreMilliamps : Nat) (s : State) : Host.Outcome State Fault Refusal :=
  .next (if s.alive then s.powerWindow compute memory links fixed coreMilliamps else s)

def execThermalSample (hottestDeciC : Int) (s : State) : Host.Outcome State Fault Refusal :=
  .next (if s.alive then s.thermalSample hottestDeciC else s)

def execThermalFactorStep (s : State) : Host.Outcome State Fault Refusal :=
  .next (if s.alive then s.thermalStep else s)

def execAvsRead (ok : Bool) (millivolts : W16) (inputUndervoltage : Bool) (s : State) : Host.Outcome State Fault Refusal :=
  .next (if s.alive && 3 ≤ s.power.state then s.avsRead ok millivolts.toNat inputUndervoltage else s)

/-- AVS_RETRY: one success lifts the limit. -/
def execAvsRetry (ok : Bool) (s : State) : Host.Outcome State Fault Refusal :=
  .next (if s.alive && 3 ≤ s.power.state && ok && s.power.avsFault then
    s.updPower fun x => { x with avsFault := false, avsFails := 0 } else s)

/-- LOW_SUPPLY_END: the 10 ms after the cause are over. -/
def execLowSupplyEnd (s : State) : Host.Outcome State Fault Refusal :=
  .next (if s.alive && s.power.lowSupply && s.power.lowTail then
    s.updPower fun x => { x with lowSupply := false, lowTail := false } else s)

def execDroopCrossing (tile : Fin 512) (s : State) : Host.Outcome State Fault Refusal :=
  .next (if s.alive then s.droop tile.val else s)

def execDroopStretchEnd (tile : Fin 512) (nanos : W64) (s : State) : Host.Outcome State Fault Refusal :=
  .next (if s.alive then s.droopEnd tile.val nanos.toNat else s)

def execGaugeDue (tile : Fin 512) (s : State) : Host.Outcome State Fault Refusal := .next (s.gaugeDue tile.val)

def execGaugeReading (tile : Fin 512) (marginMv : Int) (s : State) : Host.Outcome State Fault Refusal :=
  .next (s.gaugeRead tile.val marginMv)

end Sys2Proof.Machine
end

