-- ==== Sys2Proof/Machine/Faults.lean ====
section
/-! DEFINITION. Recovery from faults: the end of a reaction, the quiet exit, the fence commands, and the lease (R349 to R358, R366, R367, R410, R314). -/

namespace Sys2Proof.Machine
namespace State

/-! ### The end of a reaction (R349) -/

/-- Physical tile `p` still waits for a shift, or for the adoption of a hand-off (R48, R50, Table 13-10). -/
def shiftPending (s : State) (p : Nat) : Bool :=
  s.link.hold || s.fabric.shifts.any fun h => h.row * 66 + h.col = p || h.waiting.contains p

/-- Record `seq` has been handled: HANDLING clears once its tiles' substitutions have started their replays. -/
def handled (s : State) (seq : Nat) (micros : W32) : State :=
  s.updFaults fun f => { f with records := f.records.map fun r =>
    if r.seq = seq && r.handling && !(r.kind = 1 && s.shiftPending r.unit) && !(r.secondKind = 1 && s.shiftPending r.secondUnit) then
      { r with handling := false, handleMicros := micros }
    else r }

/-! ### The quiet exit (R352) -/

/-- A held unit fails its retest: SELF_TEST opens a record for it, and it stays held. -/
def retestFails (s : State) (kind unit : Nat) : State := (s.openFault 0xE0 2 kind unit 0 0 0).raise 0x9001 7

/-- A held unit's retest. -/
def retest (failed : List FaultUnit) (s : State) (u : FaultUnit) : State :=
  let bad := failed.contains u
  match u with
  | .pipeline k =>
    if bad then s.retestFails 3 k.val
    else s.updFaults fun f => { f with heldPipes := f.heldPipes.filter (· ≠ k.val) }
  | .edgeEngine e =>
    if bad then s.retestFails 4 e.val
    else s.updFaults fun f => { f with heldEdges := f.heldEdges.filter (· ≠ e.val) }
  | .canController n =>
    if bad then s.retestFails 5 n.val
    else
      let t := s.updFaults fun f => { f with heldCans := f.heldCans.filter (· ≠ n.val) }
      if 3 ≤ t.power.state && t.serves then t.resetComm n.val else t
  | .roost =>
    if bad then s.retestFails 6 0
    else (s.updFaults fun f => { f with roostHeld := false }).updAudio fun a => { a with loadDue := true }
  | _ => s

/-- The held units, in the order of Table 13-4. -/
def heldUnits (s : State) : List FaultUnit :=
  ((List.finRange 8).filter fun k => s.faults.heldPipes.contains k.val).map FaultUnit.pipeline ++
  ((List.finRange 2).filter fun e => s.faults.heldEdges.contains e.val).map FaultUnit.edgeEngine ++
  ((List.finRange 2).filter fun n => s.faults.heldCans.contains n.val).map FaultUnit.canController ++
  (if s.faults.roostHeld then [FaultUnit.roost] else [])

/-- The quiet period has passed with no record HANDLING. -/
def quiet (s : State) : Bool :=
  s.faults.mode = .fault && !s.anyHandling && s.faults.lastEvent + s.rdn 0x9002 1 * 1000 ≤ s.time

/-- The quiet exit: the device is NORMAL again unless a retest opened a record. -/
def quietExit (s : State) (failed : List FaultUnit) : State :=
  if !s.quiet then s
  else
    let s1 := (s.bump32 0x9003 2 1).raise 0x9001 2
    let s2 := s.heldUnits.foldl (retest failed) s1
    if s2.anyHandling then s2
    else (s2.updFaults fun f => { f with mode := .normal, faultN := false, errBits := 0 }).emcy 0 0

/-! ### Fence commands (R358) -/

/-- A feed whose context is taken away stops with FAULT (DESIGN CHOICE: the spec gives no state for it). -/
def loseFeeds (s : State) (p : Nat) : State :=
  (List.range 8).foldl (fun s f => if (s.feed f).stream.isSome && s.feedPart f = p then (s.setFeed f Feed.off).failFeed f else s) s

/-- RELEASE: everything taken ends with FENCED, then every context and sequence is closed and every plan unloaded. -/
def releasePart (s : State) (p : Nat) : State :=
  let s1 := (s.endTaken p 0x70).loseFeeds p
  let s2 := (s1.openStreams p).foldl (fun s n => s.freeStream p n) s1
  let s3 := (s2.openSeqs p).foldl (fun s q => s.freeSeq p q) s2
  (((s3.part p).plans.map fun l => l.plan.planId).foldl (fun s id => s.unloadPlan p id) s3).flush p

/-- `FenceResult` takes the outcome of a command. -/
def fenceResult (s : State) (r : Nat) : State := s.wrn 0x9004 2 r

/-- Partition p owns a fenced channel. -/
def ownsFenced (s : State) (p : Nat) : Bool := s.persist.fencedChannels.any (s.ownsChannel p)

/-- A write to `FenceCommand` (Table 13-5). NO_UNIT is a number beyond the range, or a partition that does not exist (R297; DESIGN CHOICE, log entry 101). UNFENCE of a channel gives its result when its retest ends. -/
def fenceCommand (s : State) (v : Nat) : State :=
  let u := bits v 15 0
  let part := bits v 23 16 = 0x10
  let none_ := 128 ≤ u || !s.enabled u
  let cmd := bits v 31 24
  if cmd = 1 && part then
    if none_ then s.fenceResult 1
    else (if (s.part u).fenced then s else s.fencePart u).fenceResult 0
  else if cmd = 2 && part then
    if none_ then s.fenceResult 1
    else if !(s.part u).fenced then s.fenceResult 2
    else if s.ownsFenced u then s.fenceResult 3
    else (s.updPart u fun x => { x with fenced := false }).fenceResult 0
  else if cmd = 3 && part then
    if none_ then s.fenceResult 1
    else if !(s.part u).fenced then s.fenceResult 2
    else (s.releasePart u).fenceResult 0
  else if cmd = 4 && bits v 23 16 = 2 then
    if 256 ≤ u then s.fenceResult 1
    else if !s.persist.fencedChannels.contains u then s.fenceResult 2
    else if (s.channelOwner u).isSome then s.fenceResult 4
    else s.updFaults fun f => { f with retest := insertNat u f.retest }
  else s.fenceResult 6

/-- CHANNEL_RETEST_DONE: the channel is back, with nothing of what it held, or stays fenced. -/
def retestDone (s : State) (c : Nat) (passed : Bool) : State :=
  if !s.faults.retest.contains c then s
  else
    let s1 := s.updFaults fun f => { f with retest := f.retest.filter (· ≠ c) }
    if passed then
      ({ s1.loseUnits fun u => u = c with persist := { s1.persist with
          fencedChannels := s1.persist.fencedChannels.filter (· ≠ c) } }).fenceResult 0
    else s1.fenceResult 5

/-! ### The lease (R366, R367, R410) -/

def lease (s : State) : Nat := s.rdn 0x2100 3
def setLease (s : State) (v : Nat) : State := s.wrn 0x2100 3 v

/-- The lease period that starts at `t`. -/
def startPeriod (s : State) (t : Nat) : State :=
  s.updFaults fun f => { f with leaseEnd := t + s.rdn 0x2100 1 * 1000 }

/-- The results that stream `n` holds are written, once its function may write (Table 6-11). -/
def writeHeld (s : State) (p n : Nat) : State :=
  if s.lease ≠ 1 || !s.busMaster (p + 1) then s
  else ((s.stream n).heldResults.foldl (fun s r => s.toHost r.addr r.bytes) s).updStream n fun y => { y with heldResults := [] }

/-- Held results and then waiting records of partition p are written while nothing keeps them. -/
def writeWaiting (s : State) (p : Nat) : State :=
  ((s.openStreams p).foldl (fun s n => s.writeHeld p n) s).flush p

/-- Records into the places of the ATTEND records of a list, in turn. -/
def refill : List Record → List Record → List Record
  | [], _ => []
  | r :: rest, new =>
    if r.opcode = 0x54 then (match new with | n :: more => n :: refill rest more | [] => r :: refill rest [])
    else r :: refill rest new

/-- The ATTEND records that wait take the order of their descriptors among themselves (R216). -/
def attendOrder (s : State) (p : Nat) : State :=
  let work := (s.part p).work
  let pos (r : Record) : Nat := work.findIdx fun w => w.slot = r.slot
  let ins (r : Record) (l : List Record) : List Record := (l.takeWhile fun x => pos x < pos r) ++ r :: l.dropWhile fun x => pos x < pos r
  let sorted := ((s.part p).waiting.filter fun r => r.opcode = 0x54).foldr ins []
  if sorted.length < 2 then s else s.updPart p fun x => { x with waiting := refill x.waiting sorted }

/-- The host takes the lapsed lease: held results and records are written, and frozen contexts are IDLE again. -/
def hostTakes (s : State) : State :=
  let s1 := (List.range 128).foldl (fun s p => (s.attendOrder p).writeWaiting p) (s.setLease 1)
  (NMap.keys s1.streams).foldl (fun s n =>
    if (s.stream n).state = .frozen then s.updStream n fun y => { y with state := .idle } else s) s1

/-- The lease is LAPSED: idle contexts of the host freeze (R367). -/
def lapse (s : State) : State :=
  let s1 := (s.setLease 0).raise 0x9001 8
  (NMap.keys s1.streams).foldl (fun s n =>
    if (s.stream n).state = .idle && !s.feedHolds n then s.updStream n fun y => { y with state := .frozen } else s) s1

/-- Controller n takes the lapsed lease: what has not started ends with LEASE_EXPIRED (R314). -/
def canClaims (s : State) (n : Nat) : State :=
  ((s.setLease (2 + n)).endHeld (fun _ => true) 0x71).raise 0x9001 9

/-- A renewal or claim that arrived at `t` is accepted: it counts, and the period starts again. -/
def accepted (s : State) (t : Nat) : State := (s.bump64 0x2100 5 1).startPeriod t

def refuseLease (s : State) : State × Bool := (s.raise 0x9001 10, false)

/-- A write of `v` to `LeaseCommand` that arrived at `t`: the state, and whether it was not refused (Table 13-9, R410). Through BAR0 only RENEW acts. -/
def leaseCommand (s : State) (fn : Iface) (v t : Nat) : State × Bool :=
  match fn with
  | .vf _ => (s, true)
  | .pf =>
    if v ≠ 1 then (s, true)
    else if s.lease = 0 then (s.hostTakes.accepted t, true)
    else if s.lease = 1 then (s.accepted t, true)
    else s.refuseLease
  | .can n =>
    let mine := s.lease = 2 + n.val
    if v = 1 && mine then (s.accepted t, true)
    else if v = 2 && mine then (s.accepted t, true)
    else if v = 2 && s.lease = 0 then ((s.canClaims n.val).accepted t, true)
    else if v = 3 && mine then (s.lapse, true)
    else s.refuseLease

/-- LEASE_PERIOD_EXPIRY. -/
def leaseExpiry (s : State) : State :=
  if s.lease = 0 || s.link.hold || s.link.restarting.contains 0 || s.time < s.faults.leaseEnd then s else s.lapse

/-- `2100:04` LeaseRemainingMs. -/
def leaseRemaining (s : State) : Nat := if s.lease = 0 then 0 else (s.faults.leaseEnd - s.time) / 1000

/-- `9003:01` FaultState (Table 13-13). -/
def faultState (s : State) : Nat :=
  (s.faults.records.filter FaultRec.handling).length * 65536 + 256 * b2n s.faults.faultN + 16 * s.lease +
    (match s.faults.mode with | .normal => 0 | .fault => 1 | .halted => 2)

/-- A fault record's 32 bytes (Table 13-3). -/
def recBytes (r : FaultRec) : List Byte :=
  leBytes 4 r.seq ++ leBytes 1 r.source ++ leBytes 1 r.cls ++ leBytes 1 r.kind ++
  leBytes 1 (b2n r.handling + 2 * b2n r.otherUnit + 4 * b2n r.escalated + 8 * b2n r.replayed) ++
  leBytes 2 r.unit ++ leBytes 1 r.secondKind ++ [0] ++ leBytes 2 r.secondUnit ++ leBytes 2 r.merged ++
  leBytes 8 r.raiseTime ++ leBytes 4 r.handleMicros.toNat ++ leBytes 4 r.detail.toNat

end State

/-! ### The meanings -/

/-- HANDLING_COMPLETE. -/
def execHandlingComplete (record : W32) (micros : W32) (s : State) : Host.Outcome State Fault Refusal :=
  .next (if s.alive then s.handled record.toNat micros else s)

/-- QUIET_EXIT: `failed` names the held units that fail their retest. -/
def execQuietExit (failed : List FaultUnit) (s : State) : Host.Outcome State Fault Refusal :=
  .next (if s.alive then s.quietExit failed else s)

/-- CHANNEL_RETEST_DONE. -/
def execChannelRetestDone (c : Fin 256) (passed : Bool) (s : State) : Host.Outcome State Fault Refusal :=
  .next (if s.serves then s.retestDone c.val passed else s)

/-- LEASE_PERIOD_EXPIRY. -/
def execLeasePeriodExpiry (s : State) : Host.Outcome State Fault Refusal :=
  .next (if s.serves then s.leaseExpiry else s)

end Sys2Proof.Machine
end

