-- ==== Sys2Proof/Machine/Lines.lean ====
section
/-! DEFINITION. Lines of bonded memory as the package stores them, and as a host read gets them (R97, R117, R378). The other files work on the bytes that a sound line decrypts to: no interface reaches what is stored. -/

namespace Sys2Proof.Machine

/-- A stored line: 64 bytes of ciphertext, the check symbols of its two code words, and its 64-bit tag (R97). -/
structure StoredLine where
  cipher : List Byte
  checks : List Byte
  tag : List Byte
  deriving DecidableEq, Repr

/-- The keys of channel `c` under bonded base key `kb`: 64 bytes of XTS keys, then the 32-byte tag key (R378). -/
def channelKeys (kb : List Byte) (c : Nat) : List Byte × List Byte :=
  let k := Config.shake256 (kb ++ leBytes 2 c) 96
  (k.take 64, slice k 64 32)

/-- The tag of line `n` of channel `c`: the low 64 bits of AES-256-GMAC over its ciphertext (R378). -/
def lineTag (kb : List Byte) (c n : Nat) (cipher : List Byte) : List Byte :=
  (Config.gcmSeal (channelKeys kb c).2 (leBytes 4 c ++ leBytes 8 n) cipher []).2.take 8

/-- Line `n` of channel `c` with plaintext `data`, as it is stored: one XTS data unit with tweak n. -/
def sealLine (kb : List Byte) (c n : Nat) (data : List Byte) : StoredLine :=
  let x := Config.xtsSeal (channelKeys kb c).1 (leBytes 16 n) data
  { cipher := x, checks := Config.symbolChecks (x.take 32) ++ Config.symbolChecks (x.drop 32), tag := lineTag kb c n x }

/-- A read of a stored line decodes both code words, then decrypts, then checks the tag (R97): the plaintext and whether a code word was corrected, or the error that it meets. -/
def openLine (kb : List Byte) (c n : Nat) (x : StoredLine) : Except ErrKind (List Byte × Bool) :=
  let half := x.checks.length / 2
  match Config.symbolDecode (x.cipher.take 32) (x.checks.take half),
      Config.symbolDecode (x.cipher.drop 32) (x.checks.drop half) with
  | some (a, ea), some (b, eb) =>
    let plain := Config.xtsOpen (channelKeys kb c).1 (leBytes 16 n) (a ++ b)
    if lineTag kb c n (a ++ b) = x.tag then .ok (plain, ea || eb) else .error .tag
  | _, _ => .error .uncorrectable

namespace State

/-- The bonded base key K_B of this start (Table 14-1). -/
def bondKey (s : State) : List Byte :=
  Config.shake256 (Config.seed ++ ascii "CT2564-BOND" ++ leBytes 4 (s.rdn 0xA000 5)) 32

/-- Line `n` of channel `c` as it is stored now. -/
def storedLine (s : State) (c n : Nat) : StoredLine :=
  sealLine s.bondKey c n ((List.range 64).map fun i => s.bondedRaw (bkey c (64 * n + i)))

/-- What a host read of bytes [o, o + n) of channel `c` returns, and whether its completion has the poisoned bit set (R98, R117). -/
def hostRead (s : State) (c o n : Nat) : List Byte × Bool :=
  ((List.range n).map fun i => s.bondedByte c (o + i),
    (List.range (n / 64 + 2)).any fun i => 64 * i < o % 64 + n && n ≠ 0 && s.linePoisoned c (o / 64 + i))

end State

end Sys2Proof.Machine
end

