-- ==== Sys2Proof/Machine/MemEvents.lean ====
section
/-! DEFINITION. Events of the memory tiers: merge buffers, writes past them, patrol scrub, soft row repair, and clearing (R100, R101, R118 to R120, R379). -/

namespace Sys2Proof.Machine
namespace State

/-- Patrol scrub of channel `c` completes a pass that met errors at the given channel offsets: no request ends (R118). Each powered channel is scrubbed, owned or not (Table 12-2), once it is not being cleared (Table 14-12). -/
def scrub (s : State) (c : Nat) (errs : List (ErrKind × Nat)) : State :=
  if !s.alive || !s.channelPowered c || s.clearingChannel c then s
  else
    let s1 := errs.foldl (fun s e =>
      let t := (s.channelErr c e.2 e.1 true).1
      if e.1 = .uncorrectable then t.raise 0x4001 3 else t) s
    s1.wrObj 0x4130 c s1.time

/-- A row has reached the threshold of corrected errors within a scrub period, or has held an uncorrectable error (R119). -/
def rowBad (s : State) (key : Nat) : Bool :=
  s.rdn 0x4002 2 ≤ ((NMap.get (fun _ => []) s.faults.rowCe key).filter fun t => s.time < t + s.rdn 0x4002 1 * 3600000000).length ||
  !(NMap.get (fun _ => []) s.faults.rowUe key).isEmpty

/-- A row of channel `c` needs repair: a soft spare row of its bank takes it, with its bytes and poison, and the row's uncorrectable errors no longer count toward the channel's (R119, R120, Table 13-2). -/
def repairRow (s : State) (c bank row : Nat) : State :=
  let r : SoftRepair := ⟨c, bank, row⟩
  let key := c * 16 + bank + 4096 * row
  if !s.alive || s.rdn 0x4002 3 ≠ 1 || !s.channelPowered c || !s.rowBad key || s.persist.repairs.contains r then s
  else if 4 ≤ (s.persist.repairs.filter fun x => x.channel = c && x.bank = bank).length then s.raise 0x4001 6
  else
    let s1 := { s with persist := { s.persist with repairs := s.persist.repairs ++ [r] } }.raise 0x4001 5
    let left := (NMap.get (fun _ => []) s.faults.rowUe key).foldl List.erase (NMap.get (fun _ => []) s.faults.channelUe c)
    s1.updFaults fun f => { f with channelUe := NMap.set (fun _ => []) f.channelUe c left
                                   rowCe := NMap.set (fun _ => []) f.rowCe key []
                                   rowUe := NMap.set (fun _ => []) f.rowUe key [] }

end State

/-! ### The meanings -/

/-- CLEAR_DONE: the clearing of a unit ends, and accesses that waited proceed. -/
def execClearDone (u : ClearUnit) (s : State) : Host.Outcome State Fault Refusal :=
  .next (if s.alive then s.updMem fun m => { m with clearing := m.clearing.filter (· ≠ u) } else s)

/-- MERGE_ENTRY_TIMEOUT. -/
def execMergeEntryTimeout (c : Fin 256) (line : Nat) (s : State) : Host.Outcome State Fault Refusal :=
  .next (if s.alive then s.releaseLine c.val line else s)

/-- A byte of a channel lies in a frame of its owner, which no BAR reaches (R194). -/
def State.inFrames (s : State) (c o : Nat) : Bool :=
  match s.channelOwner c with
  | some p => (s.frameAt p c o).isSome
  | none => false

/-- BAR_MEMORY_WRITE: a write by the host or a control processor at a channel offset, as far as it lies outside the weight-cache frames. -/
def execBarMemoryWrite (c : Fin 256) (offset : Nat) (data : List Byte) (s : State) : Host.Outcome State Fault Refusal :=
  let bytes := (data.take (0x8000000 - offset)).zipIdx.takeWhile fun (x : Byte × Nat) => !s.inFrames c.val (offset + x.2)
  .next (if s.alive then s.privWrite c.val offset (bytes.map Prod.fst) else s)

/-- SCRUB_PASS. -/
def execScrubPass (c : Fin 256) (errs : List (ErrKind × Nat)) (s : State) : Host.Outcome State Fault Refusal :=
  .next (s.scrub c.val errs)

/-- SOFT_ROW_REPAIR. How many uncorrectable errors the repair removes is what the row has held: the operand that reports it changes nothing. -/
def execSoftRowRepair (c : Fin 256) (bank : Fin 16) (row : Nat) (_ : Nat) (s : State) :
    Host.Outcome State Fault Refusal :=
  .next (s.repairRow c.val bank.val row)

end Sys2Proof.Machine
end

