-- ==== Sys2Proof/Machine/Security.lean ====
section
/-! DEFINITION. Identity: fleets, attestation, and the random source (R371, R372, R381). -/

namespace Sys2Proof.Machine
namespace State

def updSec (s : State) (f : Security → Security) : State := { s with sec := f s.sec }

/-! ### Fleets (R372) -/

/-- Result of an enrolment (`A010:02`). -/
def fleetResult (s : State) (r : Nat) : State := s.wrn 0xA010 2 r

/-- The record's format (Table 14-3, check 1). -/
def fleetFormat (r : List Byte) : Bool :=
  r.length = 11040 && field r 0 4 = 0x4C464E45 && field r 4 2 = 0x0100 && field r 6 2 = 0 &&
  allZero (slice r 0x24 12) && allZero (slice r 0x4B8 8)

/-- The authority's certificate and signature hold (check 2). -/
def fleetAuthentic (r : List Byte) : Bool :=
  let c := slice r 0x4C0 6512
  certOk 4 c && field r 8 8 = certSubject c && field r 8 8 ≠ 0 &&
  signedBy (certDsa c) (r.take 0x1E30) (slice r 0x1E30 3312)

/-- A write of an enrolment record to `FleetEnrol`. -/
def fleetEnrol (s : State) (r : List Byte) : State :=
  let id := BitVec.ofNat 64 (field r 8 8)
  let epoch := BitVec.ofNat 32 (field r 0x20 4)
  let have_ := s.sec.fleets.find? fun x => x.id = id
  if s.without 9 || !fleetFormat r then s.fleetResult 2
  else if !fleetAuthentic r then (s.fleetResult 3).security 6 none id
  else if slice r 0x10 16 ≠ s.serialBytes then s.fleetResult 4
  else if have_.any fun x => epoch.toNat < x.epoch.toNat then s.fleetResult 5
  else if have_.isNone && 8 ≤ s.sec.fleets.length then s.fleetResult 6
  else match unwrapWith kemSeed (slice r 0x30 1088) (r.take 0x30) (slice r 0x470 72) with
    | none => (s.fleetResult 3).security 6 none id
    | some seed =>
      let f : Fleet := ⟨id, epoch, seed⟩
      (s.updSec fun x => { x with fleets :=
        if have_.isSome then x.fleets.map fun y => if y.id = id then f else y else x.fleets ++ [f] }).fleetResult 1

/-- A write to `FleetRemove`. -/
def fleetRemove (s : State) (id : W64) : State :=
  if s.sec.fleets.any fun x => x.id = id then
    (s.updSec fun x => { x with fleets := x.fleets.filter fun y => y.id ≠ id }).fleetResult 1
  else s.fleetResult 7

/-! ### Attestation (R381, Table 14-9) -/

/-- Entry of a plan in a report. -/
def attestEntry (p : Nat) (pl : Plan) : List Byte :=
  leBytes 1 p ++ leBytes 1 pl.variant ++ leBytes 6 0 ++ leBytes 8 pl.planId.toNat ++ leBytes 32 pl.digest.toNat ++
    slice pl.imageDigest 0 32

/-- Entries of every plan and verified variant loaded in the scope, by partition and then PlanId. -/
def attestPlans (s : State) (scope : Nat) : List (List Byte) :=
  (List.range 128).flatMap fun p =>
    if scope ≠ 0xFF && scope ≠ p then []
    else
      (((s.part p).plans.flatMap fun l => l.plan :: l.variant.toList).mergeSort
        fun a b => a.planId.toNat ≤ b.planId.toNat).map (attestEntry p)

/-- ProductCode and RevisionNumber (Table 0-2). -/
def productCode (s : State) : Nat := if s.fuse.b4 then 0x25640004 else 0x25640002
def revision : Nat := 0x00020000

/-- Digests of the running image and of the one loaded at this start. -/
def firmwareDigest (s : State) : List Byte :=
  match s.link.image with
  | some i => i.digest
  | none => List.replicate 32 0

/-- The signed report. -/
def attestReport (s : State) (a : Attest) : List Byte :=
  let body := leBytes 4 0x54545341 ++ leBytes 2 0x0100 ++ leBytes 2 0 ++ leBytes 4 (0xC0 + 80 * a.plans.length + 3312) ++
    leBytes 1 a.scope ++ leBytes 3 0 ++ leBytes 32 a.nonce.toNat ++ s.serialBytes ++ leBytes 4 s.productCode ++
    leBytes 4 revision ++ leBytes 4 s.fuse.fuseState.toNat ++ leBytes 4 a.plans.length ++ leBytes 8 s.time ++
    leBytes 4 (s.rdn 0xA000 5) ++ leBytes 4 (s.rdn 0xA000 6) ++ slice s.firmwareDigest 0 32 ++
    leBytes 4 (s.rdn 0x2200 2) ++ leBytes 4 (s.rdn 0x2200 7) ++ slice s.link.startDigest 0 32 ++ leBytes 24 0 ++
    a.plans.flatten
  body ++ deviceSigns body

/-- The scope of a request of interface `fn` that asks for `scope`. -/
def attestScope (fn : Iface) (scope : Nat) : Nat :=
  match fn with
  | .vf p => p.val
  | _ => scope

/-- A write of a nonce to `AttestNonce`: composition begins, unless the random source has failed (R371). -/
def attestNonce (s : State) (fn : Iface) (nonce : BitVec 256) : State :=
  let k := ifaceNo fn
  if s.randomFailed then s.updSec fun x => { x with attest := NMap.set (fun _ => none) x.attest k none }
  else
    let scope := attestScope fn (s.rdI k 0xA030 2).toNat
    s.updSec fun x => { x with attest := NMap.set (fun _ => none) x.attest k (some ⟨nonce, scope, s.attestPlans scope, []⟩) }

def attest (s : State) (fn : Iface) : Option Attest := NMap.get (fun _ => none) s.sec.attest (ifaceNo fn)

/-- Composition and signing end: the report can be read. -/
def attestReady (s : State) (fn : Iface) : State :=
  match s.attest fn with
  | some a =>
    if !s.alive || s.link.hold || !a.report.isEmpty then s
    else s.updSec fun x =>
      { x with attest := NMap.set (fun _ => none) x.attest (ifaceNo fn) (some { a with report := s.attestReport a }) }
  | none => s

/-- The answer to a DOE ATTEST request (Table 15-6). -/
def doeAttest (s : State) (fn : Iface) (nonce : BitVec 256) (scope : Nat) : State :=
  let sc := attestScope fn scope
  let say (st : Nat) (r : List Byte) : State := s.emit (.doe fn st (leBytes 1 st ++ leBytes 3 0 ++ r))
  if 128 ≤ sc && sc ≠ 0xFF then say 2 []
  else if s.randomFailed then say 0x81 []
  else
    let a : Attest := ⟨nonce, sc, s.attestPlans sc, []⟩
    if 1048576 < 0xC0 + 80 * a.plans.length + 3312 then say 8 [] else say 0 (s.attestReport a)

/-- A DOE ATTEST request, which a live update's hold keeps (Table 14-12). -/
def doeAttestAsk (s : State) (fn : Iface) (nonce : BitVec 256) (scope : Nat) : State :=
  if s.link.hold then s.updLink fun l => { l with heldAttests := l.heldAttests ++ [(fn, nonce, scope)] }
  else s.doeAttest fn nonce scope

/-! ### The security log (Table 14-8) -/

def secRecBytes (r : SecRec) : List Byte :=
  leBytes 4 r.seq ++ leBytes 1 r.kind ++ leBytes 1 r.part ++ leBytes 2 0 ++ leBytes 8 r.detail.toNat ++ leBytes 8 r.time

end State

/-- The interface is a function of the PCI Express link. -/
def onLink : Iface → Bool
  | .can _ => false
  | _ => true

/-! ### The meanings -/

/-- ATTEST_REPORT_READY. -/
def execAttestReportReady (fn : Iface) (s : State) : Host.Outcome State Fault Refusal := .next (s.attestReady fn)

/-- RANDOM_HEALTH_FAIL: the retries of 10 ms bring the source back, or fail (R371). -/
def execRandomHealthFail (retryFailed : Bool) (s : State) : Host.Outcome State Fault Refusal :=
  .next (if !s.alive then s
    else
      let s1 := s.bump32 0xA040 2 1
      if retryFailed then (s1.wrn 0xA040 1 2).security 7 none 0 else s1.wrn 0xA040 1 0)

/-- RANDOM_RETRY: one success ends the failure. -/
def execRandomRetry (ok : Bool) (s : State) : Host.Outcome State Fault Refusal :=
  .next (if s.alive && ok && s.randomFailed then s.wrn 0xA040 1 0 else s)

/-- DOE_ATTEST. -/
def execDoeAttest (fn : Iface) (nonce : BitVec 256) (scope : Byte) (s : State) : Host.Outcome State Fault Refusal :=
  .next (if s.alive && onLink fn then s.doeAttestAsk fn nonce scope.toNat else s)

/-- DOE_CERT. -/
def execDoeCert (fn : Iface) (s : State) : Host.Outcome State Fault Refusal :=
  .next (if s.alive && onLink fn then s.emit (.doe fn 0 (leBytes 4 0 ++ State.ownCert)) else s)

end Sys2Proof.Machine
end

