-- ==== Sys2Proof/Machine/Start.lean ====
section
/-! DEFINITION. Starts: what a start keeps and what it finds, the resets, and the loss of power (R22, R145, R147, R354, R362, R379, R394, R395, R398, R427, R428, R449). -/

namespace Sys2Proof.Machine

namespace Od

/-- The entry is of class rwp. -/
def isRwp (i sub : Nat) : Bool := (lookup i sub).any fun r => r.acc = .rwp

/-- Every rwp entry, as a key of the physical function. -/
def rwpKeys : List Nat :=
  (rows.filter fun r => r.acc = .rwp).flatMap fun r =>
    (List.range (r.hi + 1 - r.lo)).flatMap fun i =>
      (List.range (r.subHi + 1 - r.subLo)).map fun j => odKey 0 (r.lo + i) (r.subLo + j)

/-- Counters and records that the manual names persistent, and what the NAND dies themselves hold (Tables 2-19, 5-8, 12-19, 13-11, 14-15). -/
def kept (i sub : Nat) : Bool :=
  (i = 0x3001 && sub = 7) || (i = 0x8012 && sub = 1) ||
  (i = 0x9003 && (sub = 2 || sub = 3 || sub = 6)) || (i = 0xA000 && (sub = 5 || sub = 6)) ||
  i = 0x4404 || (i = 0x4403 && sub = 4)

/-- The entry of page 0 of the persistent store, or of page 1 (Table 16-5). -/
def page0 (i : Nat) : Bool := (0x1000 ≤ i && i ≤ 0x1FFF) || i = 0x2010 || i = 0x2011 || i = 0x2014
def page1 (i : Nat) : Bool := i = 0x2102

end Od

namespace State

/-! ### The persistent store (R427, R428, Table 16-5) -/

/-- The largest fused floor word. -/
def fusedFloor (s : State) : Nat := (s.fuse.floorWords.map BitVec.toNat).foldl max 0

/-- The floor in force (R400). -/
def securityFloor (s : State) : Nat := max s.persist.floor.toNat s.fusedFloor

/-- Drop the values of the entries that `f` selects. -/
def dropOd (s : State) (f : Nat → Nat → Bool) : State :=
  { s with od := s.od.filter fun x => !f (x.1 / 256 % 65536) (x.1 % 256) }

/-- Every model is gone. -/
def dropModels (s : State) : State :=
  s.updBedrock fun b => { b with models := [], library := [], lost := [] }

/-- The pages that get their factory content: those that fail without a good copy. -/
def factoryPages (found : StartFinds) : List Nat :=
  let bad (n : Nat) : Bool := found.badPages.any fun p => p.val = n
  (List.range 256).filter fun n =>
    if 2 ≤ n && n ≤ 72 then bad n && bad (n + 128)
    else if 130 ≤ n && n ≤ 200 then false
    else bad n

/-- Effects of factory content (Table 16-5). -/
def factory (s : State) (pages : List Nat) : State :=
  let hit (lo hi : Nat) : Bool := pages.any fun n => lo ≤ n && n ≤ hi
  let s1 := if hit 0 0 then s.dropOd fun i j => Od.isRwp i j && Od.page0 i else s
  let s2 := if hit 1 1 then s1.dropOd fun i j => Od.isRwp i j && Od.page1 i else s1
  let s3 := if hit 2 3 then
      { s2.dropOd fun i j => i ≠ 0x4404 && i ≠ 0x4403 && i ≠ 0x8012 && Od.kept i j with
        persist := { s2.persist with writes := Od.rwpKeys.foldl (fun m k => NMap.set (fun _ => 0) m k 500000) [], locked := [] } }
    else s2
  let s4 := if hit 4 15 then
      { s3 with persist := { s3.persist with fencedTiles := s3.fuse.fieldFenced, fencedChannels := [], repairs := [] } }
    else s3
  let s5 := if hit 16 63 then s4.dropModels else s4
  let s6 := if hit 48 63 then
      { s5.updSec fun x => { x with fleets := [] } with
        persist := { s5.persist with floor := BitVec.ofNat 16 s5.fusedFloor } }
    else s5
  let s7 := if hit 64 64 then
      { s6.wrn 0x8012 1 (s6.rdn 0x8000 6) with persist := { s6.persist with lowered := [] } }
    else s6
  if hit 65 72 then s7.updFaults fun f => { f with records := [] } else s7

/-- The check of the store at a start. -/
def storeCheck (s : State) (found : StartFinds) : State :=
  let pages := factoryPages found
  let s1 := s.factory pages
  let s2 := { pages.foldl (fun s _ => s.raise 0xF002 4) s1 with persist := { s1.persist with defaulted := pages } }
  if found.badWord && found.badPages.isEmpty then s2.raise 0xF002 5 else s2

/-! ### The self-test (R362, Table 13-7) -/

/-- A checker of a unit fails: SELF_TEST opens a record, and the unit is fenced or held. -/
def checkerFails (s : State) (u : FaultUnit) : State :=
  match u with
  | .tile p =>
    if s.fabric.fenced.contains p.val then s
    else
      let s1 := (s.openFault 0xE0 2 1 p.val 0 0 0).raise 0x9001 7
      let s2 := ((s1.updFabric fun f => { f with fenced := insertNat p.val f.fenced }).wrn 0x3001 8 p.val).bump32 0x3001 7 1
      (s2.raise 0x9001 3).burnFence p.val
  | .channel c =>
    if s.persist.fencedChannels.contains c.val then s else (s.unitFault 0xE0 u).raise 0x9001 7
  | .pipeline _ | .edgeEngine _ | .canController _ | .roost => (s.unitFault 0xE0 u).raise 0x9001 7
  | .package | .nandDie _ | .control => s

/-- `9011:01` SelfTestResult (Table 13-14). -/
def selfTestResult (before s : State) : Nat :=
  (s.fabric.fenced.length - before.fabric.fenced.length) * 16777216 +
  (s.persist.fencedChannels.length - before.persist.fencedChannels.length) * 65536 +
  128 * b2n (!s.heldUnits.isEmpty) + 1

/-- The self-test of a start: the map is rebuilt around what it fences, and a class 3 failure halts the device. -/
def selfTest (s : State) (found : StartFinds) : State :=
  let s1 := found.failed.foldl checkerFails s
  let s2 := (s1.buildMap).wrn 0x9011 1 (selfTestResult s s1)
  if found.class3 then (s2.openFault 0xE0 3 8 0 0 0xFF 0xFF).raise 0x9001 7 else s2

/-! ### The start (Table 15-5) -/

/-- What a start keeps of the bedrock. -/
def keptBedrock (b : Bedrock) : Bedrock :=
  { Bedrock.empty with
    models := b.models, library := b.library, lost := b.lost, blocks := b.blocks, firstSpares := b.firstSpares
    ageClock := b.ageClock, readBase := b.readBase, shrunk := b.shrunk, upkeep := b.upkeep
    rebuilding := b.rebuilding, ladderFails := b.ladderFails, patrolFirst := b.patrolFirst, patrolOff := b.patrolOff, patrolSeen := b.patrolSeen
    journal := b.journal }

/-- The state from which a start begins: everything at reset but what the persistent store, the fuses and the hardware keep. -/
def fresh (s : State) (off : Bool) (lk : Link) : State :=
  { State.reset with
    time := if off then 0 else s.time, free := s.free, fuse := s.fuse, persist := s.persist
    od := s.od.filter fun x => x.1 < 16777216 && (Od.isRwp (x.1 / 256) (x.1 % 256) || Od.kept (x.1 / 256) (x.1 % 256))
    mem := s.mem.started
    fabric := { State.reset.fabric with fenced := (s.fuse.testFenced ++ s.fuse.fieldFenced ++ s.persist.fencedTiles).foldl (fun l p => insertNat p l) [] }
    faults := { Faults.none with records := s.faults.records.map fun r => { r with handling := false }
                                 nextSeq := s.faults.nextSeq }
    bedrock := keptBedrock s.bedrock
    audio := if off then { Audio.quiet with ringOn := false } else Audio.quiet
    power := { Power.active with xtal := !off && s.power.xtal }
    sec := { Security.fresh with fleets := s.sec.fleets, draws := s.sec.draws }
    link := lk, tap := s.tap, out := s.out, pending := s.pending }

/-- The counters of starts, and the report of a halt before this start (R354, R369). -/
def countStart (s : State) (off : Bool) : State :=
  let s1 := s.bump32 0xA000 6 1
  let s2 := if off then s1.bump32 0xA000 5 1 else s1
  if s2.persist.fatalPending then
    { (s2.bump32 0x9003 3 1).raise 0x9001 11 with persist := { s2.persist with fatalPending := false } }
  else s2

/-- The journal after OFF or an unclean stop (R140, R145). -/
def startJournal (s : State) (off : Bool) : State :=
  let s1 := if off || s.persist.unclean then s.restoreJournal off else s
  if s.persist.unclean then { s1.raise 0x4401 8 with persist := { s1.persist with unclean := false } } else s1

/-- A start from what the device held before it (Table 15-5, steps 1 to 7). -/
def start (s : State) (off : Bool) (lk : Link) (straps : Nat) (found : StartFinds) : State :=
  let s0 := if s.installBusy then s.dropInstall else s
  let s1 := if off then s0.loseUnits fun _ => true else s0
  let s2 := ((s1.fresh off lk).storeCheck found).countStart off
  let s3 := if s.installBusy then s2.installResult 9 else s2
  let s4 := s3.updFabric fun f => { f with fenced :=
    (s3.fuse.testFenced ++ s3.fuse.fieldFenced ++ s3.persist.fencedTiles).foldl (fun l p => insertNat p l) [] }
  let s5 := (s4.selfTest found).startJournal off
  let (id, src) := (s5.wrn 0x2010 4 straps).nodeChoice
  let s6 := ((s5.wrn 0x2010 4 straps).wrn 0x2010 2 id).wrn 0x2010 3 src
  s6.updLink fun l => { l with aperture := s6.rdn 0x2102 4 }

/-! ### Power and resets -/

/-- AON_PWRGD rises: a start after OFF (R398). -/
def powerUp (s : State) (straps : Nat) (found : StartFinds) : State :=
  if s.power.state ≠ 0 then s else s.start true { Link.down with perst := s.link.perst } straps found

/-- The device is OFF: every output is released, and what only power keeps is gone (R449). -/
def powerDown (s : State) (clean : Bool) : State :=
  if s.power.state = 0 then s
  else
    { s.updPower fun x => { x with state := 0, coreEn := false, xtal := false } with
      persist := { s.persist with unclean := !clean }
      link := { s.link with wakeN := false, width := 0, speed := 0, dump := none }
      faults := { s.faults with faultN := false }
      tap := ⟨.idcode, 0⟩ }

/-- PERST_N is asserted: a reset of the link alone, or a start (R395). -/
def perstOn (s : State) (straps : Nat) (found : StartFinds) : State :=
  if s.power.state = 0 then s.updLink fun l => { l with perst := true }
  else if s.link.dstate = 4 && s.rdn 0x2102 2 = 1 && s.faults.mode ≠ .halted then
    (s.updLink fun l =>
      { l with perst := true, width := 0, speed := 0, aspm := 0, numVfs := 0, bme := [], pmeEn := false
               pmeStatus := false }).raise 0x2101 5
  else s.start false { Link.down with dump := s.link.dump, wakeN := s.link.wakeN } straps found

/-- PERST_N is deasserted: WAKE_N is released (R397). -/
def perstOff (s : State) : State := s.updLink fun l => { l with perst := false, wakeN := false }

/-- A function-level reset of the physical function (R354). -/
def pfFlr (s : State) (straps : Nat) (found : StartFinds) : State :=
  if s.power.state = 0 then s
  else s.start false { Link.down with dump := s.link.dump, perst := s.link.perst, width := s.link.width, speed := s.link.speed
                                      aspm := s.link.aspm } straps found

/-- A function-level reset of virtual function p + 1 (R394): what the partition has taken ends without a record. A context that a feed holds stays the feed's, as a CLOSE would leave it (R291). -/
def resetVf (s : State) (p : Nat) : State :=
  let s0 := (s.part p).work.foldl (fun s w => s.dropHolds (p * 64 + w.slot)) s
  let s1 := (s0.letGo p).updPart p fun x => { x with work := [], waiting := [], window := [] }
  let s2 := (s1.openStreams p).foldl (fun s n =>
    if s.feedHolds n then (s.leaveSteps n).updStream n fun x => { x with chunks := [] } else (s.leaveSteps n).freeStream p n) s1
  let s3 := (s2.openSeqs p).foldl (fun s q => s.freeSeq p q) s2
  let s4 := ((s3.part p).plans.map fun l => l.plan.planId).foldl (fun s id => s.unloadPlan p id) s3
  let s5 := (s4.wrn 0x7019 (p + 1) 0).wrn 0x701A (p + 1) 0
  s5.updLink fun l => { l with bme := l.bme.filter (· ≠ p + 1), msgs := l.msgs.filter fun x => x.1 ≠ p + 1 }

/-- The same, which waits for the end of a live update's hold (Table 15-14). -/
def vfFlr (s : State) (p : Nat) : State :=
  if !s.alive then s
  else if s.link.hold then s.updLink fun l => { l with heldFlrs := l.heldFlrs ++ [p] }
  else s.resetVf p

/-! ### The link -/

/-- Link training ends (R386). -/
def linkTrained (s : State) (width speed : Nat) : State :=
  let s1 := s.updLink fun l => { l with width := width, speed := speed, aspm := 0 }
  if width < 8 || speed < 5 then s1.raise 0x2101 1 else s1

end State

/-! ### The meanings -/

/-- AON_PWRGD_RISE. -/
def execAonPwrgdRise (straps : BitVec 7) (found : StartFinds) (s : State) : Host.Outcome State Fault Refusal :=
  .next (s.powerUp straps.toNat found)

/-- AON_PWRGD_FALL. -/
def execAonPwrgdFall (s : State) : Host.Outcome State Fault Refusal := .next (s.powerDown true)

/-- VDD_AON_LOSS: an unclean stop. -/
def execVddAonLoss (s : State) : Host.Outcome State Fault Refusal := .next (s.powerDown false)

/-- PERST_ASSERT. -/
def execPerstAssert (straps : BitVec 7) (found : StartFinds) (s : State) : Host.Outcome State Fault Refusal :=
  .next (s.perstOn straps.toNat found)

/-- PERST_DEASSERT. -/
def execPerstDeassert (s : State) : Host.Outcome State Fault Refusal := .next s.perstOff

/-- PF_FLR. -/
def execPfFlr (straps : BitVec 7) (found : StartFinds) (s : State) : Host.Outcome State Fault Refusal :=
  .next (s.pfFlr straps.toNat found)

/-- VF_FLR. -/
def execVfFlr (p : Fin 128) (s : State) : Host.Outcome State Fault Refusal := .next (s.vfFlr p.val)

/-- LINK_TRAINED. -/
def execLinkTrained (width speed : BitVec 4) (s : State) : Host.Outcome State Fault Refusal :=
  .next (if s.power.state = 0 || s.link.perst then s else s.linkTrained width.toNat speed.toNat)

/-- LINK_DOWN: the link left L0 without a power-management request. -/
def execLinkDown (s : State) : Host.Outcome State Fault Refusal :=
  .next (if s.power.state = 0 || !s.linkUp then s
    else (s.updLink fun l => { l with width := 0, speed := 0 }).raise 0x2101 0)

/-- XTAL32_START: device time goes on without a break, and the audio loop may start. -/
def execXtal32Start (s : State) : Host.Outcome State Fault Refusal :=
  .next (if s.power.state = 0 || s.power.xtal then s
    else
      let s1 := s.updPower fun x => { x with xtal := true }
      if 2 ≤ s1.power.state then s1.ringStart else s1)

end Sys2Proof.Machine
end

