-- ==== Sys2Proof/Machine/Views.lean ====
section
/-! DEFINITION. What an entry of the object dictionary reads as: values stored as they are, values computed from the device's state, and the strings and domains (R412 to R420). -/

namespace Sys2Proof.Machine
namespace State

/-- The object of an entry that spreads its objects over indices from `base` on, 128 to an index. -/
def objOf (base i sub : Nat) : Nat := (i - base) * 128 + (sub - 1)

/-! ### Host link and firmware -/

/-- `2102:01` LinkStatus (Table 15-17). -/
def linkStatus (s : State) : Nat :=
  let l := s.link
  l.numVfs * 65536 + 4096 * (if l.dstate = 0 then 0 else 3) + 256 * l.aspm + 16 * l.width + l.speed

/-- The bytes of the present crash dump: the header of Table 15-13 and sections that the manual does not give, of free length and content. -/
def dumpBytes (s : State) : List Byte :=
  match s.link.dump with
  | none => []
  | some d =>
    let n := 64 + 16 * 32 + Config.freeNat d.draw % (0x4000000 - 576)
    leBytes 4 0x504D5544 ++ leBytes 2 0x0100 ++ leBytes 2 0 ++ leBytes 4 n ++ leBytes 1 d.source ++ leBytes 1 d.cp ++
      leBytes 1 d.component ++ leBytes 1 (Config.freeNat (d.draw + 1) % 32 + 1) ++ leBytes 8 d.time ++
      leBytes 4 d.version.toNat ++ leBytes 4 0 ++ slice d.digest 0 32 ++
      (List.range (n - 64)).map (Config.lostByte (d.draw + 1))

def dumpLength (s : State) : Nat :=
  match s.link.dump with
  | none => 0
  | some d => 64 + 16 * 32 + Config.freeNat d.draw % (0x4000000 - 576)

/-- The CAN node that interface number `k` reads the predefined COB-IDs for. -/
def nodeFor (s : State) (k : Nat) : Nat :=
  if k = 129 then (s.can 0).node else if k = 130 then (s.can 1).node else s.rdn 0x2010 2

/-- What the persistent store holds, as numbers. -/
def storeContent (s : State) : List Nat :=
  (s.od.filter fun x => x.1 < 16777216 && (Od.isRwp (x.1 / 256) (x.1 % 256) || Od.kept (x.1 / 256) (x.1 % 256))).flatMap
    (fun x => [x.1, x.2.toNat]) ++ [0] ++
  s.persist.writes.flatMap (fun x => [x.1, x.2]) ++ [0] ++ s.persist.fencedTiles ++ [0] ++ s.persist.fencedChannels ++ [0] ++
  s.persist.repairs.flatMap (fun r => [r.channel, r.bank, r.row]) ++ [0, s.persist.floor.toNat] ++
  s.persist.lowered.flatMap (fun x => [x.1, x.2]) ++ [0] ++
  s.bedrock.models.flatMap (fun x => [x.1, x.2.state, x.2.base, x.2.bytes, leNat x.2.digest, leNat x.2.key, leNat x.2.planKey]) ++ [0] ++
  s.bedrock.lost.flatMap (fun x => [x.id.model, x.id.page, x.time]) ++ [0] ++
  s.sec.fleets.flatMap (fun f => [f.id.toNat, f.epoch.toNat, leNat f.seed]) ++ [0] ++
  s.faults.records.flatMap fun r => (recBytes r).map BitVec.toNat

/-- The rwp entry that interface number `k` has selected (R426). -/
def persistKey (s : State) (k : Nat) : Option Nat :=
  let v := (s.rdI k 0xF020 1).toNat
  let i := bits v 31 16
  let j := bits v 15 8
  if bits v 7 0 = 0 && Od.isRwp i j then some (odKey 0 i j) else none

/-! ### Partitions and models -/

/-- `701D` PartitionState (Table 11-10). -/
def partState (s : State) (p : Nat) : Nat :=
  (s.part p).work.length * 65536 + 8 * b2n (s.ringFull p && s.enabled p && s.rdn 0x7018 (p + 1) ≠ 0) +
  4 * b2n (s.rdn 0x2100 3 ≠ 1 && !(s.part p).waiting.isEmpty) + 2 * b2n (s.part p).fenced + b2n (s.enabled p)

/-- `4420` ModelState (Table 5-10). -/
def modelState (s : State) (m : Nat) : Nat :=
  ((List.range 128).filter fun p => (s.part p).plans.any fun l => l.model = m).length * 256 + (s.model m).state

/-- `7025` SlowRatio (R313): the losses of the last 100 updates of 1 ms. -/
def slowRatio (s : State) (p : Nat) : Nat :=
  let t := s.tileCount p * 100000000
  if t = 0 then 0 else min 0xFFFF ((s.part p).slow.foldl (· + ·) 0 * 65536 / t)

/-! ### The computed entries -/

def viewField (s : State) (k i sub : Nat) : Option Nat :=
  if i = 0x1001 then some s.errReg.toNat
  else if i = 0x1018 then (if sub = 2 then some s.productCode else if sub = 4 then some (s.fuse.serial.toNat % 4294967296) else none)
  else if i = 0x1200 then (if sub = 1 then some (0x600 + s.nodeFor k) else if sub = 2 then some (0x580 + s.nodeFor k) else none)
  else if i = 0x2000 && sub = 1 then some s.usableBytes
  else if i = 0x2012 && 1 ≤ sub then some (s.canState (sub - 1))
  else if i = 0x2100 && sub = 4 then some s.leaseRemaining
  else if i = 0x2102 && sub = 1 then some s.linkStatus
  else if i = 0x2200 then (if sub = 4 then some s.securityFloor else if sub = 8 then some s.fuse.floorWords.length else none)
  else if i = 0x2202 && 1 ≤ sub && s.link.image.isNone then some 0x0100
  else if i = 0x2230 then
    (if sub = 2 then some s.dumpLength else if sub = 3 then some ((s.link.dump.map Dump.time).getD 0) else none)
  else none

/-- What a tile's counter of held cycles shows: the counted waits, and for each part of a plan that ran on the tile since start a free number of cycles `f` (R33, R261). -/
def heldCycles (s : State) (f : Nat → Nat → Nat) (k counted : Nat) : Nat :=
  (NMap.get (fun _ => []) s.holds k).foldl (fun n d => n + f d k) counted

def viewTiles (s : State) (i sub : Nat) : Option Nat :=
  if i = 0x3000 then
    (if sub = 4 then some s.fuse.testFenced.length else if sub = 5 then some s.sparesRemaining
     else if sub = 6 then some s.tilesUnusable else none)
  else if i = 0x3003 then some (s.rowSpares (sub - 1))
  else if 0x3100 ≤ i && i ≤ 0x3103 then some (s.tileState (objOf 0x3100 i sub))
  else if 0x3120 ≤ i && i ≤ 0x3123 then some (s.tileClock (objOf 0x3120 i sub))
  else if 0x3140 ≤ i && i ≤ 0x3143 then some (s.heldCycles Config.holdCycles (objOf 0x3140 i sub) 0)
  else if 0x3150 ≤ i && i ≤ 0x3153 then some (s.heldCycles Config.waitCycles (objOf 0x3150 i sub) (s.rdn i sub))
  else none

def viewMem (s : State) (i sub : Nat) : Option Nat :=
  let p := sub - 1
  if i = 0x4010 then some (s.windowBytes p)
  else if i = 0x4011 then some (s.weightFrames p)
  else if i = 0x4012 then some (s.pinnedFrames p)
  else if i = 0x4017 then some (s.sliceBytes p)
  else if i = 0x4100 || i = 0x4101 then some (s.channelState (objOf 0x4100 i sub))
  else if i = 0x4400 then
    (if sub = 1 then some (if s.fuse.b4 then 0x048C27395000 else 0x0246139CA800) else if sub = 2 then some s.dies else none)
  else if i = 0x4403 then
    (if sub = 1 then some s.installedBytes else if sub = 2 then some s.freeBytes else if sub = 3 then some s.spareBlocks
     else if sub = 5 then some s.averagePe else if sub = 6 then some s.maxPe else if sub = 9 then some s.bedrock.lost.length
     else if sub = 10 then some s.oldestAge else if sub = 11 then some s.maintenanceSlots
     else if sub = 12 then some s.installRate else none)
  else if i = 0x4404 then some (if s.rdn i sub = 0 && p < s.dies then 1 else s.rdn i sub)
  else if i = 0x4420 || i = 0x4421 then some (s.modelState (objOf 0x4420 i sub))
  else if i = 0x4430 || i = 0x4431 then some (s.model (objOf 0x4430 i sub)).base
  else if i = 0x4440 || i = 0x4441 then some (s.model (objOf 0x4440 i sub)).bytes
  else if i = 0x4450 || i = 0x4451 then some (s.lostPages (objOf 0x4450 i sub)).length
  else none

def viewStreams (s : State) (i sub : Nat) : Option Nat :=
  let g := sub - 1
  if i = 0x5002 then (if sub = 2 then some s.tickets.length else none)
  else if i = 0x5105 then some (s.groupState g)
  else if i = 0x5106 then some (if (s.params g).isEmpty then 0 else Params.berth (s.params g))
  else if 0x5200 ≤ i && i ≤ 0x527F then some (s.streamState (objOf 0x5200 i sub))
  else if 0x5280 ≤ i && i ≤ 0x52FF then some (s.stream (objOf 0x5280 i sub)).next.toNat
  else if 0x5380 ≤ i && i ≤ 0x53FF then some (s.stream (objOf 0x5380 i sub)).tag.toNat
  else if i = 0x5813 then some (s.freePages g)
  else if i = 0x5814 then some (s.sharedPages g)
  else if 0x5900 ≤ i && i ≤ 0x591F then some (s.seqState (objOf 0x5900 i sub))
  else if 0x5920 ≤ i && i ≤ 0x593F then some (s.seq (objOf 0x5920 i sub)).length
  else if 0x5940 ≤ i && i ≤ 0x595F then some (s.seq (objOf 0x5940 i sub)).maxTokens
  else if 0x5960 ≤ i && i ≤ 0x597F then some (s.seq (objOf 0x5960 i sub)).pages.length
  else if 0x5980 ≤ i && i ≤ 0x599F then some (s.seq (objOf 0x5980 i sub)).tag.toNat
  else if 0x59A0 ≤ i && i ≤ 0x59BF then some (s.seqLayout (objOf 0x59A0 i sub))
  else none

def viewAudio (s : State) (i sub : Nat) : Option Nat :=
  if 0x6410 ≤ i && i ≤ 0x6413 then some (s.heldCycles Config.rowCycles (512 + objOf 0x6410 i sub) 0)
  else if i = 0x6840 && sub = 7 then some s.roostState
  else if i = 0x6850 && sub = 1 && s.without 6 then some 0
  else if i = 0x6850 && sub = 10 then some s.cascadeState
  else if i = 0x701D then some (s.partState (sub - 1))
  else if i = 0x7025 then some (s.slowRatio (sub - 1))
  else if i = 0x7028 then some (s.part (sub - 1)).waiting.length
  else none

def viewPower (s : State) (i sub : Nat) : Option Nat :=
  let factor (k : Nat) : Nat := k * 65535 / 65536
  if i = 0x8004 && sub = 1 then some s.powerState
  else if i = 0x8005 then
    (if sub = 2 then some (s.powerAvg % 4294967296) else if sub = 3 then some (s.power.energyNano / 1000)
     else if sub = 5 then some (BitVec.ofInt 16 s.power.hottest).toNat else if sub = 6 then some (factor s.computeFactor)
     else if sub = 7 then some (factor s.power.km) else if sub = 8 then some (factor s.power.kl) else none)
  else if i = 0x8012 && sub = 2 then some s.lifeMargin
  else if 0x8100 ≤ i && i ≤ 0x8103 then some (s.ceiling (objOf 0x8100 i sub))
  else if 0x8110 ≤ i && i ≤ 0x8113 then some (s.testCeiling (s.phys (objOf 0x8110 i sub)))
  else if i = 0x8200 then some ((s.fuse.vf[sub - 1]?).getD 0)
  else none

def viewFaults (s : State) (k i sub : Nat) : Option Nat :=
  let mask (l : List Nat) : Nat := (l.map fun n => 2 ^ n).foldl (· + ·) 0
  if i = 0x9003 && sub = 1 then some s.faultState
  else if i = 0x9005 then
    (if sub = 1 then some (mask s.faults.heldPipes) else if sub = 2 then some (mask s.faults.heldEdges)
     else if sub = 3 then some (mask s.faults.heldCans) else some (b2n s.faults.roostHeld))
  else if i = 0xA000 && sub = 4 then some s.fuse.fuseState.toNat
  else if i = 0xA010 && sub = 4 then some s.sec.fleets.length
  else if i = 0xA011 then some ((s.sec.fleets[sub - 1]?).elim 0 fun f => f.id.toNat)
  else if i = 0xA012 then some ((s.sec.fleets[sub - 1]?).elim 0 fun f => f.epoch.toNat)
  else if i = 0xA030 && sub = 2 && 1 ≤ k && k ≤ 128 then some (k - 1)
  else if i = 0xF000 && sub = 7 then some (s.staged.length + s.stagedDom.length)
  else if i = 0xF020 then
    (if sub = 2 then some ((s.persistKey k).elim 0 fun x => NMap.get (fun _ => 0) s.persist.writes x)
     else if sub = 4 then some (b2n ((s.persistKey k).any s.persist.locked.contains))
     else if sub = 5 then some s.persist.defaulted.length
     else if sub = 6 then some (Config.storeWord s.storeContent).toNat else none)
  else none

/-- What a computed entry reads as on interface number `k`; none for an entry that reads its stored value. -/
def view (s : State) (k i sub : Nat) : Option Nat :=
  if sub = 0 && i ≠ 0x1001 then none
  else if i < 0x3000 then s.viewField k i sub
  else if i < 0x4000 then s.viewTiles i sub
  else if i < 0x5000 then s.viewMem i sub
  else if i < 0x6000 then s.viewStreams i sub
  else if i < 0x8000 then s.viewAudio i sub
  else if i < 0x9000 then s.viewPower i sub
  else s.viewFaults k i sub

/-! ### Copies and reach (R415, R418, Table 16-15) -/

/-- The entry has a copy for each interface. -/
def ownCopy (i sub : Nat) : Bool :=
  i = 0x3600 || i = 0x3601 || i = 0x5400 || i = 0x5401 || i = 0xA030 || i = 0xF001 || i = 0xF010 || (i = 0xF020 && sub = 1)

/-- The interface number whose copy of the entry interface `fn` uses. -/
def copyOf (fn : Iface) (i sub : Nat) : Nat := if ownCopy i sub then ifaceNo fn else 0

/-- The partition of the object that a per-object entry belongs to: none for an entry that has no object, `some none` for an object without an owner. -/
def objOwner (s : State) (i sub : Nat) : Option (Option Nat) :=
  let part (v : Nat) : Option (Option Nat) := some (if v < 128 then some v else none)
  let tile (base : Nat) : Option (Option Nat) := some (s.tileOwner (objOf base i sub))
  let byPart : Option (Option Nat) := some (if sub ≤ 128 then some (sub - 1) else none)
  if 0x3100 ≤ i && i ≤ 0x3153 then tile (i - i % 16)
  else if i = 0x3410 || i = 0x3411 || (0x4010 ≤ i && i ≤ 0x4017) || (0x4410 ≤ i && i ≤ 0x4413) || i = 0x5010 || i = 0x5011 ||
      (0x5810 ≤ i && i ≤ 0x5817) || (0x7017 ≤ i && i ≤ 0x702A && i ≠ 0x701C) then byPart
  else if 0x4100 ≤ i && i ≤ 0x4131 then some (s.channelOwner (objOf (i - i % 16) i sub))
  else if 0x4200 ≤ i && i ≤ 0x4213 then tile (i - i % 16)
  else if 0x5100 ≤ i && i ≤ 0x510C then part (s.rdn 0x5100 sub)
  else if 0x5200 ≤ i && i ≤ 0x53FF then some (s.streamPart (objOf (i - i % 128) i sub))
  else if 0x5900 ≤ i && i ≤ 0x59BF then
    let q := objOf (i - i % 32) i sub
    some ((List.range 128).find? fun p => s.seqBase p ≤ q && q < s.seqBase p + s.seqCount p)
  else if 0x5A00 ≤ i && i ≤ 0x5A03 then tile 0x5A00
  else if (0x6030 ≤ i && i ≤ 0x6064) then part (s.rdn 0x6024 sub)
  else if 0x6102 ≤ i && i ≤ 0x6113 then part (s.rdn 0x6101 sub)
  else if 0x6410 ≤ i && i ≤ 0x6413 then tile 0x6410
  else if 0x6502 ≤ i && i ≤ 0x650E then part (s.rdn 0x6501 sub)
  else if 0x6900 ≤ i && i ≤ 0x6909 then part (s.rdn 0x6900 sub)
  else none

/-- No virtual function reaches the index. -/
def unmapped (i : Nat) : Bool :=
  (0x1000 ≤ i && i ≤ 0x1FFF && i ≠ 0x1018) || (0x2010 ≤ i && i ≤ 0x22FF) || i = 0x4480 || (0x6010 ≤ i && i ≤ 0x602A) ||
  i = 0x6100 || i = 0x6101 || i = 0x6300 || i = 0x6310 || i = 0x6500 || i = 0x6501 || i = 0x6802 || i = 0x6810 || i = 0x6820 ||
  i = 0x6830 || i = 0x6840 || i = 0x6850 || (0x7010 ≤ i && i ≤ 0x7016) || i = 0x701C || (0x8000 ≤ i && i ≤ 0x83FF) ||
  (0x9000 ≤ i && i ≤ 0x93FF) || (0xF000 ≤ i && i ≤ 0xF002) || i = 0xF020 || i = 0xF021

/-- Virtual function p + 1 reaches the entry for reading. -/
def vfReads (s : State) (p i sub : Nat) : Bool :=
  if unmapped i then false
  else if 0xA000 ≤ i && i ≤ 0xA0FF then (i = 0xA000 && sub ≤ 4) || i = 0xA030
  else if ownCopy i sub || i = 0x3602 then true
  else if (Od.lookup i sub).any fun r => r.acc = .const then true
  else match s.objOwner i sub with
    | some o => o = some p
    | none => false

/-- Indices whose chapter lets a virtual function write entries of its own objects. -/
def vfWritable (i : Nat) : Bool :=
  i = 0x3600 || i = 0x5400 || i = 0xA030 || i = 0xF010 || i = 0x6050 || i = 0x6110 || i = 0x6906 || i = 0x7019

/-- A write through virtual function p + 1 reaches the entry. -/
def vfWrites (s : State) (p i sub : Nat) : Bool :=
  s.vfReads p i sub && vfWritable i && !(i = 0xA030 && sub = 2) && !(i = 0x6906 && s.cascadeFeed (sub - 1))

/-! ### Reading -/

/-- BAR0 serves the entry: before FirmwareState reads RUNNING it serves a few (R398). -/
def barServes (s : State) (i sub : Nat) : Bool :=
  2 ≤ s.rdn 0x2200 1 || i = 0x1018 || i = 0x2000 || i = 0x2200 || (i = 0x9003 && sub = 1) || (i = 0x9011 && sub = 1) || i = 0xA000

/-- The value of an entry that has a slot, on interface `fn`, as its data type gives it; 0 for a slot without an entry (R9). -/
def value (s : State) (fn : Iface) (i sub : Nat) : Nat :=
  let k := copyOf fn i sub
  match Od.lookup i sub with
  | none => 0
  | some r =>
  match s.view (ifaceNo fn) i sub with
  | some v => v
  | none =>
    match fn with
    | .vf _ => (s.rdI k i sub).toNat
    | _ =>
      if r.acc = .rws && s.rdI (ifaceNo fn) 0xF001 1 = 1 then
        ((NMap.get (fun _ => none) s.staged (odKey 0 i sub)).getD (s.rd i sub)).toNat
      else
        let v := s.rdI k i sub
        if v.toNat < Od.followMark || r.ty = .u64 || r.ty = .r64 then v.toNat
        else v.toNat - Od.followMark + s.nodeFor (ifaceNo fn)

/-! ### Strings and domains -/

def decimal (n : Nat) : List Byte := ascii (toString n)

def markBytes (m : Mark) : List Byte := leBytes 8 m.index ++ leBytes 8 m.time ++ leBytes 1 m.kind ++ leBytes 7 0

/-- The 64 bytes of a statistics set (Table 3-13). -/
def statBytes (x : StatSet) : List Byte :=
  leBytes 8 x.count.toNat ++ leBytes 8 x.sumSqErr.toNat ++ leBytes 8 x.sumSqRef.toNat ++ leBytes 4 x.maxAbsErr.toNat ++
  leBytes 4 x.satCount.toNat ++ leBytes 4 x.nonFinite.toNat ++ leBytes 4 x.zeroScale.toNat ++ leBytes 8 x.lastUpdate.toNat ++
  leBytes 16 0

/-- A lost-page record (Table 5-11). -/
def lostBytes (x : LostPage) : List Byte :=
  leBytes 2 x.id.model ++ leBytes 2 0 ++ leBytes 4 (x.id.page + if x.id.image then 2147483648 else 0) ++ leBytes 8 x.time

/-- The content of an rws domain that no write has set. -/
def domainDefault (i : Nat) : List Byte :=
  if i = 0x6040 then (List.range 4096).flatMap fun k => leBytes 4 (k * 4096)
  else if i = 0x610E then
    (List.range 12).flatMap fun k => leBytes 4 (if k = 0 || k = 4 || k = 8 then 0x3F800000 else 0)
  else if i = 0x610F then (List.range 1025).flatMap fun k => leBytes 2 (64 * k - k / 1024)
  else []

/-- An rws domain as interface number `k` reads it. -/
def rwsDomain (s : State) (k i sub : Nat) : List Byte :=
  let have_ := s.dmn [] i sub
  let v := if s.rdI k 0xF001 1 = 1 && !(1 ≤ k && k ≤ 128) then
      (NMap.get (fun _ => none) s.stagedDom (odKey 0 i sub)).getD have_ else have_
  if v.isEmpty then domainDefault i else v

/-- The value of a string, octet string or domain on interface `fn`. -/
def domain (s : State) (fn : Iface) (i sub : Nat) : List Byte :=
  let k := ifaceNo fn
  if i = 0x1008 then ascii (if s.fuse.b4 then "CT2564-B4" else "CT2564-B2")
  else if i = 0x1009 then ascii "B0"
  else if i = 0x100A then
    let v := s.rdn 0x2200 2
    decimal (bits v 31 24) ++ ascii "." ++ decimal (bits v 23 16) ++ ascii "." ++ decimal (bits v 15 0)
  else if i = 0x2200 then (if sub = 3 then slice s.firmwareDigest 0 32 else slice (Config.shake256 Config.firmwareKey 32) 0 32)
  else if i = 0x2230 then s.dumpBytes
  else if i = 0x3602 then
    match fn with
    | .vf p => (List.range (s.rdn 0x3411 (p.val + 1))).flatMap fun j => statBytes (s.statSet (s.rdn 0x3410 (p.val + 1) + j))
    | _ => (List.range 4096).flatMap fun j => statBytes (s.statSet j)
  else if i = 0x4460 || i = 0x4461 then slice (s.model (objOf 0x4460 i sub)).digest 0 32
  else if i = 0x4490 then s.bedrock.lost.flatMap lostBytes
  else if i = 0x5107 then s.params (sub - 1)
  else if i = 0x6040 || i = 0x6041 || i = 0x610E || i = 0x610F then s.rwsDomain k i sub
  else if i = 0x6310 then s.readI2c (sub - 1)
  else if i = 0x6831 then s.audio.marks.flatMap markBytes
  else if i = 0x9010 then s.faults.records.flatMap recBytes
  else if i = 0xA000 then
    (if sub = 1 then s.serialBytes else if sub = 2 then ownCert else slice (Config.shake256 Config.certKey 32) 0 32)
  else if i = 0xA020 then s.sec.log.flatMap secRecBytes
  else if i = 0xA030 then ((s.attest fn).map Attest.report).getD []
  else if i = 0xF021 then s.persist.defaulted.flatMap fun n => leBytes 2 n
  else []

/-- The bytes that a read of an entry gives, or an abort code of Table 16-4. -/
def readEntry (s : State) (fn : Iface) (i sub : Nat) : Except Nat (List Byte) :=
  match Od.lookup i sub with
  | none => .error 0x06020000
  | some r =>
    let hidden := match fn with
      | .vf p => !s.vfReads p.val i sub
      | _ => false
    if r.acc = .wo then .error 0x06010001
    else if Od.Ty.bytes r.ty = 0 then .ok (if hidden then [] else s.domain fn i sub)
    else .ok (leBytes (Od.Ty.bytes r.ty) (if hidden then 0 else s.value fn i sub))

end State
end Sys2Proof.Machine
end

