-- ==== Sys2Proof/Machine/Dictionary.lean ====
section
/-! DEFINITION. Accesses to the object dictionary: the checks of a write, staging, the persistent store, domain transfers, negotiation, and the commands that entries take (R401 to R403, R412 to R426). -/

namespace Sys2Proof.Machine

/-- How a write of an entry ends. -/
inductive WriteEnd where
  /-- It took its effect, or was ignored. -/
  | done
  /-- WRITE_REJECTED through the physical function's BAR0, an abort over CAN (R414, R424, R426). -/
  | rejected (code : Nat)
  /-- Discarded through BAR0, an abort over CAN. -/
  | refused (code : Nat)
  deriving DecidableEq, Repr

/-- The abort code of Table 16-4 that the write gets over CAN; 0 for none. -/
def WriteEnd.code : WriteEnd → Nat
  | .done => 0
  | .rejected c => c
  | .refused c => c

def Tpdo.idle : Tpdo := ⟨none, [], 0, false⟩

namespace State

/-! ### Ranges and clamps (R414) -/

/-- A value limited to a range. -/
def clampNat (lo hi v : Nat) : Nat := max lo (min hi v)

/-- A value that lies outside its range is rejected. -/
def within (ok : Bool) (v : Nat) : Except Nat Nat := if ok then .ok v else .error 0x06090030

/-- The values of `CanConfig` that are not reserved, with a data rate not below the nominal rate (Table 16-11): every data rate is at least 1 Mbit/s. -/
def canConfigOk (v : Nat) : Bool := bits v 27 24 ≤ 3 && bits v 19 16 ≤ 8 && bits v 19 16 ≠ 5

/-- A PDO type of R435. -/
def pdoTypeOk (v : Nat) : Bool := v ≤ 240 || v = 254 || v = 255

/-- The code that refuses a mapping of the entry that `v` names; 0 for a mapping that R434 allows. -/
def mapCode (tx : Bool) (v : Nat) : Nat :=
  match Od.lookup (bits v 31 16) (bits v 15 8) with
  | none => 0x06020000
  | some r =>
    let w := Od.Ty.bytes r.ty
    let fits := match r.acc with
      | .const | .ro => tx
      | .rw | .w1c => true
      | .wo => !tx
      | .rws | .rwp => false
    if w = 0 || bits v 7 0 ≠ 8 * w || !fits then 0x06040041 else 0

/-- A write to a mapping index: refused while its PDO is valid, or while an entry is written under a count. -/
def judgeMap (s : State) (i sub v : Nat) : Except Nat Nat :=
  let tx : Bool := 0x1A00 ≤ i
  if !bit (s.rdn (i - 0x200) 1) 31 then .error 0x08000022
  else if sub = 0 then
    let es := (List.range v).map fun k => s.rdn i (k + 1)
    if 64 < v then .error 0x06090030
    else if es.any fun e => mapCode tx e ≠ 0 then .error 0x06040041
    else if 64 < (es.map fun e => bits e 7 0 / 8).foldl (· + ·) 0 then .error 0x06040042
    else .ok v
  else if s.rdn i 0 ≠ 0 then .error 0x08000022
  else if v = 0 || mapCode tx v = 0 then .ok v
  else .error (mapCode tx v)

/-- A write to a PDO's COB-ID: the identifier cannot change while the PDO is valid. -/
def judgeCob (s : State) (fn : Iface) (i v : Nat) : Except Nat Nat :=
  let old := s.value fn i 1
  within (bit old 31 || old % 2147483648 = v % 2147483648) v

/-- The value that a write of `v` to an rwp entry stores, or its abort code. -/
def judgeRwp (s : State) (fn : Iface) (i sub v : Nat) : Except Nat Nat :=
  if i = 0x2010 then within (1 ≤ v && v ≤ 127 || v = 0xFF) v
  else if i = 0x2011 then within (canConfigOk v) v
  else if i = 0x2014 && sub = 4 then within (v ≤ 8 || v = 0xFF) v
  else if i = 0x2102 && sub = 4 then within (24 ≤ v && v ≤ 31) v
  else if (0x1600 ≤ i && i ≤ 0x1603) || (0x1A00 ≤ i && i ≤ 0x1A07) then s.judgeMap i sub v
  else if (0x1400 ≤ i && i ≤ 0x1403) || (0x1800 ≤ i && i ≤ 0x1807) then
    (if sub = 1 then s.judgeCob fn i v else if sub = 2 then within (pdoTypeOk v) v else .ok v)
  else .ok v

/-- The value that a write of `v` to an rw entry sets, or its abort code: clamped and ignored values as their chapters say (R34, R331, R338, R355, Table 12-11). -/
def judgeRw (s : State) (i sub v : Nat) : Except Nat Nat :=
  if i = 0x1003 then within (v = 0) v
  else if i = 0x1010 || i = 0x1011 then .ok (s.rdn i sub)
  else if i = 0x2102 then within (v ≤ 2047) v
  else if 0x3110 ≤ i && i ≤ 0x3113 then .ok (roundClock v)
  else if i = 0x8002 then
    (if sub = 1 then .ok (if 1 ≤ v && v ≤ 4 then v else s.rdn i sub)
     else if sub = 4 then .ok (clampNat 50 400 v)
     else if sub = 5 then .ok (roundClock v)
     else .ok (clampNat 200 1800 v))
  else if i = 0x8003 then .ok (min 600000 v)
  else if i = 0x8005 then .ok (if v < 128 then clampNat 70 105 v else 70)
  else if i = 0x8012 then .ok (if sub = 3 then clampNat 5 30 v else clampNat 1 15 v)
  else if i = 0x9002 then .ok (if sub = 1 then clampNat 1000 600000 v else clampNat 1 64 v)
  else if i = 0xA030 then within (v < 128 || v = 0xFF) v
  else .ok v

/-! ### The persistent store (R425, R426) -/

/-- A heartbeat consumer that is written anew waits for its node's next heartbeat. -/
def rearm (s : State) (c : Nat) : State :=
  emcyIfClear s { s with hbArmed := s.hbArmed.filter fun x => x.1 ≠ c, hbLost := s.hbLost.filter (· ≠ c) }

/-- What follows a stored write. -/
def rwpEffect (s : State) (i sub : Nat) : State :=
  if i = 0x1016 then s.rearm (sub - 1)
  else if (0x1800 ≤ i && i ≤ 0x1807) || (0x1A00 ≤ i && i ≤ 0x1A07) then
    { s with tpdos := NMap.set (fun _ => Tpdo.idle) s.tpdos (i % 16) Tpdo.idle }
  else s

/-- A value is written through to the store: counted, and locked at the 1 000 000th write. -/
def storeRwp (s : State) (i sub : Nat) (v : W64) : State :=
  let key := odKey 0 i sub
  if s.rd i sub = v then s
  else
    let n := NMap.get (fun _ => 0) s.persist.writes key + 1
    let s1 := { s.wr i sub v with persist := { s.persist with writes := NMap.set (fun _ => 0) s.persist.writes key n } }
    let s2 := if 1000000 ≤ n then
        { s1.raise 0xF002 3 with persist := { s1.persist with locked := insertNat key s1.persist.locked } }
      else s1
    s2.rwpEffect i sub

/-- A write to an rwp entry. -/
def writeRwp (s : State) (fn : Iface) (i sub v : Nat) : State × WriteEnd :=
  if s.persist.locked.contains (odKey 0 i sub) then (s, .rejected 0x08000020)
  else match s.judgeRwp fn i sub v with
    | .error c => (s, .rejected c)
    | .ok x => (s.storeRwp i sub (BitVec.ofNat 64 x), .done)

/-- Every rwp entry that is not locked returns to its default, counted as writes (Table 16-8). -/
def restoreDefaults (s : State) : State :=
  ((s.od.filter fun x => x.1 < 16777216 && Od.isRwp (x.1 / 256) (x.1 % 256) && !s.persist.locked.contains x.1).map Prod.fst).foldl
    (fun s k => s.storeRwp (k / 256) (k % 256) (Od.default k)) s

/-! ### Staging (R421, R422, R424) -/

/-- A write to an rws entry enters the staged set. -/
def stageEntry (s : State) (i sub : Nat) (v : W64) : State :=
  let key := odKey 0 i sub
  { s with staged := NMap.set (fun _ => none) s.staged key (some v)
           snap := s.snap.map fun x => { x with later := insertNat key x.later } }

/-- A write to an rws domain enters the staged set. -/
def stageDom (s : State) (i sub : Nat) (bs : List Byte) : State :=
  let key := odKey 0 i sub
  { s with stagedDom := NMap.set (fun _ => none) s.stagedDom key (some bs)
           snap := s.snap.map fun x => { x with later := insertNat key x.later } }

/-- A write to `F000:01`: 1 COMMIT takes the snapshot, 2 DISCARD empties the staged set. -/
def commitCommand (s : State) (v : Nat) : State × WriteEnd :=
  if s.rdn 0xF000 2 = 1 then (s, .rejected 0x08000022)
  else if v = 1 then
    if s.staged.isEmpty && s.stagedDom.isEmpty then (s.wrn 0xF000 2 4, .done)
    else ({ s.wrn 0xF000 2 1 with snap := some ⟨s.staged, s.stagedDom, []⟩ }, .done)
  else if v = 2 then ({ s.wrn 0xF000 2 5 with staged := [], stagedDom := [] }, .done)
  else (s, .done)

/-! ### Features (R401 to R403) -/

/-- A write to the entry is discarded for want of its feature. -/
def featureDiscards (s : State) (i sub : Nat) : Bool :=
  (s.without 6 && i = 0x6850 && sub = 1) || (s.without 7 && i = 0x5500) || (s.without 4 && 0x6100 ≤ i && i ≤ 0x6113)

/-- What the running image offers of interface n. -/
def ifaceOffer (s : State) (n : Nat) : Nat := s.value .pf 0x2202 n

/-- The active value of interface n; none where the driver's major differs. -/
def ifaceAgree (s : State) (n : Nat) : Option Nat :=
  let d := s.rdn 0x2203 n
  let f := s.ifaceOffer n
  if d = 0 then some 0 else if d / 256 = f / 256 then some (d / 256 * 256 + min (d % 256) (f % 256)) else none

/-- Entries without their feature stay at their defaults. -/
def dropUnfeatured (s : State) : State :=
  let gone (key : Nat) : Bool := s.featureDiscards (key / 256 % 65536) (key % 256)
  let s1 := { s with staged := s.staged.filter fun x => !gone x.1, stagedDom := s.stagedDom.filter fun x => !gone x.1 }
  if s.without 4 then
    { s1.dropOd fun i _ => 0x6100 ≤ i && i ≤ 0x6113 with
      pipes := [], dom := s1.dom.filter fun x => !(0x6100 ≤ x.1 / 256 && x.1 / 256 ≤ 0x6113) }
  else s1

/-- NEGOTIATE. -/
def negotiate (s : State) : State :=
  if s.anyTaken then s.wrn 0x2201 5 3
  else match [1, 2, 3, 4, 5, 6].find? fun n => (s.ifaceAgree n).isNone with
    | some n => (s.wrn 0x2201 5 2).wrn 0x2201 6 n
    | none =>
      let s1 := [1, 2, 3, 4, 5, 6].foldl (fun t n => t.wrn 0x2204 n ((s.ifaceAgree n).getD 0)) s
      let s2 := (s1.wr 0x2201 3 (s.rd 0x2201 1 &&& s.rd 0x2201 2)).wrn 0x2201 5 1
      ({ s2.wrn 0x2201 6 0 with link := { s2.link with negotiated := true } }).dropUnfeatured

/-! ### Domain transfers (R419, R420) -/

def xferOf (s : State) (k : Nat) : Option Xfer := NMap.get (fun _ => none) s.xfer k
def setXfer (s : State) (k : Nat) (x : Option Xfer) : State := { s with xfer := NMap.set (fun _ => none) s.xfer k x }

/-- Interface number `k`'s transfer ends with a result. -/
def endDomain (s : State) (k code : Nat) : State :=
  let s1 := (s.setXfer k none).wrI k 0xF010 6 (BitVec.ofNat 64 code)
  if code = 0 then s1.wrI k 0xF010 5 2 else (s1.wrI k 0xF010 5 3).raise 0xF002 6

/-- The transfer ends ABORTED, with a result for which the manual gives no code: a free value. -/
def cutDomain (s : State) (k : Nat) : State :=
  let (n, s1) := s.draw
  let r := Config.freeW32 n
  let s2 := ((s1.setXfer k none).wrI k 0xF010 6 (BitVec.ofNat 64 r.toNat)).wrI k 0xF010 5 3
  if r = 0 then s2 else s2.raise 0xF002 6

/-- READ, with a snapshot of the value, or WRITE. -/
def startDomain (s : State) (fn : Iface) (write : Bool) : State :=
  let k := ifaceNo fn
  let e := (s.rdI k 0xF010 1).toNat
  let n := (s.rdI k 0xF010 3).toNat
  let x : Xfer := ⟨bits e 31 16, bits e 15 8, write, n, s.rdI k 0xF010 2, []⟩
  let begin_ (t : State) (y : Xfer) : State := (t.setXfer k (some y)).wrI k 0xF010 5 1
  if write then begin_ s x
  else match s.readEntry fn x.index x.sub with
    | .error c => s.endDomain k c
    | .ok bs =>
      let s1 := s.wrI k 0xF010 7 (BitVec.ofNat 64 bs.length)
      if n < bs.length then s1.endDomain k 0x06070012 else begin_ s1 { x with data := bs }

/-- A write to `F010:04`: 1 READ, 2 WRITE, 3 ABORT. -/
def domainCommand (s : State) (fn : Iface) (v : Nat) : State × WriteEnd :=
  let k := ifaceNo fn
  let busy := (s.xferOf k).isSome
  if v = 1 || v = 2 then (if busy then (s, .refused 0x08000022) else (s.startDomain fn (v = 2), .done))
  else if v = 3 && busy then (s.cutDomain k, .done)
  else (s, .done)

/-! ### Writes -/

/-- A head that is ahead of the tail, or further behind it than the ring has entries, is ignored (R307). -/
def completionHead (s : State) (p v : Nat) : State :=
  if s.rdn 0x7018 (p + 1) < (s.rdn 0x701A (p + 1) + 4294967296 - v) % 4294967296 then s.raise 0x7001 2
  else (s.wrn 0x7019 (p + 1) v).flush p

/-- A write to a wo entry acts as its command (R413). -/
def command (s : State) (fn : Iface) (i sub v t : Nat) : State × WriteEnd :=
  if i = 0x2100 then
    let (s1, ok) := s.leaseCommand fn v t
    (s1, if ok then .done else .refused 0x08000022)
  else if i = 0x2201 then (if v = 1 then s.negotiate else s, .done)
  else if i = 0x2230 then (if v = 1 then s.updLink fun l => { l with dump := none } else s, .done)
  else if i = 0x3600 then (s.statCommand fn v, .done)
  else if i = 0x4480 then
    (if v = 1 then s.startInstall [] false else if v = 2 then s.removeModel else if v = 3 then s.abortInstall else s, .done)
  else if i = 0x5400 then (s.streamStatCommand fn v, .done)
  else if i = 0x6850 then
    (if v = 1 then (s.stopStage 1).stopStage 2 else if v = 2 then s.stage0Event s.ringIndex else s, .done)
  else if i = 0x6906 then
    (if v = 1 then s.startFeed (sub - 1) s.ringIndex else if v = 2 then s.stopFeed (sub - 1) else s, .done)
  else if i = 0x9004 then (s.fenceCommand v, .done)
  else if i = 0xA010 then (s.fleetRemove (BitVec.ofNat 64 v), .done)
  else if i = 0xF000 then s.commitCommand v
  else if i = 0xF010 then s.domainCommand fn v
  else (s, .done)

/-- A write to an rw entry. -/
def writeRw (s : State) (fn : Iface) (i sub v : Nat) : State × WriteEnd :=
  match s.judgeRw i sub v with
  | .error c => (s, .rejected c)
  | .ok x =>
    if i = 0x7019 then (s.completionHead (sub - 1) x, .done)
    else if i = 0x1011 then
      (if v = 0x64616F6C then (s.restoreDefaults, .done) else (s, .rejected 0x06090030))
    else
      let s1 := s.wrI (copyOf fn i sub) i sub (BitVec.ofNat 64 x)
      if i = 0x1003 then ((List.range 16).foldl (fun t k => t.wr 0x1003 (k + 1) 0) s1, .done)
      else if i = 0x8002 then (s1.setRail, .done)
      else (s1, .done)

/-- A write of the whole width of an entry that has a slot, on an interface that reaches it; `t` is when it arrived (R413, R414). -/
def writeEntry (s : State) (fn : Iface) (i sub : Nat) (value : W64) (t : Nat) : State × WriteEnd :=
  match Od.lookup i sub with
  | none => (s, .refused 0x06020000)
  | some r =>
    let v := (value &&& BitVec.ofNat 64 r.mask).toNat
    if Od.Ty.bytes r.ty = 0 then (s, .refused 0x06070010)
    else match r.acc with
      | .const | .ro => (s, .rejected 0x06010002)
      | .wo => s.command fn i sub v t
      | .rw => s.writeRw fn i sub v
      | .w1c =>
        if s.featureDiscards i sub then (s, .done)
        else (s.wr i sub (s.rd i sub &&& ~~~(BitVec.ofNat 64 v)), .done)
      | .rws => (if s.featureDiscards i sub then s else s.stageEntry i sub (BitVec.ofNat 64 v), .done)
      | .rwp => s.writeRwp fn i sub v

/-- The code for a value of `n` bytes where the entry accepts `w`. -/
def lengthCode (n w : Nat) : Nat := if w < n then 0x06070012 else if n < w then 0x06070013 else 0

/-- The code for a length that an rws domain does not accept: a linearisation table, a defect list of whole entries, a colour matrix, a tone curve. -/
def domLengthCode (i n : Nat) : Nat :=
  if i = 0x6040 then lengthCode n 16384
  else if i = 0x610E then lengthCode n 48
  else if i = 0x610F then lengthCode n 2050
  else if n % 4 = 0 then 0 else 0x06070013

/-- A write of bytes to an entry as one value: its abort code, 0 on success (R419, R420). -/
def writeDomain (s : State) (fn : Iface) (i sub : Nat) (bs : List Byte) (t : Nat) : State × Nat :=
  match Od.lookup i sub with
  | none => (s, 0x06020000)
  | some r =>
    let w := Od.Ty.bytes r.ty
    if w ≠ 0 then
      if lengthCode bs.length w ≠ 0 then (s, lengthCode bs.length w)
      else
        let (s1, e) := s.writeEntry fn i sub (BitVec.ofNat 64 (leNat bs)) t
        (s1, e.code)
    else match r.acc with
      | .const | .ro | .rwp | .w1c => (s, 0x06010002)
      | .rws =>
        if domLengthCode i bs.length ≠ 0 then (s, domLengthCode i bs.length)
        else (if s.featureDiscards i sub then s else s.stageDom i sub bs, 0)
      | .rw => s.startI2c (sub - 1) bs
      | .wo =>
        if i = 0x6050 then (s.writeSettings (sub - 1) bs, 0)
        else if i = 0xA010 then (s.fleetEnrol bs, 0)
        else if lengthCode bs.length 32 ≠ 0 then (s, lengthCode bs.length 32)
        else (s.attestNonce fn (BitVec.ofNat 256 (leNat bs)), 0)

/-- A virtual function's write does not reach the entry: it is discarded silently (R418). -/
def vfDiscards (s : State) (fn : Iface) (i sub : Nat) : Bool :=
  match fn with
  | .vf p => !s.vfWrites p.val i sub
  | _ => false

/-- A domain transfer's bytes have arrived: the write acts. -/
def endDomainWrite (s : State) (fn : Iface) (i sub : Nat) (bs : List Byte) (t : Nat) : State :=
  if s.vfDiscards fn i sub then s.endDomain (ifaceNo fn) 0
  else
    let (s1, c) := s.writeDomain fn i sub bs t
    s1.endDomain (ifaceNo fn) c

/-- The function that moves an interface's domain transfers. -/
def ifaceFn (fn : Iface) : Nat :=
  match fn with
  | .vf p => p.val + 1
  | _ => 0

/-- A domain transfer through BAR0 ends (R419). -/
def domainDone (s : State) (fn : Iface) (data : List Byte) (hostFault : Bool) : State :=
  let k := ifaceNo fn
  match s.xferOf k with
  | none => s
  | some x =>
    let n := if x.write then x.bytes else x.data.length
    let a := s.ifaceAddr fn x.addr.toNat
    if n ≠ 0 && !s.busMaster (ifaceFn fn) then s.busBlocked.cutDomain k
    else if hostFault then (s.raise 0x4001 10).cutDomain k
    else if x.write then
      let s1 := s.updMem fun m => { m with host := hostWrite m.host a (data.take n) }
      s1.endDomainWrite fn x.index x.sub (s1.fromHost a n) s1.time
    else (s.toHost a x.data).endDomain k 0

/-! ### Accesses of an interface -/

/-- The SDO or USDO server of controller n answers (R431, R432). -/
def sdoRuns (s : State) (n : Nat) : Bool := s.canServes n && ((s.can n).nmt = 2 || (s.can n).nmt = 3)

/-- The server's answer: data, or an abort, which sets SDO_ABORT (Table 16-13). -/
def sdoAnswer (s : State) (n code : Nat) (data : List Byte) : State :=
  if code = 0 then s.emit (.sdo n 0 data) else (s.raise 0x2013 5).emit (.sdo n (BitVec.ofNat 32 code) [])

/-- Controller n is in FD mode: its server is a USDO server (R432). -/
def canFd (s : State) (n : Nat) : Bool := bit (s.can n).cfg.toNat 1

/-- A read over CAN: the answer, or the start of a transfer of a snapshot (R420, R432). A USDO request stands for its whole transfer. -/
def sdoRead (s : State) (n i sub : Nat) (block : Bool) : State :=
  match s.readEntry (.can (BitVec.ofNat 1 n).toFin) i sub with
  | .error c => s.sdoAnswer n c []
  | .ok bs =>
    if s.canFd n || (!block && bs.length ≤ 4) then s.sdoAnswer n 0 bs
    else (s.updCan n fun c => { c with sdo := some ⟨i, sub, false, false, bs, block⟩ }).sdoAnswer n 0 (leBytes 4 bs.length)

/-- A row's own domain command: a transfer of interface `fn` that ends at once. -/
def directDomain (s : State) (fn : Iface) (i sub : Nat) (bs : List Byte) (t : Nat) : State :=
  if (s.xferOf (ifaceNo fn)).isSome then s else s.endDomainWrite fn i sub bs t

/-- An expedited write has the width of its entry's type (Table 16-4). -/
def expeditedOk (i sub n : Nat) : Bool :=
  match Od.lookup i sub with
  | some r => Od.Ty.bytes r.ty = 0 || Od.Ty.bytes r.ty = n
  | none => true

/-- An access by SDO or USDO that waits no more. -/
def carryCan (s : State) (fn : Iface) (n i sub : Nat) (ask : Ask) (t : Nat) : State :=
  let say (r : State × Nat) : State := r.1.sdoAnswer n r.2 []
  match ask with
  | .value v => let r := s.writeEntry fn i sub v t; say (r.1, r.2.code)
  | .bytes d => say (s.writeDomain fn i sub d t)
  | .expedited d => if expeditedOk i sub d.length then say (s.writeDomain fn i sub d t) else s.sdoAnswer n 0x06070010 []
  | .package d fault => say (s.startInstall d fault, 0)
  | .pdo v => (s.writeEntry fn i sub v t).1
  | .upload block => s.sdoRead n i sub block

/-- An access through BAR0 that waits no more. -/
def carryBar (s : State) (fn : Iface) (i sub : Nat) (ask : Ask) (t : Nat) : State :=
  if !s.barServes i sub then s
  else match ask with
    | .value v =>
      if s.vfDiscards fn i sub then s
      else match fn, s.writeEntry fn i sub v t with
        | .pf, (s1, .rejected _) => s1.raise 0xF002 0
        | _, (s1, _) => s1
    | .bytes d => s.directDomain fn i sub d t
    | .package d fault => if s.vfDiscards fn i sub then s else s.startInstall d fault
    | .expedited _ | .pdo _ | .upload _ => s

/-- Carry out an access that waits no more: over CAN while the controller's server runs, PDOs while it is Operational. -/
def carry (s : State) (h : HeldWrite) : State :=
  match h.fn with
  | .can n =>
    let runs := match h.ask with
      | .pdo _ => s.canServes n.val && (s.can n.val).nmt = 3
      | _ => s.sdoRuns n.val
    if runs then s.carryCan h.fn n.val h.index h.sub h.ask h.time else s
  | fn => s.carryBar fn h.index h.sub h.ask h.time

/-- Dictionary accesses wait for the end of a hand-off or of a restart of their component (R406, Table 15-11). -/
def accessWaits (s : State) (i sub : Nat) : Bool :=
  s.link.hold || s.link.restarting.contains 1 || (s.link.restarting.contains 0 && i = 0x2100 && sub = 2)

/-- An access reaches the dictionary component. -/
def access (s : State) (h : HeldWrite) : State :=
  if !s.alive then s
  else if s.accessWaits h.index h.sub then s.updLink fun l => { l with heldWrites := l.heldWrites ++ [h] }
  else s.carry h

/-- The accesses that waited are carried out in arrival order. -/
def carryHeld (s : State) : State :=
  s.link.heldWrites.foldl access (s.updLink fun l => { l with heldWrites := [] })

/-- A write of an entry's whole width on interface `fn`. -/
def put (s : State) (fn : Iface) (i sub : Nat) (v : W64) : State := s.access ⟨fn, i, sub, .value v, s.time⟩

/-- A write of bytes to an entry on interface `fn`. -/
def putDomain (s : State) (fn : Iface) (i sub : Nat) (bs : List Byte) : State :=
  s.access ⟨fn, i, sub, .bytes bs, s.time⟩

/-- A write through BAR0 with its byte enables (R416). -/
def barWrite (s : State) (fn : Iface) (i sub : Nat) (enables : Byte) (v : W64) : State :=
  match fn, Od.lookup i sub with
  | .can _, _ => s.put fn i sub v
  | _, none => s
  | _, some r =>
    let w := Od.Ty.bytes r.ty
    if w = 0 || !s.alive || !s.barServes i sub then s
    else if enables.toNat % 2 ^ w ≠ 2 ^ w - 1 then (if fn = .pf then s.raise 0xF002 1 else s)
    else s.put fn i sub v

end State

/-! ### The meanings -/

/-- DICTIONARY_WRITE. -/
def execDictionaryWrite (fn : Iface) (e : Entry) (enables : Byte) (value : W64) (s : State) : Host.Outcome State Fault Refusal :=
  .next (s.barWrite fn e.index.toNat e.sub.toNat enables value)

/-- RWP_WRITE. -/
def execRwpWrite (fn : Iface) (e : Entry) (enables : Byte) (value : W64) (s : State) : Host.Outcome State Fault Refusal :=
  .next (s.barWrite fn e.index.toNat e.sub.toNat enables value)

/-- RESTORE_DEFAULTS: a write to `1011:01`. -/
def execRestoreDefaults (fn : Iface) (value : W32) (s : State) : Host.Outcome State Fault Refusal :=
  .next (s.put fn 0x1011 1 (value.setWidth 64))

/-- COMMIT. -/
def execCommit (fn : Iface) (s : State) : Host.Outcome State Fault Refusal := .next (s.put fn 0xF000 1 1)

/-- DISCARD. -/
def execDiscard (fn : Iface) (s : State) : Host.Outcome State Fault Refusal := .next (s.put fn 0xF000 1 2)

/-- DOMAIN_READ. -/
def execDomainRead (fn : Iface) (s : State) : Host.Outcome State Fault Refusal := .next (s.put fn 0xF010 4 1)

/-- DOMAIN_WRITE. -/
def execDomainWrite (fn : Iface) (s : State) : Host.Outcome State Fault Refusal := .next (s.put fn 0xF010 4 2)

/-- DOMAIN_ABORT. -/
def execDomainAbort (fn : Iface) (s : State) : Host.Outcome State Fault Refusal := .next (s.put fn 0xF010 4 3)

/-- DOMAIN_TRANSFER_DONE: it does not come while dictionary accesses wait. -/
def execDomainTransferDone (fn : Iface) (data : List Byte) (hostFault : Bool) (s : State) : Host.Outcome State Fault Refusal :=
  .next (if s.serves && !s.accessWaits 0xF010 4 then s.domainDone fn data hostFault else s)

/-- TILE_CLOCK_REQUEST_WRITE. -/
def execTileClockRequestWrite (fn : Iface) (tile : Fin 512) (value : W16) (s : State) : Host.Outcome State Fault Refusal :=
  .next (s.put fn (0x3110 + tile.val / 128) (tile.val % 128 + 1) (value.setWidth 64))

/-- INSTALL: `header` is what the physical function reads of the package's front. -/
def execInstall (fn : Iface) (header : List Byte) (hostFault : Bool) (s : State) : Host.Outcome State Fault Refusal :=
  .next (s.access ⟨fn, 0x4480, 3, .package header hostFault, s.time⟩)

/-- REMOVE. -/
def execRemove (fn : Iface) (s : State) : Host.Outcome State Fault Refusal := .next (s.put fn 0x4480 3 2)

/-- INSTALL_ABORT. -/
def execInstallAbort (fn : Iface) (s : State) : Host.Outcome State Fault Refusal := .next (s.put fn 0x4480 3 3)

/-- STAT_SNAPSHOT. -/
def execStatSnapshot (fn : Iface) (s : State) : Host.Outcome State Fault Refusal := .next (s.put fn 0x3600 2 1)

/-- STAT_SNAPSHOT_CLEAR. -/
def execStatSnapshotClear (fn : Iface) (s : State) : Host.Outcome State Fault Refusal := .next (s.put fn 0x3600 2 2)

/-- STAT_CLEAR. -/
def execStatClear (fn : Iface) (s : State) : Host.Outcome State Fault Refusal := .next (s.put fn 0x3600 2 3)

/-- STREAM_STAT_SNAPSHOT. -/
def execStreamStatSnapshot (fn : Iface) (s : State) : Host.Outcome State Fault Refusal := .next (s.put fn 0x5400 2 1)

/-- STREAM_STAT_SNAPSHOT_CLEAR. -/
def execStreamStatSnapshotClear (fn : Iface) (s : State) : Host.Outcome State Fault Refusal := .next (s.put fn 0x5400 2 2)

/-- STREAM_STAT_CLEAR. -/
def execStreamStatClear (fn : Iface) (s : State) : Host.Outcome State Fault Refusal := .next (s.put fn 0x5400 2 3)

/-- SENSOR_SETTINGS_WRITE. -/
def execSensorSettingsWrite (fn : Iface) (sensor : Fin 16) (record : List Byte) (s : State) : Host.Outcome State Fault Refusal :=
  .next (s.putDomain fn 0x6050 (sensor.val + 1) record)

/-- I2C_TRANSFER. -/
def execI2cTransfer (fn : Iface) (m : Fin 4) (data : List Byte) (s : State) : Host.Outcome State Fault Refusal :=
  .next (s.putDomain fn 0x6310 (m.val + 1) data)

/-- FEED_START. -/
def execFeedStart (fn : Iface) (f : Fin 8) (s : State) : Host.Outcome State Fault Refusal :=
  .next (s.put fn 0x6906 (f.val + 1) 1)

/-- FEED_STOP. -/
def execFeedStop (fn : Iface) (f : Fin 8) (s : State) : Host.Outcome State Fault Refusal :=
  .next (s.put fn 0x6906 (f.val + 1) 2)

/-- CASCADE_STOP. -/
def execCascadeStop (fn : Iface) (s : State) : Host.Outcome State Fault Refusal := .next (s.put fn 0x6850 0xB 1)

/-- CASCADE_TRIGGER. -/
def execCascadeTrigger (fn : Iface) (s : State) : Host.Outcome State Fault Refusal := .next (s.put fn 0x6850 0xB 2)

/-- COMPLETION_HEAD_WRITE. -/
def execCompletionHeadWrite (fn : Iface) (p : Fin 128) (value : W32) (s : State) : Host.Outcome State Fault Refusal :=
  .next (s.put fn 0x7019 (p.val + 1) (value.setWidth 64))

/-- HOST_CLOCK_LIMIT_WRITE. -/
def execHostClockLimitWrite (fn : Iface) (value : W16) (s : State) : Host.Outcome State Fault Refusal :=
  .next (s.put fn 0x8002 5 (value.setWidth 64))

/-- RAIL_TARGET_WRITE: to `WatchRailMHz`, or to `RailTargetMHz`. -/
def execRailTargetWrite (fn : Iface) (watch : Bool) (value : W16) (s : State) : Host.Outcome State Fault Refusal :=
  .next (s.put fn 0x8002 (if watch then 7 else 6) (value.setWidth 64))

/-- FENCE: [23:16] the unit kind, [15:0] the unit. -/
def execFence (fn : Iface) (value : W32) (s : State) : Host.Outcome State Fault Refusal :=
  .next (s.put fn 0x9004 1 (BitVec.ofNat 64 (0x01000000 + value.toNat % 0x1000000)))

/-- UNFENCE of a partition. -/
def execUnfence (fn : Iface) (value : W32) (s : State) : Host.Outcome State Fault Refusal :=
  .next (s.put fn 0x9004 1 (BitVec.ofNat 64 (0x02000000 + value.toNat % 0x1000000)))

/-- RELEASE. -/
def execRelease (fn : Iface) (value : W32) (s : State) : Host.Outcome State Fault Refusal :=
  .next (s.put fn 0x9004 1 (BitVec.ofNat 64 (0x03000000 + value.toNat % 0x1000000)))

/-- UNFENCE of a channel. -/
def execUnfenceChannel (fn : Iface) (value : W32) (s : State) : Host.Outcome State Fault Refusal :=
  .next (s.put fn 0x9004 1 (BitVec.ofNat 64 (0x04020000 + value.toNat % 0x10000)))

/-- LEASE_RENEW. -/
def execLeaseRenew (fn : Iface) (s : State) : Host.Outcome State Fault Refusal := .next (s.put fn 0x2100 2 1)

/-- LEASE_CLAIM. -/
def execLeaseClaim (fn : Iface) (s : State) : Host.Outcome State Fault Refusal := .next (s.put fn 0x2100 2 2)

/-- LEASE_RELEASE. -/
def execLeaseRelease (fn : Iface) (s : State) : Host.Outcome State Fault Refusal := .next (s.put fn 0x2100 2 3)

/-- FLEET_ENROL. -/
def execFleetEnrol (fn : Iface) (record : List Byte) (s : State) : Host.Outcome State Fault Refusal :=
  .next (s.putDomain fn 0xA010 1 record)

/-- FLEET_REMOVE. -/
def execFleetRemove (fn : Iface) (fleetId : W64) (s : State) : Host.Outcome State Fault Refusal :=
  .next (s.put fn 0xA010 3 fleetId)

/-- ATTEST_NONCE. -/
def execAttestNonce (fn : Iface) (nonce : BitVec 256) (s : State) : Host.Outcome State Fault Refusal :=
  .next (s.putDomain fn 0xA030 1 (leBytes 32 nonce.toNat))

/-- NEGOTIATE. -/
def execNegotiate (fn : Iface) (s : State) : Host.Outcome State Fault Refusal := .next (s.put fn 0x2201 4 1)

/-- CRASH_DUMP_CLEAR. -/
def execCrashDumpClear (fn : Iface) (s : State) : Host.Outcome State Fault Refusal := .next (s.put fn 0x2230 4 1)

end Sys2Proof.Machine
end

