-- ==== Sys2Proof/Machine/CanOpen.lean ====
section
/-! DEFINITION. CANopen on the field port: NMT commands, SDO and USDO, SYNC and PDOs, heartbeats, EMCY, and error confinement (R429 to R438, R442). -/

namespace Sys2Proof.Machine
namespace State

/-- Controller n's interface. -/
def canIface (n : Nat) : Iface := .can (BitVec.ofNat 1 n).toFin

/-! ### NMT (R431) -/

/-- An NMT command that moves controller n to state `v`: it acts in Pre-operational, Operational and Stopped. -/
def nmtTo (s : State) (n v : Nat) : State :=
  if s.canServes n && 2 ≤ (s.can n).nmt && (s.can n).nmt ≤ 4 then s.updCan n fun c => { c with nmt := v } else s

/-- Reset Node and Reset Communication. -/
def nmtReset (s : State) (n : Nat) : State :=
  if s.canServes n && 2 ≤ (s.can n).nmt && (s.can n).nmt ≤ 4 then s.resetComm n else s

/-! ### SDO and USDO (R432) -/

/-- The classic server of controller n runs; a new request replaces the transfer in progress. -/
def sdoServer (s : State) (n : Nat) : Bool := s.sdoRuns n && !s.canFd n
def usdoServer (s : State) (n : Nat) : Bool := s.sdoRuns n && s.canFd n
def setSdo (s : State) (n : Nat) (x : Option Sdo) : State := s.updCan n fun c => { c with sdo := x }

/-- An access by the client of controller n. -/
def clientAsks (s : State) (n i sub : Nat) (ask : Ask) : State := s.access ⟨canIface n, i, sub, ask, s.time⟩

/-- Initiate download: an expedited one writes at once. -/
def sdoDownload (s : State) (n i sub : Nat) (expedited : Bool) (size : Nat) (data : W64) : State :=
  if !s.sdoServer n then s
  else
    let s1 := s.setSdo n none
    if expedited then s1.clientAsks n i sub (.expedited (leBytes (min size 4) data.toNat))
    else (s1.setSdo n (some ⟨i, sub, true, false, [], false⟩)).sdoAnswer n 0 []

/-- Initiate upload. -/
def sdoUpload (s : State) (n i sub : Nat) (block : Bool) : State :=
  if !s.sdoServer n then s else (s.setSdo n none).clientAsks n i sub (.upload block)

/-- Bytes that one answer of an upload carries: 7 in a segment, 127 segments in a block. -/
def uploadStep (x : Sdo) : Nat := if x.block then 889 else 7

/-- A segment of a download, or the request of the next segment or block of an upload. -/
def sdoSegment (s : State) (n : Nat) (toggle last : Bool) (data : List Byte) : State :=
  if !s.sdoServer n then s
  else match (s.can n).sdo with
    | none => s.sdoAnswer n 0x05040001 []
    | some x =>
      if !x.block && toggle ≠ x.toggle then (s.setSdo n none).sdoAnswer n 0x05030000 []
      else if x.write then
        let got := x.data ++ data.take 7
        if last then (s.setSdo n none).clientAsks n x.index x.sub (.bytes got)
        else (s.setSdo n (some { x with toggle := !x.toggle, data := got })).sdoAnswer n 0 []
      else
        let k := uploadStep x
        let rest := if x.data.length ≤ k then none else some { x with toggle := !x.toggle, data := x.data.drop k }
        (s.setSdo n rest).sdoAnswer n 0 (x.data.take k)

/-- A block download as a whole, with the check of its CRC. -/
def sdoBlockDownload (s : State) (n i sub : Nat) (data : List Byte) (crcOk : Bool) : State :=
  if !s.sdoServer n then s
  else
    let s1 := s.setSdo n none
    if crcOk then s1.clientAsks n i sub (.bytes data) else s1.sdoAnswer n 0x05040004 []

/-- The client has been silent for 1 s. -/
def sdoTimeout (s : State) (n : Nat) : State :=
  if (s.can n).sdo.isSome && s.sdoRuns n then (s.setSdo n none).sdoAnswer n 0x05040000 [] else s

/-- A USDO request as a whole; up to 56 bytes are expedited (PRESUMED CiA 1301). -/
def usdo (s : State) (n i sub : Nat) (write : Bool) (data : List Byte) : State :=
  if !s.usdoServer n then s
  else s.clientAsks n i sub (if !write then .upload false else if data.length ≤ 56 then .expedited data else .bytes data)

/-! ### PDOs (R434, R435) -/

/-- The entries of a mapping: index, subindex and bytes. -/
def mapped (s : State) (i : Nat) : List (Nat × Nat × Nat) :=
  (List.range (s.rdn i 0)).map fun k =>
    let e := s.rdn i (k + 1)
    (bits e 31 16, bits e 15 8, bits e 7 0 / 8)

def mapBytes (es : List (Nat × Nat × Nat)) : Nat := (es.map fun e => e.2.2).foldl (· + ·) 0

/-- The PDO of communication index `i` is valid. -/
def pdoValid (s : State) (i : Nat) : Bool := !bit (s.rdn i 1) 31

/-- PDOs of `w` bytes run on controller n: it is Operational, and its mode allows the length. -/
def pdoRuns (s : State) (n w : Nat) : Bool := s.canServes n && (s.can n).nmt = 3 && (w ≤ 8 || s.canFd n)

/-- The data of transmit PDO `k` on controller n. -/
def tpdoBytes (s : State) (n k : Nat) : List Byte :=
  (s.mapped (0x1A00 + k)).flatMap fun e => leBytes e.2.2 (s.value (canIface n) e.1 e.2.1)

/-- The mapped values of transmit PDO `k`, as both controllers read them. -/
def tpdoNow (s : State) (k : Nat) : List Byte := s.tpdoBytes 0 k ++ s.tpdoBytes 1 k

def tpdo (s : State) (k : Nat) : Tpdo := NMap.get (fun _ => Tpdo.idle) s.tpdos k
def setTpdo (s : State) (k : Nat) (x : Tpdo) : State := { s with tpdos := NMap.set (fun _ => Tpdo.idle) s.tpdos k x }

/-- Transmit PDO `k` is valid and mapped, and runs on some controller. -/
def tpdoLive (s : State) (k : Nat) : Bool :=
  let w := mapBytes (s.mapped (0x1A00 + k))
  s.pdoValid (0x1800 + k) && w ≠ 0 && (s.pdoRuns 0 w || s.pdoRuns 1 w)

/-- Transmit PDO `k` goes out on every controller on which it runs. -/
def sendTpdo (s : State) (k : Nat) : State :=
  let w := mapBytes (s.mapped (0x1A00 + k))
  let now := s.tpdoNow k
  let s1 := [0, 1].foldl (fun t n =>
    if s.pdoRuns n w then t.canSend n (s.cobValue n (s.rd (0x1800 + k) 1)) (s.tpdoBytes n k) else t) s
  s1.setTpdo k { s.tpdo k with lastSent := some s.time, lastValue := now, changed := false }

/-- A mapped value has changed since the last look; the first look after a change of the PDO's entries only takes note. -/
def tpdoChanged (s : State) (k : Nat) : Bool :=
  let x := s.tpdo k
  x.changed || (!x.lastValue.isEmpty && x.lastValue ≠ s.tpdoNow k)

/-- The change check of transmit PDO `k`. -/
def checkTpdo (s : State) (k : Nat) : State :=
  let ty := s.rdn (0x1800 + k) 2
  let x := s.tpdo k
  let free := match x.lastSent with
    | some t => decide (t + s.rdn (0x1800 + k) 3 * 100 ≤ s.time)
    | none => true
  if !s.tpdoLive k || !(ty = 0 || 254 ≤ ty) then s
  else if s.tpdoChanged k && 254 ≤ ty && free then s.sendTpdo k
  else s.setTpdo k { x with changed := s.tpdoChanged k, lastValue := s.tpdoNow k }

/-- A SYNC for transmit PDO `k`. -/
def syncTpdo (s : State) (k : Nat) : State :=
  let ty := s.rdn (0x1800 + k) 2
  let x := s.tpdo k
  if !s.tpdoLive k then s
  else if ty = 0 then (if s.tpdoChanged k then s.sendTpdo k else s.setTpdo k { x with lastValue := s.tpdoNow k })
  else if 240 < ty then s
  else if ty ≤ x.syncs + 1 then (s.setTpdo k { x with syncs := 0 }).sendTpdo k
  else s.setTpdo k { x with syncs := x.syncs + 1 }

/-- The event timer of transmit PDO `k` runs out. -/
def tpdoTimer (s : State) (k : Nat) : State :=
  if s.tpdoLive k && 254 ≤ s.rdn (0x1800 + k) 2 && s.rdn (0x1800 + k) 5 ≠ 0 then s.sendTpdo k else s

/-- The values of receive PDO `k` are written on controller n, in mapping order. -/
def writeRpdo (n k : Nat) (data : List Byte) (s : State) : State :=
  ((s.mapped (0x1600 + k)).foldl (fun (x : State × List Byte) e =>
    (x.1.clientAsks n e.1 e.2.1 (.pdo (BitVec.ofNat 64 (leNat (x.2.take e.2.2)))), x.2.drop e.2.2)) (s, data)).1

/-- A SYNC on controller n: synchronous receive PDOs are written, then transmit PDOs go out. -/
def syncOn (s : State) (n : Nat) : State :=
  if !s.canServes n || (s.can n).nmt ≠ 3 then s
  else
    let mine := s.rpdoWait.filter fun x => x.1 = n
    let s1 := mine.foldl (fun s x => writeRpdo n x.2.1 x.2.2 s) { s with rpdoWait := s.rpdoWait.filter fun x => x.1 ≠ n }
    (List.range 8).foldl syncTpdo s1

/-- A field-port condition that lasts no longer than its message: the error register is zero again after it (R437). -/
def passingEmcy (s : State) (n : Nat) (code : W16) (b4 : Nat) : State :=
  let s1 := s.fieldEmcy n code b4
  if s1.errReg = 0 then s1.emcy 0 0 else s1

/-- Receive PDO `k` arrives on controller n. -/
def rpdoIn (s : State) (n k : Nat) (data : List Byte) : State :=
  let w := mapBytes (s.mapped (0x1600 + k))
  if !s.pdoValid (0x1400 + k) || !s.pdoRuns n w then s
  else if data.length < w then (s.raise 0x2013 4).passingEmcy n 0x8210 (k + 1)
  else if s.rdn (0x1400 + k) 2 ≤ 240 then { s with rpdoWait := s.rpdoWait ++ [(n, k, data.take w)] }
  else writeRpdo n k (data.take w) s

/-! ### Heartbeats (R436) -/

/-- The NMT state as a heartbeat carries it (PRESUMED CiA 301). -/
def heartbeatCode (nmt : Nat) : Byte := if nmt = 4 then 4 else if nmt = 3 then 5 else 127

/-- The producer time of controller n runs out. -/
def heartbeat (s : State) (n : Nat) : State :=
  let c := s.can n
  if s.canServes n && s.rdn 0x1017 0 ≠ 0 && 2 ≤ c.nmt && c.nmt ≤ 4 then s.canSend n (0x700 + c.node) [heartbeatCode c.nmt] else s

/-- Consumer `c` watches node `id`. -/
def consumes (s : State) (c id : Nat) : Bool :=
  let v := s.rdn 0x1016 (c + 1)
  bits v 23 16 = id && bits v 15 0 ≠ 0

/-- A heartbeat of node `id` arrives on controller n. -/
def heartbeatFrom (s : State) (n id : Nat) : State :=
  if !s.canServes n || (s.can n).nmt < 2 || 4 < (s.can n).nmt || id = 0 then s
  else
    let hit := (List.range 4).filter fun c => s.consumes c id
    emcyIfClear s { s with
      hbArmed := (s.hbArmed.filter fun x => !hit.contains x.1) ++ hit.map fun c => (c, n)
      hbLost := s.hbLost.filter fun c => !hit.contains c }

/-- Consumer `c` misses its node. -/
def heartbeatMissed (s : State) (c : Nat) : State :=
  match s.hbArmed.find? fun x => x.1 = c with
  | none => s
  | some (_, n) =>
    if !s.canServes n then s
    else
      ({ s with hbArmed := s.hbArmed.filter fun x => x.1 ≠ c, hbLost := insertNat c s.hbLost }.raise 0x2013 3).fieldEmcy
        n 0x8130 (bits (s.rdn 0x1016 (c + 1)) 23 16)

/-! ### EMCY (R437) -/

/-- The inhibit time of controller n runs out: the next queued message goes. -/
def emcyNext (s : State) (n : Nat) : State :=
  let c := s.can n
  if !c.inhibited || !s.emcyRuns n then s
  else match c.emcy with
    | [] => s.updCan n fun c => { c with inhibited := false }
    | m :: rest =>
      (s.canSend n (s.cobValue n (s.rd 0x1014 0)) (emcyBytes m)).updCan n fun c =>
        { c with emcy := rest, inhibited := s.rdn 0x1015 0 ≠ 0 || !rest.isEmpty }

/-! ### Error confinement (R438) -/

/-- Controller n enters error passive. Where the transmit counter does not say so, the receive counter, whose value is free, is at least 128. -/
def enterPassive (s : State) (n tec : Nat) : State :=
  if !s.canServes n then s
  else
    let (k, s0) := s.draw
    let rec_ := if tec < 128 then 128 + Config.freeNat k % 128 else (s.can n).rxErr
    ((s0.updCan n fun c => { c with err := 1, txErr := tec, rxErr := rec_ }).raise 0x2013 1).fieldEmcy n 0x8120 tec

/-- Controller n is error active again: both counters, whose values are free, are below 128. -/
def leavePassive (s : State) (n : Nat) : State :=
  if !s.canServes n || (s.can n).err ≠ 1 then s
  else
    let (k, s0) := s.draw
    let (l, s1) := s0.draw
    emcyIfClear s (s1.updCan n fun c => { c with err := 0, txErr := Config.freeNat k % 128, rxErr := Config.freeNat l % 128 })

/-- A received frame is lost for want of buffer space. -/
def overrun (s : State) (n : Nat) : State :=
  if !s.canServes n then s else (s.raise 0x2013 2).passingEmcy n 0x8110 0

/-- Controller n goes bus-off. -/
def busOff (s : State) (n : Nat) : State :=
  if !s.canServes n then s
  else (s.updCan n fun c => { c with err := 2, txErr := 256 }).raise 0x2013 0

/-- Controller n recovers from bus-off. -/
def busOn (s : State) (n : Nat) : State :=
  if !s.serves || s.power.state < 3 || (s.can n).err ≠ 2 || s.faults.heldCans.contains n then s
  else ((s.updCan n fun c => { c with err := 0, txErr := 0, rxErr := 0 }).resetComm n).passingEmcy n 0x8140 0

end State

/-! ### The meanings -/

/-- NMT_START. -/
def execNmtStart (n : Fin 2) (s : State) : Host.Outcome State Fault Refusal := .next (s.nmtTo n.val 3)

/-- NMT_STOP. -/
def execNmtStop (n : Fin 2) (s : State) : Host.Outcome State Fault Refusal := .next (s.nmtTo n.val 4)

/-- NMT_ENTER_PRE_OPERATIONAL. -/
def execNmtEnterPreOperational (n : Fin 2) (s : State) : Host.Outcome State Fault Refusal := .next (s.nmtTo n.val 2)

/-- NMT_RESET_NODE. -/
def execNmtResetNode (n : Fin 2) (s : State) : Host.Outcome State Fault Refusal := .next (s.nmtReset n.val)

/-- NMT_RESET_COMMUNICATION. -/
def execNmtResetCommunication (n : Fin 2) (s : State) : Host.Outcome State Fault Refusal := .next (s.nmtReset n.val)

/-- SDO_DOWNLOAD. -/
def execSdoDownload (n : Fin 2) (e : Entry) (expedited : Bool) (size : Nat) (data : W64) (s : State) :
    Host.Outcome State Fault Refusal :=
  .next (s.sdoDownload n.val e.index.toNat e.sub.toNat expedited size data)

/-- SDO_UPLOAD. -/
def execSdoUpload (n : Fin 2) (e : Entry) (s : State) : Host.Outcome State Fault Refusal :=
  .next (s.sdoUpload n.val e.index.toNat e.sub.toNat false)

/-- SDO_SEGMENT. -/
def execSdoSegment (n : Fin 2) (toggle last : Bool) (data : List Byte) (s : State) : Host.Outcome State Fault Refusal :=
  .next (s.sdoSegment n.val toggle last data)

/-- SDO_BLOCK_DOWNLOAD. -/
def execSdoBlockDownload (n : Fin 2) (e : Entry) (data : List Byte) (crcOk : Bool) (s : State) : Host.Outcome State Fault Refusal :=
  .next (s.sdoBlockDownload n.val e.index.toNat e.sub.toNat data crcOk)

/-- SDO_BLOCK_UPLOAD. -/
def execSdoBlockUpload (n : Fin 2) (e : Entry) (s : State) : Host.Outcome State Fault Refusal :=
  .next (s.sdoUpload n.val e.index.toNat e.sub.toNat true)

/-- SDO_ABORT_TRANSFER: the client ends its transfer. -/
def execSdoAbortTransfer (n : Fin 2) (s : State) : Host.Outcome State Fault Refusal :=
  .next (if s.canServes n.val then s.setSdo n.val none else s)

/-- USDO_REQUEST. -/
def execUsdoRequest (n : Fin 2) (e : Entry) (write : Bool) (data : List Byte) (s : State) : Host.Outcome State Fault Refusal :=
  .next (s.usdo n.val e.index.toNat e.sub.toNat write data)

/-- SDO_TIMEOUT. -/
def execSdoTimeout (n : Fin 2) (s : State) : Host.Outcome State Fault Refusal := .next (s.sdoTimeout n.val)

/-- SYNC. -/
def execSync (n : Fin 2) (s : State) : Host.Outcome State Fault Refusal := .next (s.syncOn n.val)

/-- RPDO. -/
def execRpdo (n : Fin 2) (pdo : Fin 4) (data : List Byte) (s : State) : Host.Outcome State Fault Refusal :=
  .next (s.rpdoIn n.val pdo.val data)

/-- TPDO_CHANGE_CHECK. -/
def execTpdoChangeCheck (s : State) : Host.Outcome State Fault Refusal := .next ((List.range 8).foldl State.checkTpdo s)

/-- TPDO_EVENT_TIMER. -/
def execTpdoEventTimer (pdo : Fin 8) (s : State) : Host.Outcome State Fault Refusal := .next (s.tpdoTimer pdo.val)

/-- HEARTBEAT_PRODUCE. -/
def execHeartbeatProduce (n : Fin 2) (s : State) : Host.Outcome State Fault Refusal := .next (s.heartbeat n.val)

/-- HEARTBEAT_RECEIVED. -/
def execHeartbeatReceived (n : Fin 2) (node : BitVec 7) (s : State) : Host.Outcome State Fault Refusal :=
  .next (s.heartbeatFrom n.val node.toNat)

/-- HEARTBEAT_CONSUMER_TIMEOUT. -/
def execHeartbeatConsumerTimeout (consumer : Fin 4) (s : State) : Host.Outcome State Fault Refusal :=
  .next (s.heartbeatMissed consumer.val)

/-- EMCY_INHIBIT_EXPIRY. -/
def execEmcyInhibitExpiry (n : Fin 2) (s : State) : Host.Outcome State Fault Refusal := .next (s.emcyNext n.val)

/-- ERROR_PASSIVE. -/
def execErrorPassive (n : Fin 2) (tec : Byte) (s : State) : Host.Outcome State Fault Refusal := .next (s.enterPassive n.val tec.toNat)

/-- RX_OVERRUN. -/
def execRxOverrun (n : Fin 2) (s : State) : Host.Outcome State Fault Refusal := .next (s.overrun n.val)

/-- BUS_OFF. -/
def execBusOff (n : Fin 2) (s : State) : Host.Outcome State Fault Refusal := .next (s.busOff n.val)

/-- BUS_OFF_RECOVERY. -/
def execBusOffRecovery (n : Fin 2) (s : State) : Host.Outcome State Fault Refusal := .next (s.busOn n.val)

/-- CAN_ERROR_ACTIVE. -/
def execCanErrorActive (n : Fin 2) (s : State) : Host.Outcome State Fault Refusal := .next (s.leavePassive n.val)

end Sys2Proof.Machine
end

