-- ==== Sys2Proof/Machine/Commit.lean ====
section
/-! DEFINITION. The commit: the combination table over the staged configuration, and what an applied commit does (R317, Table 11-7, R422, R423, R379). -/

namespace Sys2Proof.Machine

/-- A failing row's pair of entries and its object. -/
abbrev Fail := Option (Nat × Nat × Nat)

namespace Commit

/-- The entry of object `n` under an index with one subindex for each object, encoded as `DomainEntry`. -/
def ent (i n : Nat) : Nat := i * 65536 + (n + 1) % 256 * 256

/-- The same for objects spread 128 to an index. -/
def entN (base n : Nat) : Nat := (base + n / 128) * 65536 + (n % 128 + 1) * 256

/-- The first of `n` objects that fails. -/
def first (n : Nat) (bad : Nat → Bool) (a b : Nat → Nat) : Fail :=
  (List.range n).findSome? fun k => if bad k then some (a k, b k, k) else none

/-- A row over one entry. -/
def one (ok : Bool) (e : Nat) : Fail := if ok then none else some (e, e, 0)

def rangeIn (lo hi v : Nat) : Bool := lo ≤ v && v ≤ hi

/-- Two ranges of non-zero size overlap. -/
def overlap (a n b m : Nat) : Bool := 0 < n && 0 < m && a < b + m && b < a + n

/-- The first object of which another one after it overlaps: the object and the other. -/
def clash (n : Nat) (f : Nat → Nat → Bool) : Option (Nat × Nat) :=
  (List.range n).findSome? fun i => ((List.range n).find? fun j => i < j && f i j).map fun j => (i, j)

end Commit

namespace State

open Commit

/-! ### Helpers over the candidate -/

/-- Partition p of the candidate exists and owns tiles. -/
def hasTiles (c : State) (p : Nat) : Bool := p < 128 && c.enabled p && c.tileCount p ≠ 0

/-- Partition p holds a loaded plan, or a context that is not FREE. -/
def holdsWork (s : State) (p : Nat) : Bool := !(s.part p).plans.isEmpty || !(s.openStreams p).isEmpty || !(s.openSeqs p).isEmpty

/-- Feed `f` runs. -/
def feedRuns (s : State) (f : Nat) : Bool := (s.feed f).stream.isSome

/-- [a, a + n) lies in the bonded window of partition p. -/
def holdsRange (c : State) (p a n : Nat) : Bool :=
  match region a with
  | some (.window o) => o + n ≤ c.windowBytes p
  | _ => false

/-- Frames of partition p that something other than its KV pool keeps pinned. -/
def otherPins (c : State) (p : Nat) : Nat :=
  ((c.part p).frames.filter fun x => match x.2 with
    | .empty | .filling _ | .kv => false
    | .page n _ => 0 < c.pinCount p n
    | _ => true).length

/-- The rows of two values that differ. -/
def differs (o c : State) (i sub : Nat) : Bool := o.rd i sub ≠ c.rd i sub

/-! ### Rows of partitions, tiles and memory -/

/-- The first of the things that R297 lists which partition p owns. -/
def ownedEntry (c : State) (p : Nat) : Option Nat :=
  let by_ (n base : Nat) : Option Nat := ((List.range n).find? fun k => c.rdn base (k + 1) = p).map (ent base)
  let own (i : Nat) : Option Nat := if c.rdn i (p + 1) ≠ 0 then some (ent i p) else none
  (if c.tileCount p ≠ 0 then some (ent 0x7011 p) else none) <|> own 0x7013 <|> own 0x7016 <|> own 0x7014 <|> own 0x4410 <|>
    own 0x5011 <|> own 0x5811 <|> by_ 16 0x6024 <|> by_ 8 0x6101 <|> by_ 2 0x6501 <|> by_ 8 0x6900

def badRect (c : State) (p : Nat) : Bool :=
  let (x, y, w, h) := c.rect p
  64 < x + w || 8 < y + h || (w = 0) ≠ (h = 0) || (1 ≤ w * h && w * h ≤ 3)

def rectsMeet (c : State) (p q : Nat) : Bool :=
  let a := c.rect p
  let b := c.rect q
  overlap a.1 a.2.2.1 b.1 b.2.2.1 && overlap a.2.1 a.2.2.2 b.2.1 b.2.2.2

def powerOfTwo (n : Nat) : Bool := (List.range 17).any fun k => n = 2 ^ k

def badRing (c : State) (p : Nat) : Bool :=
  let n := c.rdn 0x7018 (p + 1)
  let b := c.rdn 0x7017 (p + 1)
  (n ≠ 0 && !(powerOfTwo n && 64 ≤ n)) || b % 4096 ≠ 0 ||
  (n ≠ 0 && !(0x800000000000 ≤ b && b + 32 * n ≤ 0x1000000000000)) || (n = 0 && c.hasTiles p)

/-- Rows 0x7001 to 0x7008. -/
def rowsPartition (o c : State) : List (Nat × Fail) :=
  let pair (i j : Nat) (x : Option (Nat × Nat)) : Fail := x.map fun y => (ent i y.1, ent j y.2, y.1)
  [(0x7001, first 128 c.badRect (ent 0x7011) (ent 0x7011)),
   (0x7002, pair 0x7011 0x7011 (clash 128 c.rectsMeet)),
   (0x7003, (List.range 128).findSome? fun p =>
      if 256 < c.rdn 0x7012 (p + 1) + c.rdn 0x7013 (p + 1) then some (ent 0x7012 p, ent 0x7013 p, p)
      else if 256 < c.rdn 0x7015 (p + 1) + c.rdn 0x7016 (p + 1) then some (ent 0x7015 p, ent 0x7016 p, p) else none),
   (0x7004, (List.range 128).findSome? fun p =>
      if c.enabled p then none else (c.ownedEntry p).map fun e => (ent 0x7010 p, e, p)),
   (0x7005, first 128 (fun p => !c.enabled p && (o.holdsWork p || !(o.part p).work.isEmpty ||
      (List.range 8).any fun f => o.feedRuns f && o.feedPart f = p)) (ent 0x7010) (ent 0x701D)),
   (0x7006, (List.range 128).findSome? fun p =>
      if !o.holdsWork p then none
      else ([0x7011, 0x7012, 0x7013, 0x7014, 0x7015, 0x7016].find? fun i => differs o c i (p + 1)).map
        fun i => (ent i p, ent 0x701D p, p)),
   (0x7007, first 128 c.badRing (ent 0x7018) (ent 0x7017)),
   (0x7008, (List.range 128).findSome? fun p =>
      if 15 < c.rdn 0x701B (p + 1) then some (ent 0x701B p, ent 0x701B p, p)
      else if c.rdn 0x701C (p + 1) ≠ 0 && !rangeIn 100 1000000 (c.rdn 0x701C (p + 1)) then some (ent 0x701C p, ent 0x701C p, p)
      else none)]

/-- Rows 0x3001 to 0x3401: a layout is staged, the threshold, the statistics windows. -/
def rowsTiles (o c : State) : List (Nat × Fail) :=
  let pass (base cnt lim p : Nat) : Bool := c.rdn cnt (p + 1) ≠ 0 && lim < c.rdn base (p + 1) + c.rdn cnt (p + 1)
  let hits (base cnt p q : Nat) : Bool := overlap (c.rdn base (p + 1)) (c.rdn cnt (p + 1)) (c.rdn base (q + 1)) (c.rdn cnt (q + 1))
  [(0x3001, first 128 (fun p =>
      (o.part p).plans.any fun l => (c.placement p l.active).isNone) (ent 0x7011)
      (fun p => entN 0x3100 ((((o.part p).plans.head?).bind fun l => l.place.head?).getD 0))),
   (0x3002, one (c.rdn 0x3002 2 ≤ 16) (ent 0x3002 1)),
   (0x3401, (List.range 128).findSome? fun p =>
      if pass 0x3410 0x3411 4096 p then some (ent 0x3410 p, ent 0x3410 p, p)
      else ((List.range 128).find? fun q => p < q && hits 0x3410 0x3411 p q).map fun q => (ent 0x3410 p, ent 0x3410 q, p))]

/-- A channel or granule range that two partitions share. -/
def sharedRange (c : State) (p : Nat) : Option (Nat × Nat × Nat) :=
  ([0x7012, 0x7015].findSome? fun i =>
    ((List.range 128).find? fun q => p < q &&
      overlap (c.rdn i (p + 1)) (c.rdn (i + 1) (p + 1)) (c.rdn i (q + 1)) (c.rdn (i + 1) (q + 1))).map
      fun q => (ent i p, ent i q, p))

/-- Rows 0x4001 to 0x4008. -/
def rowsMemory (c : State) : List (Nat × Fail) :=
  [(0x4001, first 128 (fun p => c.hasTiles p && c.channelCount p = 0) (ent 0x7011) (ent 0x7013)),
   (0x4002, first 128 (fun p => 15 < c.ways p) (ent 0x7014) (ent 0x7014)),
   (0x4003, first 128 (fun p => c.hasTiles p && c.ways p = 0) (ent 0x7011) (ent 0x7014)),
   (0x4004, (List.range 128).findSome? c.sharedRange),
   (0x4005, first 128 (fun p => c.hasTiles p && c.weightFrames p < c.otherPins p + 16) (ent 0x4011) (ent 0x4012)),
   (0x4006, first 128 (fun p => (c.part p).plans.any fun l => !c.addressesOk p l.active) (ent 0x4010) (ent 0x4017)),
   (0x4007, one (rangeIn 1 168 (c.rdn 0x4002 1)) (ent 0x4002 0)),
   (0x4008, one (c.rdn 0x4002 2 ≠ 0) (ent 0x4002 1))]

/-- The two partitions with the most bedrock slots. -/
def largestSlots (c : State) : Nat × Nat :=
  let big (skip : Nat) : Nat := (List.range 128).foldl (fun b p =>
    if p = skip then b
    else if b = skip then p
    else if c.rdn 0x4410 (b + 1) < c.rdn 0x4410 (p + 1) then p else b) (if skip = 0 then 1 else 0)
  let a := big 128
  (a, big a)

/-- Rows 0x4401 to 0x4407. -/
def rowsBedrock (c : State) : List (Nat × Fail) :=
  let sum := ((List.range 128).map fun p => c.rdn 0x4410 (p + 1)).foldl (· + ·) 0
  let big := c.largestSlots
  [(0x4401, if 496 < sum then some (ent 0x4410 big.1, ent 0x4410 big.2, big.1) else none),
   (0x4402, first 128 (fun p => c.hasTiles p && c.rdn 0x4410 (p + 1) = 0) (ent 0x7011) (ent 0x4410)),
   (0x4403, one (rangeIn 10000 100000 (c.rdn 0x4402 1)) (ent 0x4402 0)),
   (0x4404, one (rangeIn 24 720 (c.rdn 0x4402 2)) (ent 0x4402 1)),
   (0x4405, one (rangeIn 1 200 (c.rdn 0x4402 3)) (ent 0x4402 2)),
   (0x4406, one (c.rdn 0x4402 4 ≤ 100) (ent 0x4402 3)),
   (0x4407, one (rangeIn 1 30 (c.rdn 0x4402 5)) (ent 0x4402 4))]

/-! ### Rows of streams and sequences -/

/-- Berths of group g that the check counts: `GroupActiveMax`, or up to the highest berth still held (R153). -/
def berthsOf (o c : State) (g : Nat) : Nat :=
  (o.groupStreams g).foldl (fun n x => match (o.stream x).berth with
    | some k => max n (k + 1)
    | none => n) (c.rdn 0x5104 (g + 1))

/-- The group is bound and its record is there. -/
def hasParams (c : State) (g : Nat) : Bool := !(c.params g).isEmpty

/-- Rows 0x5001 to 0x500B. -/
def rowsStreams (o c : State) : List (Nat × Fail) :=
  let r (g : Nat) : List Byte := c.params g
  let p (g : Nat) : Nat := c.groupPart g
  let bad (f : Nat → Bool) (a b : Nat → Nat) : Fail := first 64 (fun g => c.hasParams g && f g) a b
  let plan (g : Nat) : Nat := ent 0x5102 g
  let size (g : Nat) : Nat := berthsOf o c g * Params.berth (r g)
  [(0x5001, (List.range 128).findSome? fun q =>
      let n := c.streamCount q
      if (n ≠ 0 && 16384 < c.streamBase q + n) ||
          (List.range 128).any (fun t => q < t && overlap (c.streamBase q) n (c.streamBase t) (c.streamCount t)) then
        some (ent 0x5010 q, ent 0x5011 q, q) else none),
   (0x5002, first 64 (fun g => p g ≠ 0xFF && (!c.hasTiles (p g) || !c.hasParams g)) (ent 0x5100) plan),
   (0x5003, bad (fun g => !Params.ok (r g)) plan plan),
   (0x5004, bad (fun g => 8160 < Params.payload (r g)) plan plan),
   (0x5005, bad (fun g => !(c.holdsRange (p g) (Params.inBase (r g)) (Params.batch (r g) * Params.inLane (r g)) &&
      c.holdsRange (p g) (Params.outBase (r g)) (Params.batch (r g) * Params.outLane (r g)))) plan (fun g => ent 0x4010 (p g))),
   (0x5006, bad (fun g => c.rdn 0x5104 (g + 1) < Params.batch (r g)) (ent 0x5104) plan),
   (0x5007, bad (fun g => c.sliceBytes (p g) < Params.laneBase (r g) + size g) (ent 0x5104) (fun g => ent 0x4017 (p g))),
   (0x5008, (clash 64 fun g h => c.hasParams g && c.hasParams h && p g = p h &&
      overlap (Params.laneBase (r g)) (size g) (Params.laneBase (r h)) (size h)).map
        fun (x : Nat × Nat) => (ent 0x5104 x.1, ent 0x5104 x.2, x.1)),
   (0x5009, first 64 (fun g => !rangeIn 100 1000000 (c.rdn 0x5103 (g + 1))) (ent 0x5103) (ent 0x5103)),
   (0x500A, ((List.range 64).findSome? fun g => match o.groupStreams g with
        | [] => none
        | n :: _ => ([0x5100, 0x5101, 0x5102].find? fun i => differs o c i (g + 1)).map fun i => (ent i g, entN 0x5200 n, g)) <|>
      ((List.range 128).findSome? fun q => match o.openStreams q with
        | [] => none
        | n :: _ => ([0x5010, 0x5011].find? fun i => differs o c i (q + 1)).map fun i => (ent i q, entN 0x5200 n, q))),
   (0x500B, one (rangeIn 1 3600 (c.rdn 0x5002 1)) (ent 0x5002 0))]

/-- Channel k's TDM binding is judged at every commit (R156, R185). -/
def tdmJudged (c : State) (k : Nat) : Bool := c.tdmStream k ≠ 0xFFFF

/-- The stream parameter record of the group that channel k's stream is in; empty for a stream in no group. -/
def tdmParams (c : State) (k : Nat) : List Byte :=
  let x := c.stream (c.tdmStream k)
  if x.state = .free then [] else c.params x.group

/-- Sample rate of a TDM port's code. -/
def tdmHz (code : Nat) : Nat := if code = 1 then 8000 else if code = 2 then 16000 else if code = 3 then 32000 else 48000

/-- Rows 0x5501 to 0x5506. -/
def rowsTdm (c : State) : List (Nat × Fail) :=
  let port (k : Nat) : Nat := ent 0x5500 (k / 8)
  let bad (f : Nat → Bool) : Fail := first 16 (fun k => tdmJudged c k && f k) (ent 0x5510) port
  [(0x5501, bad fun k => (c.tdmParams k).isEmpty || Params.kind (c.tdmParams k) ≠ 1),
   (0x5502, bad fun k => c.tdmRate (k / 8) ≠ 0 && Params.rate (c.tdmParams k) ≠ tdmHz (c.tdmRate (k / 8))),
   (0x5503, bad fun k => c.tdmRate (k / 8) = 0),
   (0x5504, bad fun k => (List.range 16).any fun j => j ≠ k && c.tdmStream j = c.tdmStream k),
   (0x5505, first 2 (fun k =>
      let v := c.rdn 0x5500 (k + 1)
      4 < bits v 19 16 || 1 < bits v 5 4 || 1 < bits v 3 2 || (bits v 3 2 = 1 && bits v 5 4 = 0)) (ent 0x5500) (ent 0x5500)),
   (0x5506, first 16 (fun k => !rangeIn 1 16384 (c.rdn 0x5511 (k + 1))) (ent 0x5511) (ent 0x5511))]

/-- Rows 0x5801 to 0x5804. -/
def rowsSeqs (o c : State) : List (Nat × Fail) :=
  [(0x5801, (List.range 128).findSome? fun q =>
      let n := c.seqCount q
      if (n ≠ 0 && 4096 < c.seqBase q + n) ||
          (List.range 128).any (fun t => q < t && overlap (c.seqBase q) n (c.seqBase t) (c.seqCount t)) then
        some (ent 0x5810 q, ent 0x5811 q, q) else none),
   (0x5802, first 128 (fun p => c.seqCount p ≠ 0 && !c.hasTiles p) (ent 0x5811) (ent 0x7011)),
   (0x5803, first 128 (fun p => c.rdn 0x5812 (p + 1) ≠ 0 && c.weightFrames p < c.rdn 0x5812 (p + 1) + c.otherPins p + 16)
      (ent 0x5812) (ent 0x4011)),
   (0x5804, (List.range 128).findSome? fun p => match o.openSeqs p with
      | [] => none
      | q :: _ => ([0x5810, 0x5811, 0x5812].find? fun i => differs o c i (p + 1)).map fun i => (ent i p, entN 0x5900 q, p))]

/-! ### Rows of cameras and edge engines -/

/-- Virtual channels of a binding. -/
def bindingChannels (x : SensorCfg) : List Nat :=
  (List.range (if x.staggered then 1 else x.exposures)).map fun e => x.vc + e

/-- Offsets of `StaggerLines` that the binding uses. -/
def staggerOffsets (c : State) (n : Nat) : List Nat :=
  let v := c.rdn 0x6022 (n + 1)
  [v % 256, v / 256].take ((c.sensorCfg n).exposures - 1)

/-- A binding breaks R221, R222 or the stagger limit. -/
def badBinding (c : State) (n : Nat) : Bool :=
  let x := c.sensorCfg n
  let bound (m : Nat) : Bool := (c.sensorCfg m).exposures ≠ 0 && (c.sensorCfg m).port = x.port
  let offs := c.staggerOffsets n
  x.exposures ≠ 0 &&
  (4 < ((List.range 16).filter bound).length ||
   (bindingChannels x).any (fun v => 15 < v) ||
   ((List.range 16).any fun m => m ≠ n && bound m &&
      (bindingChannels x).any fun v => (bindingChannels (c.sensorCfg m)).contains v) ||
   (x.staggered && ((x.types.drop 1).take (x.exposures - 1)).any fun t => !rangeIn 0x30 0x37 t) ||
   (offs.length = 2 && (offs[1]?).getD 0 < (offs[0]?).getD 0) ||
   1048576 < offs.foldl max 0 * (x.exposures - 1) * x.width * 3)

def sensorBound (c : State) (n : Nat) : Bool := (c.sensorCfg n).exposures ≠ 0
def pipeSource (c : State) (k : Nat) : Nat := c.rdn 0x6100 (k + 1)
def pipeLive (c : State) (k : Nat) : Bool := c.pipeSource k < 16
def pipeOn (c : State) (k : Nat) : Bool := c.pipeSource k ≠ 0xFF

/-- Planes that pipeline k writes, and bytes of an element (R237). -/
def pipePlanes (c : State) (k : Nat) : Nat :=
  if bits (c.rdn 0x6104 (k + 1)) 13 12 = 2 || (c.pipeLive k && (c.sensorCfg (c.pipeSource k)).cfa = 4) then 1 else 3
def pipeElem (c : State) (k : Nat) : Nat := if 2 ≤ bits (c.rdn 0x6104 (k + 1)) 19 16 then 2 else 1

/-- The crop leaves the frame, the output exceeds the crop, or the box ratios break R236. -/
def badCrop (c : State) (k : Nat) : Bool :=
  let x := c.pipeCfg k
  let f := c.sensorCfg (c.pipeSource k)
  let box (a b : Nat) : Bool := !((List.range 16).any fun n => a = (n + 1) * b)
  c.pipeOn k &&
  ((c.pipeLive k && (f.width < x.cropX + x.cropW || f.height < x.cropY + x.cropH)) ||
   x.cropW < x.outW || x.cropH < x.outH || (bit x.control 5 && (box x.cropW x.outW || box x.cropH x.outH)))

/-- The first stride of pipeline k that is wrong. -/
def badStride (c : State) (k : Nat) : Option Nat :=
  let x := c.pipeCfg k
  if !c.pipeOn k then none
  else if x.lineStride % 64 ≠ 0 || x.lineStride < x.outW * c.pipeElem k then some (ent 0x6108 k)
  else if x.planeStride < x.outH * x.lineStride then some (ent 0x6107 k)
  else if x.bufStride < c.pipePlanes k * x.planeStride then some (ent 0x6106 k)
  else none

/-- Reserved values and ranges of entries `6000` to `6310`. -/
def badImageField (c : State) : Fail :=
  let at_ (n i : Nat) (ok : Nat → Bool) : Fail := first n (fun k => !ok (c.rdn i (k + 1))) (ent i) (ent i)
  let part (v : Nat) : Bool := v < 128 || v = 0xFF
  at_ 1 0x6002 (rangeIn 1 64) <|> at_ 4 0x6010 (fun v => bits v 2 1 ≠ 3) <|>
  at_ 16 0x6020 (fun v => bits v 15 12 ≤ 4 && (bits v 23 22 = 0 || rangeIn 0x2A 0x2F (bits v 7 0))) <|>
  at_ 16 0x6024 part <|> at_ 16 0x6026 (rangeIn 1 7) <|> at_ 16 0x6027 (rangeIn 1000 1000000) <|>
  at_ 16 0x6029 (fun v => v ≤ 16) <|> at_ 8 0x6100 (fun v => v ≤ 16 || v = 0xFF) <|> at_ 8 0x6101 part <|>
  at_ 8 0x6104 (fun v => bits v 19 16 ≤ 3 && bits v 13 12 ≠ 3 && bits v 9 8 ≠ 3) <|>
  at_ 8 0x6109 (rangeIn 1 16) <|> at_ 8 0x610C (rangeIn 1 4096) <|> at_ 4 0x6300 (fun v => v ≤ 2)

/-- A defect list has more than 4 096 entries, or is not in ascending order. -/
def badDefects (c : State) (n : Nat) : Bool :=
  let d := c.dmn [] 0x6041 (n + 1)
  let es := (List.range (d.length / 4)).map fun i => field d (4 * i) 4
  4096 < es.length || (es.zip es.tail).any fun x => x.2 ≤ x.1

/-- Rows 0x6001 to 0x600B. -/
def rowsImage (c : State) : List (Nat × Fail) :=
  let part (k : Nat) : Nat := c.rdn 0x6101 (k + 1)
  let sen (k : Nat) : Nat := c.pipeSource k
  let win (p : Nat) : Nat := ent 0x4010 p
  let raw (n : Nat) : Nat :=
    let x := c.sensorCfg n
    64 + x.exposures * x.height * rawLine x
  [(0x6001, first 16 c.badBinding (ent 0x6020) (ent 0x6022)),
   (0x6002, first 16 (fun n => c.sensorBound n && ((c.sensorCfg n).width % 2 = 1 || !rangeIn 16 8192 (c.sensorCfg n).width ||
      !rangeIn 16 16383 (c.sensorCfg n).height)) (ent 0x6023) (ent 0x6023)),
   (0x6003, (clash 8 fun k j => c.pipeLive k && sen k = sen j).map fun (x : Nat × Nat) => (ent 0x6100 x.1, ent 0x6100 x.2, x.1)),
   (0x6004, first 8 (fun k => c.pipeLive k && part k ≠ c.rdn 0x6024 (sen k + 1)) (ent 0x6101) (fun k => ent 0x6024 (sen k))),
   (0x6005, first 8 (fun k => c.pipeOn k && (128 ≤ part k || c.channelCount (part k) = 0)) (ent 0x6101) (fun k => ent 0x7013 (part k))),
   (0x6006, first 8 c.badCrop (ent 0x6102) (ent 0x6103)),
   (0x6007, (List.range 8).findSome? fun k => (c.badStride k).map fun e => (e, ent 0x6103 k, k)),
   (0x6008, ((List.range 8).findSome? fun k =>
        let x := c.pipeCfg k
        if !c.pipeOn k then none
        else if !c.holdsRange x.part x.base (x.buffers * x.bufStride) then some (ent 0x6105 k, win x.part, k)
        else if !c.holdsRange x.part x.statsBase ((x.buffers - 1) * 8192 + 6464) then some (ent 0x610A k, win x.part, k)
        else none) <|>
      first 16 (fun n => c.sensorBound n && (c.sensorCfg n).rawSlots ≠ 0 && !c.holdsRange (c.sensorCfg n).part (c.sensorCfg n).rawBase
        ((c.sensorCfg n).rawSlots * (c.sensorCfg n).rawSlotBytes)) (ent 0x6028) (fun n => win (c.sensorCfg n).part)),
   (0x6009, first 16 (fun n => c.sensorBound n && (c.sensorCfg n).rawSlots ≠ 0 && (c.sensorCfg n).rawSlotBytes < raw n)
      (ent 0x602A) (ent 0x6023)),
   (0x600A, c.badImageField),
   (0x600B, first 16 c.badDefects (ent 0x6041) (ent 0x6041))]

/-- The first address entry of live engine e that leaves its partition. -/
def badEdgeAddr (c : State) (e : Nat) : Option Nat :=
  let rd (i : Nat) : Nat := c.rdn i (e + 1)
  let p := rd 0x6501
  if 8 ≤ rd 0x6500 then none
  else if !c.holdsRange p (rd 0x6503) (rd 0x6507 * rd 0x6504) then some (ent 0x6503 e)
  else if !c.holdsRange p (rd 0x6502) 64 then some (ent 0x6502 e)
  else if !(0x800000000000 ≤ rd 0x6508 && rd 0x6508 + 32 * rd 0x6509 ≤ 0x1000000000000) then some (ent 0x6508 e)
  else none

/-- Rows 0x6401 to 0x6408. -/
def rowsEdge (c : State) : List (Nat × Fail) :=
  let src (e : Nat) : Nat := c.rdn 0x6500 (e + 1)
  let part (e : Nat) : Nat := c.rdn 0x6501 (e + 1)
  let live (e : Nat) : Bool := src e < 8
  [(0x6401, first 2 (fun e => !(live e || src e = 0x10 || src e = 0xFF)) (ent 0x6500) (ent 0x6500)),
   (0x6402, if live 0 && src 0 = src 1 then some (ent 0x6500 0, ent 0x6500 1, 0) else none),
   (0x6403, first 2 (fun e => live e && part e ≠ c.rdn 0x6101 (src e + 1)) (ent 0x6501) (fun e => ent 0x6101 (src e))),
   (0x6404, first 2 (fun e => live e && 2 ≤ bits (c.rdn 0x6104 (src e + 1)) 19 16) (ent 0x6500) (fun e => ent 0x6104 (src e))),
   (0x6405, first 2 (fun e => src e ≠ 0xFF && (128 ≤ part e || c.channelCount (part e) = 0)) (ent 0x6501) (fun e => ent 0x7013 (part e))),
   (0x6406, (List.range 2).findSome? fun e => (c.badEdgeAddr e).map fun x => (x, x, e)),
   (0x6407, (List.range 2).findSome? fun e =>
      if !rangeIn 1 16 (c.rdn 0x6507 (e + 1)) then some (ent 0x6507 e, ent 0x6507 e, e)
      else if !rangeIn 1 4096 (c.rdn 0x6509 (e + 1)) then some (ent 0x6509 e, ent 0x6509 e, e) else none),
   (0x6408, (List.range 2).findSome? fun e =>
      if 128 ≤ part e && part e ≠ 0xFF then some (ent 0x6501 e, ent 0x6501 e, e)
      else if c.rdn 0x6506 (e + 1) % 64 ≠ 0 then some (ent 0x6506 e, ent 0x6506 e, e) else none)]

/-! ### Rows of listening -/

/-- Listening microphone of channel i: repeated, absent from its port's mask, or on a port without ENABLE. -/
def badListen (c : State) (i : Nat) : Bool :=
  let m := c.rdn 0x6830 (i + 1)
  let port := c.rdn 0x6810 (m / 8 + 1)
  m ≠ 0xFF && (32 ≤ m || !bit port 0 || !bit port (16 + m % 8) || (List.range 8).any fun j => j ≠ i && c.rdn 0x6830 (j + 1) = m)

def feedUsed (c : State) (f : Nat) : Bool := c.feedPart f < 128

/-- Rate of a feed in Hz: 16 kHz from the ring, or the rate of its first microphone's port. -/
def portHz (c : State) (m : Nat) : Nat :=
  let r := bits (c.rdn 0x6810 (m / 8 + 1)) 9 8
  if r = 0 then 8000 else if r = 1 then 16000 else if r = 2 then 32000 else 48000
def feedHz (c : State) (f : Nat) : Nat := if c.preroll f then 16000 else ((c.feedMics f).head?).elim 0 c.portHz

/-- The record of a feed's group. -/
def feedParams (c : State) (f : Nat) : List Byte := ((c.feedGroup f).map c.params).getD []
def feedPlan (c : State) (f : Nat) : Nat := ent 0x5102 ((c.feedGroup f).getD 0)

def badFeedGroup (c : State) (f : Nat) : Bool :=
  let r := c.feedParams f
  c.feedUsed f && !r.isEmpty && (Params.rate r ≠ c.feedHz f || Params.channels r ≠ (c.feedMics f).length ||
    Params.lookFrames r ≠ 0 || 32704 < Params.samples r (Params.chunkFrames r * Params.hop r))

/-- The plan of the stage 1 group in its model, with the pages of its image and of what it pins (R103). -/
def stage1Bad (c : State) : Option (Nat × Nat × Nat) :=
  let f := c.rdn 0x6850 2
  if 8 ≤ f then none
  else match c.feedGroup f, c.sentinel with
    | some g, some p => match c.modelPlan (c.groupModel g) (c.groupPlan g) with
      | none => none
      | some e =>
        let pl := parsePlan (c.planImage (c.groupModel g) e)
        let pins := ((pl.hints.filter fun h => h.kind = 2).map HintRec.pageCount).foldl (· + ·) 0
        if 0x100000 < e.bytes || c.rdn 0x4410 (p + 1) < pagesOf e.bytes + pins then
          some (ent 0x5102 g, ent 0x4410 p, g) else none
    | _, _ => none

/-- Rows 0x6801 to 0x680F. Row 0x6802 never fails: each code of Rate and each value of MicMask has a meaning (Table 10-11), and a reserved bit takes no write (R6). -/
def rowsAudio (o c : State) : List (Nat × Fail) :=
  let f1 := c.rdn 0x6850 2
  let f2 := c.rdn 0x6850 6
  let window (k : Nat) : Bool := rangeIn 100 60000 (c.rdn 0x6850 k)
  let payload (f : Nat) : Nat := ceil64 (32 + Params.payload (c.feedParams f))
  [(0x6801, first 8 c.badListen (ent 0x6830) (fun i => ent 0x6810 (min 3 (c.rdn 0x6830 (i + 1) / 8)))),
   (0x6802, none),
   (0x6803, one (c.rdn 0x6802 1 % 25 = 0 && rangeIn 25 200 (c.rdn 0x6802 1)) (ent 0x6802 0)),
   (0x6804, one (c.rdn 0x6802 2 ≤ 100000) (ent 0x6802 1)),
   (0x6805, first 32 (fun m => !rangeIn 0x10 0x1000 (c.rdn 0x6820 (m + 1))) (ent 0x6820) (ent 0x6820)),
   (0x6806, one (rangeIn 1 100 (c.rdn 0x6840 4)) (ent 0x6840 3) <|> one (c.rdn 0x6840 5 ≤ 60000) (ent 0x6840 4) <|>
      one (window 3) (ent 0x6850 2) <|> one (window 7) (ent 0x6850 6)),
   (0x6807, (List.range 8).findSome? fun f =>
      if !c.feedUsed f then none
      else match (List.range 8).find? fun g => f < g && c.feedUsed g && c.feedPart f = c.feedPart g && c.feedStream f = c.feedStream g with
        | some g => some (ent 0x6901 f, ent 0x6901 g, f)
        | none =>
          let ms := c.feedMics f
          if !ms.Nodup || (!c.preroll f && ms.any fun m => c.portHz m ≠ c.feedHz f) then some (ent 0x6902 f, ent 0x6902 f, f) else none),
   (0x6808, first 8 c.badFeedGroup (ent 0x6902) c.feedPlan),
   (0x6809, first 8 (fun f => c.feedUsed f && !(c.feedParams f).isEmpty &&
      !c.holdsRange (c.feedPart f) (c.rdn 0x6903 (f + 1)) (c.rdn 0x6904 (f + 1) * payload f)) (ent 0x6903) (fun f => ent 0x4010 (c.feedPart f))),
   (0x680A, first 8 (fun f => c.cascadeFeed f && (!c.preroll f || (!(c.feedParams f).isEmpty && Params.kind (c.feedParams f) ≠ 0)))
      (ent 0x6905) c.feedPlan),
   (0x680B, if f1 < 8 && (f1 = f2 || (f2 < 8 && c.feedUsed f1 && c.feedPart f1 = c.feedPart f2)) then
      some (ent 0x6850 1, ent 0x6850 5, 0) else none),
   (0x680C, if f1 < 8 then (c.feedGroup f1).bind fun g =>
      if 2000 < c.rdn 0x5103 (g + 1) then some (ent 0x5103 g, ent 0x6850 1, g) else none else none),
   (0x680D, c.stage1Bad),
   (0x680E, c.sentinel.bind fun p => if c.tileCount p ≠ 4 || c.channelCount p ≠ 1 then some (ent 0x7011 p, ent 0x7013 p, p) else none),
   (0x680F, (List.range 8).findSome? fun f =>
      if !o.feedRuns f then none
      else if o.preroll f && (List.range 8).any (fun i => differs o c 0x6830 (i + 1)) then
        some (ent 0x6830 (((List.range 8).find? fun i => differs o c 0x6830 (i + 1)).getD 0), ent 0x6907 f, f)
      else ([0x6902, 0x6900, 0x6901].find? fun i => differs o c i (f + 1)).map fun i => (ent i f, ent 0x6907 f, f))]

/-- Rows 0x2101, 0x8001 and 0x8002. -/
def rowsRest (c : State) : List (Nat × Fail) :=
  let v := c.rdn 0x8002 3
  [(0x2101, one (rangeIn 50 60000 (c.rdn 0x2100 1)) (ent 0x2100 0)),
   (0x8001, one (rangeIn 8000 220000 (c.rdn 0x8002 2)) (ent 0x8002 1)),
   (0x8002, one (([1, 2, 3].all fun k => [bits v 5 4, bits v 3 2, bits v 1 0].contains k)) (ent 0x8002 2))]

/-- The combination table: its first failing row. -/
def combination (o c : State) : Option (Nat × Nat × Nat × Nat) :=
  (rowsPartition o c ++ rowsTiles o c ++ rowsMemory c ++ rowsBedrock c ++ rowsStreams o c ++ rowsTdm c ++ rowsSeqs o c ++
    rowsImage c ++ rowsEdge c ++ rowsAudio o c ++ rowsRest c).findSome? fun x => x.2.map fun y => (x.1, y)

/-! ### An applied commit -/

/-- The running configuration with the snapshot's values. -/
def candidateOf (s : State) (x : Snapshot) : State :=
  { s with
    od := x.vals.foldl (fun m (e : Nat × Option W64) => match e.2 with
      | some v => NMap.set Od.default m e.1 v
      | none => m) s.od
    dom := x.doms.foldl (fun m (e : Nat × Option (List Byte)) => match e.2 with
      | some v => NMap.insert e.1 v m
      | none => m) s.dom }

/-- The snapshot's entries leave the staged set, but those staged again since. -/
def unstage (s : State) (x : Snapshot) : State :=
  { s with staged := s.staged.filter fun e => x.later.contains e.1 || !(NMap.keys x.vals).contains e.1
           stagedDom := s.stagedDom.filter fun e => x.later.contains e.1 || !(NMap.keys x.doms).contains e.1
           snap := none }

/-- Units whose owner changes are cleared; accesses to them wait (R379). -/
def clearMoved (o s : State) : State :=
  let chans := (List.finRange 256).filter fun c => o.channelOwner c.val ≠ s.channelOwner c.val
  let grans := (List.finRange 256).filter fun g => o.granuleOwner g.val ≠ s.granuleOwner g.val
  let tiles := (List.finRange 512).filter fun n => o.tileOwner n.val ≠ s.tileOwner n.val
  let s1 := chans.foldl (fun s c => s.clearChannel c.val) s
  let s2 := grans.foldl (fun s g => s.clearGranule g.val) s1
  let s3 := tiles.foldl (fun s n => s.clearTile n.val) s2
  let us := chans.map ClearUnit.channel ++ grans.map ClearUnit.granule ++ tiles.map ClearUnit.tile
  s3.updMem fun m => { m with clearing := (m.clearing.filter fun u => !us.contains u) ++ us }

/-- The KV pool of partition p takes its frames: weight pages in them are evicted, pinned or not, and what else they hold moves to other frames (R194). Pool pages that an error has taken out stay out until the next start (R214). -/
def settlePool (s : State) (p : Nat) : State :=
  let k := s.rdn 0x5812 (p + 1)
  let low := (s.part p).frames.filter fun x => x.1 < k
  let high := (s.part p).frames.filter fun x => !(decide (x.1 < k))
  let s1 := (s.updPart p fun x => { x with frames := high.filter fun y => match y.2 with | .kv => false | _ => true }).setPool p { Pool.empty with bad := (s.pool p).bad }
  low.foldl (fun s (x : Nat × FrameUse) =>
    match x.2 with
    | .kv | .empty | .page _ _ => s
    | u => match s.victim p with
      | some f => (s.setFrame p f u).updPart p fun y =>
          let ms := y.migrations.map fun m => if m.frame = some x.1 then { m with frame := some f } else m
          { y with migrations := ms }
      | none => s) s1

/-- What changes in a partition's own state. -/
def settlePart (o : State) (s : State) (p : Nat) : State :=
  let s1 := if differs o s 0x7012 (p + 1) || differs o s 0x7013 (p + 1) || differs o s 0x7014 (p + 1) then
      s.updPart p fun x => { x with frames := [], migrations := [] } else s
  let s2 := if differs o s1 0x5812 (p + 1) then s1.settlePool p else s1
  if o.enabled p && !s2.enabled p then s2.updPart p fun x => { Part.empty with fenced := x.fenced, waiting := x.waiting } else s2

/-- The partition whose window holds statistics set n (R83). -/
def statOwner (s : State) (n : Nat) : Option Nat :=
  (List.range 128).find? fun p => s.rdn 0x3410 (p + 1) ≤ n && n < s.rdn 0x3410 (p + 1) + s.rdn 0x3411 (p + 1)

/-- Statistics sets whose owner changes are cleared (R84). -/
def clearStats (o s : State) : State := { s with stats := s.stats.filter fun x => o.statOwner x.1 = s.statOwner x.1 }

/-- What an applied commit starts. -/
def settleAll (o s : State) : State :=
  let s1 := (List.range 128).foldl (settlePart o) (clearStats o (clearMoved o s))
  let s2 := (List.range 16).foldl (fun s c => if differs o s 0x5510 (c + 1) then s.setTdm c ⟨[], false, s.time⟩ else s) s1
  let s3 := (List.range 64).foldl (fun s g =>
    let t := if [0x5100, 0x5101, 0x5102].any (fun i => differs o s i (g + 1)) then (s.setGroup g Group.idle).wrn 0x510A (g + 1) 0 else s
    if t.rdn 0x5104 (g + 1) < o.rdn 0x5104 (g + 1) then t.retireBerths g else t) s2
  let s4 := if (List.range 128).any (fun p => differs o s3 0x4410 (p + 1)) then s3.placeBedrock else s3
  let s5 := if differs o s4 0x6840 1 || differs o s4 0x6840 2 then s4.updAudio fun a => { a with loadDue := true } else s4
  let s6 := if differs o s5 0x2100 1 && s5.lease ≠ 0 then s5.startPeriod s5.time else s5
  if differs o s6 0x3002 2 && s6.sparesRemaining ≤ s6.rdn 0x3002 2 then s6.raise 0x3001 2 else s6

/-- Evaluation ends: the snapshot takes effect at one instant, or is rejected (R422, R423). -/
def evaluate (s : State) : State :=
  match s.snap with
  | none => s
  | some x =>
    let c := s.candidateOf x
    match combination s c with
    | some (code, a, b, n) =>
      (((((({ s with snap := none }).wrn 0xF000 2 3).wrn 0xF000 3 code).wrn 0xF000 4 a).wrn 0xF000 5 b).wrn 0xF000 6 n).raise 0xF002 2
    | none => (((settleAll s (c.unstage x)).wrn 0xF000 2 2).bump32 0xF000 8 1).wrn 0xF000 9 s.time

end State

/-- COMMIT_EVALUATED. -/
def execCommitEvaluated (s : State) : Host.Outcome State Fault Refusal :=
  .next (if s.serves && !s.link.restarting.contains 1 then s.evaluate else s)

end Sys2Proof.Machine
end

