-- ==== Sys2Proof/Machine/Firmware.lean ====
section
/-! DEFINITION. Loading Virkin, live update, the DOE mailbox, component restarts, and Bus Master Enable (R391, R398 to R400, R404 to R407, Tables 15-6 to 15-14). -/

namespace Sys2Proof.Machine

/-! ### The image (Table 15-8, R400 step 1) -/

namespace Virkin

/-- Entries of the section table in use: offset and bytes. -/
def sections (b : List Byte) : List (Nat × Nat) :=
  ((List.range 8).filter fun k => field b (0x40 + 16 * k) 1 ≠ 0xFF).map fun k => (field b (0x44 + 16 * k) 4, field b (0x48 + 16 * k) 4)

/-- Every entry names a processor, the shared target or none, with its reserved bytes zero. -/
def targetsOk (b : List Byte) : Bool :=
  (List.range 8).all fun k =>
    (field b (0x40 + 16 * k) 1 ≤ 4 || field b (0x40 + 16 * k) 1 = 0xFF) && allZero (slice b (0x41 + 16 * k) 3) && allZero (slice b (0x4C + 16 * k) 4)

/-- End of the last section; of the header where there is none. -/
def sectionsEnd (b : List Byte) : Nat := ((sections b).map fun x => x.1 + x.2).foldl max 256

def sectionsOk (b : List Byte) (n : Nat) : Bool :=
  let xs := sections b
  (xs.all fun x => 256 ≤ x.1 && x.1 + x.2 ≤ n - 3312) &&
  (List.range xs.length).all fun i => (List.range xs.length).all fun j =>
    !(decide (i < j)) || !Commit.overlap ((xs[i]?).getD (0, 0)).1 ((xs[i]?).getD (0, 0)).2 ((xs[j]?).getD (0, 0)).1 ((xs[j]?).getD (0, 0)).2

/-- Step 1: the image is well formed, and the stepping, letter 2, is accepted. -/
def formatOk (b : List Byte) (req : Nat) : Bool :=
  let n := field b 8 4
  let pad := n - 3312 - sectionsEnd b
  req = n && field b 0 4 = 0x4E4B5256 && field b 4 2 = 0x0100 && field b 6 2 = 0x0100 &&
  65536 ≤ n && n ≤ 33554432 && n % 64 = 0 && field b 0x12 2 < 2 && allZero (slice b 0x1E 2) && allZero (slice b 0x34 12) &&
  allZero (slice b 0xC0 64) && targetsOk b && sectionsOk b n && pad < 64 && allZero (slice b (sectionsEnd b) pad) &&
  allZero (slice b (n - 3) 3) && bit (field b 0x14 4) (State.revision / 65536)

/-- Step 2: the signature verifies under the Silaux firmware key. -/
def authentic (b : List Byte) : Bool :=
  Config.mlDsaVerify Config.firmwareKey (b.take (b.length - 3312)) (slice b (b.length - 3312) 3309)

/-- What the model keeps of an image. -/
def parse (b : List Byte) : Image :=
  { version := BitVec.ofNat 32 (field b 0xC 4), secVersion := BitVec.ofNat 16 (field b 0x10 2), raiseFloor := bit (field b 0x12 2) 0
    handoffWrite := field b 0x18 2, features := BitVec.ofNat 64 (field b 0x20 8)
    ifaces := (List.range 6).map fun i => BitVec.ofNat 16 (field b (0x28 + 2 * i) 2), digest := (Config.shake256 b 32).take 32 }

end Virkin

namespace State

/-- Active interfaces have the same major and at least the same minor in the image. -/
def ifacesCovered (s : State) (i : Image) : Bool :=
  [0, 1, 2, 3, 4, 5].all fun n =>
    let a := s.rdn 0x2204 (n + 1)
    let v := ((i.ifaces[n]?).getD 0).toNat
    a = 0 || (v / 256 = a / 256 && a % 256 ≤ v % 256)

/-- Step 4, for UPDATE only. With no image running there is no hand-off to match. -/
def compatible (s : State) (b : List Byte) (i : Image) : Bool :=
  match s.link.image with
  | none => false
  | some run =>
    !s.without 8 && field b 0x1A 2 ≤ run.handoffWrite && run.handoffWrite ≤ field b 0x1C 2 &&
    (i.features &&& s.rd 0x2201 3) = s.rd 0x2201 3 && s.ifacesCovered i

/-- The checks of R400 over a fetched image: 0, or the status of the first that fails. -/
def judgeImage (s : State) (update : Bool) (req : Nat) (b : List Byte) : Nat :=
  let i := Virkin.parse b
  if !Virkin.formatOk b req then 2
  else if !Virkin.authentic b then 4
  else if i.secVersion.toNat < s.securityFloor then 5
  else if update && !s.compatible b i then 6
  else 0

/-- The DOE response of a load, with the running image's version and digest; its status goes into `LastLoadStatus` (R399). -/
def answerLoad (s : State) (status : Nat) : State :=
  let s1 := s.wrn 0x2200 5 status
  let s2 := if status = 0 then s1 else s1.raise 0x2220 3
  s2.emit (.doe .pf status (leBytes 1 status ++ leBytes 3 0 ++ leBytes 4 (s2.rdn 0x2200 2) ++ slice s2.firmwareDigest 0 32))

/-- An image with RAISE_FLOOR runs: the floor rises in the store, and in the next free fused word (R400). -/
def raiseFloor (s : State) (i : Image) : State :=
  if !i.raiseFloor || i.secVersion.toNat ≤ s.securityFloor then s
  else { s with persist := { s.persist with floor := i.secVersion }
                fuse := { s.fuse with floorWords :=
                  if s.fuse.floorWords.length < 64 then s.fuse.floorWords ++ [i.secVersion] else s.fuse.floorWords } }

/-- The image is in control, and FirmwareState reads RUNNING. -/
def runImage (s : State) (i : Image) : State :=
  let s1 := (((s.updLink fun l => { l with image := some i }).wrn 0x2200 1 2).wrn 0x2200 2 i.version.toNat).wr 0x2201 1 i.features
  let s2 := [0, 1, 2, 3, 4, 5].foldl (fun t n => t.wrn 0x2202 (n + 1) ((i.ifaces[n]?).getD 0).toNat) s1
  s2.raiseFloor i

/-- The fetch of an image through the physical function, and its checks: a failed one answers and changes nothing else. -/
def loadImage (s : State) (update : Bool) (req : Nat) (image : List Byte) (hostFault : Bool) (go : State → Image → State) : State :=
  if !s.alive then s
  else if (!update && s.link.image.isSome) || s.rdn 0x2200 1 = 1 || s.rdn 0x2200 1 = 3 then s.answerLoad 1
  else if !s.busMaster 0 then s.busBlocked.answerLoad 3
  else if hostFault then (s.raise 0x4001 10).answerLoad 3
  else
    let b := slice image 0 req
    match s.judgeImage update req b with
    | 0 => go s (Virkin.parse b)
    | st => s.answerLoad st

/-- START: the image runs at once, and the CAN controllers start (R398, R429). -/
def startImage (s : State) (i : Image) : State :=
  ((s.runImage i).updLink fun l => { l with startDigest := i.digest }).startCans.answerLoad 0

/-- UPDATE: the image waits for its hand-off (R406). -/
def beginUpdate (s : State) (i : Image) : State := (s.updLink fun l => { l with update := some i }).wrn 0x2200 1 3

/-! ### The hand-off (R406, R407, Tables 6-11, 13-10, 14-12, 15-12, 15-14) -/

/-- An export drains. -/
def exportRuns (s : State) : Bool := (NMap.keys s.streams).any fun n => (s.stream n).exporting.isSome

/-- The hold starts. -/
def startHold (s : State) : State :=
  if !s.serves || s.rdn 0x2200 1 ≠ 3 || s.link.hold || s.exportRuns then s else s.updLink fun l => { l with hold := true }

/-- What waited through the hold acts: virtual-function resets first, then dictionary accesses, DOE requests and events. -/
def endHold (s : State) : State :=
  let l := s.link
  let falls := s.fabric.lateFalls
  let s0 := { s with link := { s.link with hold := false, update := none, heldFlrs := [], heldAttests := [], lateMarks := [] }
                     fabric := { s.fabric with lateFalls := [] } }
  let s1 := l.heldFlrs.foldl resetVf s0
  let s2 := s1.carryHeld
  let s3 := l.heldAttests.foldl (fun (s : State) (x : Iface × BitVec 256 × Nat) => s.doeAttest x.1 x.2.1 x.2.2) s2
  let s4 := l.lateMarks.foldl (fun (s : State) (x : Nat × W64) => s.logSecurity 2 (some x.1) x.2) s3
  falls.foldl (fun s n => noteReplay s (s.fallPlans n) 1 (s.phys n)) s4

/-- The new image refuses the hand-off, or traps: the old one resumes. -/
def rollBack (s : State) : State :=
  (((s.wrn 0x2200 1 2).raise 0x2220 2).answerLoad 7).endHold

/-- The hand-off ends. -/
def adopt (s : State) (accepted : Bool) : State :=
  if !s.serves || !s.link.hold then s
  else match s.link.update with
    | none => s
    | some i =>
      if accepted then ((((s.runImage i).bump32 0x2200 7 1).raise 0x2220 1).answerLoad 0).endHold
      else s.rollBack

/-! ### The DOE mailbox: discovery -/

/-- The protocols of a function (Table 15-6). -/
def doeProtocols (fn : Iface) : List (Nat × Nat) :=
  match fn with
  | .pf => [(0x0001, 0), (0x1FD3, 1), (0x1FD3, 2), (0x1FD3, 3)]
  | .vf _ => [(0x0001, 0), (0x1FD3, 2), (0x1FD3, 3)]
  | .can _ => []

/-- DOE Discovery (PRESUMED PCI Express): vendor, type and next index; beyond the last index the vendor reads FFFFh and the type is a free value. -/
def discover (s : State) (fn : Iface) (index : Nat) : State :=
  let ps := doeProtocols fn
  match ps[index]? with
  | some (v, t) => s.emit (.doe fn 0 (leBytes 2 v ++ leBytes 1 t ++ leBytes 1 (if index + 1 < ps.length then index + 1 else 0)))
  | none =>
    let (n, s1) := s.draw
    s1.emit (.doe fn 0 (leBytes 2 0xFFFF ++ [Config.freeByte n] ++ leBytes 1 0))

/-! ### Components (R404, R405, Table 15-11) -/

/-- The control processor that a component runs on. -/
def cpOf (n : Nat) : Nat := if n ≤ 1 then 0 else if n = 2 then 1 else if n ≤ 4 then 2 else 3

/-- 60 minutes of device time. -/
def trapSpan : Nat := 3600000000

/-- A component traps. -/
def trap (s : State) (n : Nat) : State :=
  if !s.serves then s
  else if s.link.hold then s.rollBack
  else
    let again := match NMap.get (fun _ => none) s.link.lastTrap n with
      | some t => s.time ≤ t + trapSpan
      | none => false
    if 5 ≤ n || again then s.fatalFault 0xF0 (cpOf n) n
    else
      ((s.bump32 0x2210 (n + 1) 1).raise 0x2220 0).updLink fun l =>
        { l with restarting := insertNat n l.restarting, lastTrap := NMap.set (fun _ => none) l.lastTrap n (some s.time) }

/-- A component has restarted: the accesses that waited for the dictionary or the lease are carried out. -/
def restartDone (s : State) (n : Nat) : State :=
  if !s.serves || !s.link.restarting.contains n then s
  else
    let s1 := s.updLink fun l => { l with restarting := l.restarting.filter (· ≠ n) }
    if n ≤ 1 then s1.carryHeld else s1

/-! ### Bus Master Enable (R391) -/

/-- Everything that waited for the bit of function `f` goes out, held results before records. -/
def release (s : State) (f : Nat) : State :=
  let s1 := s.partKeys.foldl writeWaiting s
  let s2 := (List.range 8).foldl (flushNotices f) s1
  let s3 := (List.range 2).foldl (flushEdge f) s2
  let mine := s3.link.msgs.filter fun x => x.1 = f
  mine.foldl (fun (s : State) (x : Nat × Nat) => s.emit (.msix x.1 x.2))
    (s3.updLink fun l => { l with msgs := l.msgs.filter fun x => x.1 ≠ f })

/-- Bus Master Enable of function `f` is set; a virtual function whose bit is set is enabled. -/
def setBme (s : State) (f : Nat) : State :=
  let s1 := s.updLink fun l => { l with bme := insertNat f l.bme, numVfs := max l.numVfs f }
  if s1.alive then s1.release f else s1

end State

/-! ### The meanings -/

/-- VIRKIN_LOAD_START: `image` is what the fetch returns. -/
def execVirkinLoadStart (imageBytes : W32) (_hostAddress : W64) (image : List Byte) (hostFault : Bool) (s : State) :
    Host.Outcome State Fault Refusal :=
  .next (s.loadImage false imageBytes.toNat image hostFault State.startImage)

/-- VIRKIN_LOAD_UPDATE. -/
def execVirkinLoadUpdate (imageBytes : W32) (_hostAddress : W64) (image : List Byte) (hostFault : Bool) (s : State) :
    Host.Outcome State Fault Refusal :=
  .next (s.loadImage true imageBytes.toNat image hostFault State.beginUpdate)

/-- HANDOFF_HOLD. -/
def execHandoffHold (s : State) : Host.Outcome State Fault Refusal := .next s.startHold

/-- HANDOFF_ADOPT. -/
def execHandoffAdopt (accepted : Bool) (s : State) : Host.Outcome State Fault Refusal := .next (s.adopt accepted)

/-- DOE_DISCOVERY. -/
def execDoeDiscovery (fn : Iface) (index : Byte) (s : State) : Host.Outcome State Fault Refusal :=
  .next (if s.alive && onLink fn then s.discover fn index.toNat else s)

/-- COMPONENT_TRAP. -/
def execComponentTrap (n : Fin 7) (s : State) : Host.Outcome State Fault Refusal := .next (s.trap n.val)

/-- COMPONENT_RESTART_DONE. -/
def execComponentRestartDone (n : Fin 7) (s : State) : Host.Outcome State Fault Refusal := .next (s.restartDone n.val)

/-- BUS_MASTER_ENABLE_SET. -/
def execBusMasterEnableSet (fn : Iface) (s : State) : Host.Outcome State Fault Refusal :=
  .next (if s.power.state = 0 || !onLink fn then s else s.setBme (State.ifaceFn fn))

end Sys2Proof.Machine
end

