-- ==== Sys2Proof/Machine/Lss.lean ====
section
/-! DEFINITION. The layer setting services of the field port (R439, CiA 305) and the boundary-scan TAP (R454). -/

namespace Sys2Proof.Machine
namespace State

def updLss (s : State) (n : Nat) (f : Lss → Lss) : State := s.updCan n fun c => { c with lss := f c.lss }

/-- LSS reply of controller n: the command specifier and its data (PRESUMED CiA 305). -/
def lssSay (s : State) (n cs v : Nat) : State := s.emit (.lss n (BitVec.ofNat 8 cs) (BitVec.ofNat 32 v))

/-- Controller n takes configuration services. -/
def lssOpen (s : State) (n : Nat) : Bool := s.canServes n && (s.can n).lss.configuration

/-- Part `k` of the LSS address: `1018:01` to `1018:04`. -/
def lssPart (s : State) (k : Nat) : Nat := s.value .pf 0x1018 (k + 1)

/-- Part `k` of a 128-bit address operand, `1018:01` in bits [31:0]. -/
def addrPart (a : Nat) (k : Nat) : Nat := bits a (32 * k + 31) (32 * k)

/-- Switch state global. A controller that leaves configuration while it is UNCONFIGURED, and for which R430 now chooses a node-ID, runs Reset Communication (PRESUMED CiA 305). -/
def lssGlobal (s : State) (n : Nat) (configuration : Bool) : State :=
  if !s.canServes n then s
  else
    let s1 := s.updLss n fun l => { l with configuration := configuration }
    if !configuration && (s.can n).lss.configuration && (s.can n).nmt = 5 && s1.nodeChoice.1 ≠ 0xFF then s1.resetComm n else s1

/-- Switch state selective: the controller whose address it names enters configuration and answers. -/
def lssSelect (s : State) (n addr : Nat) : State :=
  if s.canServes n && [0, 1, 2, 3].all (fun k => addrPart addr k = s.lssPart k) then
    (s.updLss n fun l => { l with configuration := true }).lssSay n 0x44 0
  else s

/-- Configure node-ID. -/
def lssNode (s : State) (n id : Nat) : State :=
  if !s.lssOpen n then s
  else if 1 ≤ s.rdn 0x2010 4 && s.rdn 0x2010 4 ≤ 127 then s.lssSay n 0x11 (255 + 256)
  else if (1 ≤ id && id ≤ 127) || id = 0xFF then (s.updLss n fun l => { l with pendingNode := some id }).lssSay n 0x11 0
  else s.lssSay n 0x11 1

/-- Configure bit timing. -/
def lssTiming (s : State) (n table index : Nat) : State :=
  if !s.lssOpen n then s
  else if table = 0 && index ≤ 8 && index ≠ 5 then (s.updLss n fun l => { l with pendingRate := some index }).lssSay n 0x13 0
  else s.lssSay n 0x13 1

/-- Activate bit timing: the switch follows after the delay. -/
def lssActivate (s : State) (n delay : Nat) : State :=
  if !s.lssOpen n then s
  else s.updLss n fun l => { l with activating := l.pendingRate.map fun r => (r, delay) }

/-- The switch delay ends: the new nominal rate is in force. -/
def lssSwitch (s : State) (n : Nat) : State :=
  match (if s.canServes n then (s.can n).lss.activating else none) with
  | some (r, _) => s.updCan n fun c => { c with rate := r, lss := { c.lss with activating := none } }
  | none => s

/-- Store configuration: the pending node-ID and rate are stored; a value that cannot be stored answers error 2 (PRESUMED CiA 305). -/
def lssStore (s : State) (n : Nat) : State :=
  if !s.lssOpen n then s
  else
    let l := (s.can n).lss
    let (s1, e1) := match l.pendingNode with
      | some id => s.writeRwp (.can (BitVec.ofNat 1 n).toFin) 0x2010 1 id
      | none => (s, .done)
    let old := s1.rdn 0x2011 (n + 1)
    let (s2, e2) := match l.pendingRate with
      | some r => s1.writeRwp (.can (BitVec.ofNat 1 n).toFin) 0x2011 (n + 1) (old - bits old 19 16 * 65536 + r * 65536)
      | none => (s1, .done)
    s2.lssSay n 0x17 (if e1.code = 0 && e2.code = 0 then 0 else 2)

/-- Inquire identity: part `k` of the LSS address. -/
def lssIdentity (s : State) (n k : Nat) : State := if s.lssOpen n then s.lssSay n (0x5A + k) (s.lssPart k) else s

/-- Inquire node-ID. -/
def lssNodeId (s : State) (n : Nat) : State := if s.lssOpen n then s.lssSay n 0x5E (s.can n).node else s

/-- Identify remote slave: every part of the address lies in its range. -/
def lssIdentify (s : State) (n low high : Nat) : State :=
  if s.canServes n && [0, 1, 2, 3].all (fun k => addrPart low k ≤ s.lssPart k && s.lssPart k ≤ addrPart high k) then
    s.lssSay n 0x4F 0
  else s

/-- Identify non-configured remote slave. -/
def lssUnconfigured (s : State) (n : Nat) : State := if s.canServes n && (s.can n).nmt = 5 then s.lssSay n 0x50 0 else s

/-- Fastscan, for an UNCONFIGURED controller that is not in configuration (PRESUMED CiA 305): 0x80 resets the scan; a part's upper bits are compared, a whole part moves the scan on, and the last whole part enters configuration. -/
def lssScan (s : State) (n id checked sub next : Nat) : State :=
  let c := s.can n
  if !s.canServes n || c.nmt ≠ 5 || c.lss.configuration then s
  else if checked = 0x80 then (s.updLss n fun l => { l with scan := 0 }).lssSay n 0x4F 0
  else if 31 < checked || 3 < sub || 3 < next || sub ≠ c.lss.scan then s
  else if s.lssPart sub / 2 ^ checked ≠ id / 2 ^ checked then s
  else
    let s1 := if checked = 0 then s.updLss n fun l => { l with scan := next, configuration := decide (next < sub) } else s
    s1.lssSay n 0x4F 0

/-! ### Boundary scan (R454) -/

/-- An instruction goes into the TAP's register; it needs every rail on. -/
def tapLoad (s : State) (i : TapInstr) (cells : BitVec 160) (name : String) (out : Nat) : State :=
  if s.power.state = 0 || !s.power.coreEn then s else { s with tap := ⟨i, cells⟩ }.emit (.tap name out)

/-- The boundary cells drive the pins: EXTEST is loaded and PERST_N is low. -/
def tapDrives (s : State) : Bool := s.tap.instr = .extest && s.link.perst

/-- BYPASS: one bit between TDI and TDO. -/
def tapBypass (s : State) : State := s.tapLoad .bypass s.tap.cells "BYPASS" 0

/-- IDCODE. -/
def tapIdcode (s : State) : State := s.tapLoad .idcode s.tap.cells "IDCODE" 0x22564A3B

/-- SAMPLE/PRELOAD: the pins are sampled and read out, and the cells take the preload. -/
def tapSample (s : State) (pins preload : BitVec 160) : State := s.tapLoad .samplePreload preload "SAMPLE/PRELOAD" pins.toNat

/-- EXTEST: the cells drive the pins while PERST_N is low; at any other time it runs as BYPASS. -/
def tapExtest (s : State) : State :=
  if s.link.perst then s.tapLoad .extest s.tap.cells "EXTEST" s.tap.cells.toNat else s.tapLoad .extest s.tap.cells "BYPASS" 0

end State

/-! ### The meanings -/

/-- LSS_SWITCH_STATE_GLOBAL. -/
def execLssSwitchStateGlobal (n : Fin 2) (configuration : Bool) (s : State) : Host.Outcome State Fault Refusal :=
  .next (s.lssGlobal n.val configuration)

/-- LSS_SWITCH_STATE_SELECTIVE. -/
def execLssSwitchStateSelective (n : Fin 2) (address : BitVec 128) (s : State) : Host.Outcome State Fault Refusal :=
  .next (s.lssSelect n.val address.toNat)

/-- LSS_CONFIGURE_NODE_ID. -/
def execLssConfigureNodeId (n : Fin 2) (nodeId : Byte) (s : State) : Host.Outcome State Fault Refusal :=
  .next (s.lssNode n.val nodeId.toNat)

/-- LSS_CONFIGURE_BIT_TIMING. -/
def execLssConfigureBitTiming (n : Fin 2) (table index : Byte) (s : State) : Host.Outcome State Fault Refusal :=
  .next (s.lssTiming n.val table.toNat index.toNat)

/-- LSS_ACTIVATE_BIT_TIMING. -/
def execLssActivateBitTiming (n : Fin 2) (delayMs : W16) (s : State) : Host.Outcome State Fault Refusal :=
  .next (s.lssActivate n.val delayMs.toNat)

/-- LSS_BIT_TIMING_SWITCH. -/
def execLssBitTimingSwitch (n : Fin 2) (s : State) : Host.Outcome State Fault Refusal := .next (s.lssSwitch n.val)

/-- LSS_STORE_CONFIGURATION. -/
def execLssStoreConfiguration (n : Fin 2) (s : State) : Host.Outcome State Fault Refusal := .next (s.lssStore n.val)

/-- LSS_INQUIRE_IDENTITY. -/
def execLssInquireIdentity (n : Fin 2) (field : Fin 4) (s : State) : Host.Outcome State Fault Refusal :=
  .next (s.lssIdentity n.val field.val)

/-- LSS_INQUIRE_NODE_ID. -/
def execLssInquireNodeId (n : Fin 2) (s : State) : Host.Outcome State Fault Refusal := .next (s.lssNodeId n.val)

/-- LSS_IDENTIFY_REMOTE_SLAVE. -/
def execLssIdentifyRemoteSlave (n : Fin 2) (low high : BitVec 128) (s : State) : Host.Outcome State Fault Refusal :=
  .next (s.lssIdentify n.val low.toNat high.toNat)

/-- LSS_IDENTIFY_NON_CONFIGURED. -/
def execLssIdentifyNonConfigured (n : Fin 2) (s : State) : Host.Outcome State Fault Refusal := .next (s.lssUnconfigured n.val)

/-- LSS_FASTSCAN. -/
def execLssFastscan (n : Fin 2) (idNumber : W32) (bitChecked lssSub lssNext : Byte) (s : State) : Host.Outcome State Fault Refusal :=
  .next (s.lssScan n.val idNumber.toNat bitChecked.toNat lssSub.toNat lssNext.toNat)

/-- TAP_BYPASS. -/
def execTapBypass (s : State) : Host.Outcome State Fault Refusal := .next s.tapBypass

/-- TAP_IDCODE. -/
def execTapIdcode (s : State) : Host.Outcome State Fault Refusal := .next s.tapIdcode

/-- TAP_SAMPLE_PRELOAD. -/
def execTapSamplePreload (pins preload : BitVec 160) (s : State) : Host.Outcome State Fault Refusal := .next (s.tapSample pins preload)

/-- TAP_EXTEST. -/
def execTapExtest (s : State) : Host.Outcome State Fault Refusal := .next s.tapExtest

end Sys2Proof.Machine
end

