-- ==== Sys2Proof/Machine/Submit.lean ====
section
/-! DEFINITION. The start of what was held, dropped window writes, host read completions, records that waited, and the losses to shared resources (R112, R300, R303, R304, R308, R310, R313, R392, R393). -/

namespace Sys2Proof.Machine
namespace State

/-! ### Starts of held descriptors -/

/-- A descriptor starts by its operation. -/
def startWork (met : Met) (s : State) (p : Nat) (w : Work) : State :=
  let op := dOpcode w.raw
  if op = 0x01 then s.startPlanLoad met p w
  else if op = 0x02 then s.startPlanUnload p w
  else if op = 0x03 then s.startInvoke met p w
  else if op = 0x40 then s.startOpen p w
  else if op = 0x41 then s.startClose p w
  else if op = 0x42 then s.startTicket met p w
  else if op = 0x43 then s.startExport met p w
  else if op = 0x44 then s.startImport met p w
  else if op = 0x50 then s.startSeqOpen p w
  else if op = 0x51 then s.startSeqClose p w
  else if op = 0x52 then s.startSeqFork p w
  else if op = 0x53 then s.startSeqTruncate p w
  else if op = 0x54 then s.startAttend met p w
  else if op = 0x60 then s.startReprocess met p w
  else if op = 0x61 then s.startEdgeRun met p w
  else s

/-- Nothing holds the descriptor any more, or its frame wait ends it (R303, R304). -/
def canStart (s : State) (p : Nat) (w : Work) : Bool :=
  w.phase = .held &&
  match s.frameWait p w.slot (dWaitPipe w.raw) (dWaitSeq w.raw) with
  | .wait => false
  | .short | .missed => true
  | .ready _ => !s.held p w.slot w

/-- The descriptor that starts first: the highest priority, and among equals the first taken (R310). -/
def firstStart (s : State) (p : Nat) : Option Work :=
  (((s.part p).work.filter (s.canStart p)).foldl (fun (b : Option Work) w => match b with
    | some x => if dPriority x.raw < dPriority w.raw then some w else some x
    | none => some w) none)

/-- DESCRIPTOR_START. -/
def descriptorStart (s : State) (p : Nat) (met : Met) : State :=
  if !s.serves then s
  else
    let t := s.afterRead p
    match t.firstStart p with
    | some w => t.tryStart p w.slot (startWork met)
    | none => t

/-- A slot's image with bytes written from offset `o` on. -/
def slotWith (raw : BitVec 1024) (o : Nat) (bs : List Byte) : BitVec 1024 :=
  let old := leBytes 128 raw.toNat
  BitVec.ofNat 1024 (leNat (old.take o ++ bs ++ old.drop (o + bs.length)))

/-- The bytes of a window write that fall in slot `j`, with their offset in it. -/
def slotPart (o : Nat) (bs : List Byte) (j : Nat) : Nat × List Byte :=
  let lo := max o (j * 128)
  (lo - j * 128, (bs.drop (lo - o)).take ((j + 1) * 128 - lo))

/-- What an operation fetches from host memory with its descriptor: a lane table, a ticket record, a state blob. -/
def fetched (s : State) (p : Nat) (raw : BitVec 1024) : List Byte :=
  let op := dOpcode raw
  let n := if op = 0x54 then 8 * dBody raw 0x18 2 else if op = 0x43 then dBody raw 0x10 4 else if op = 0x44 then dBody raw 4 4 else 0
  match region (dBody raw 8 8) with
  | some (.host a) => s.fromHost (s.busAddr p a) n
  | _ => []

/-- A landed write that covers the Seal leaves the image `raw`: it is judged as a seal (R299, R300). -/
def judgeSeal (s : State) (p j : Nat) (mirror : Bool) (raw : BitVec 1024) : State :=
  if dOpcode raw = 0x04 then s.takeWith p j mirror raw [] fun t => t.abortTarget p j (dBody raw 0 4)
  else s.take p j mirror raw (s.fetched p raw) (startWork ⟨[], false⟩)

/-- One slot's part of a window write: dropped where the device holds the slot, judged as a seal where it covers all four bytes of the Seal, and otherwise only bytes (R299, R300). -/
def windowSlot (p : Nat) (mirror : Bool) (o : Nat) (bs : List Byte) (s : State) (j : Nat) : State :=
  let (k, part) := slotPart o bs j
  if part.isEmpty then s
  else if (s.findWork p j).isSome then s.dropDesc p
  else
    let raw := slotWith (NMap.get (fun _ => 0) (s.part p).window j) k part
    if k ≤ 124 && 128 ≤ k + part.length then s.judgeSeal p j mirror raw else s.setWindow p j raw

/-- A write to the descriptor window of partition p, or to its mirror. -/
def windowWrite (s : State) (p : Nat) (mirror : Bool) (o : Nat) (bs : List Byte) : State :=
  if !s.serves || !s.enabled p then s
  else if !s.takesSeals p mirror then s.dropDesc p
  else (List.range 64).foldl (windowSlot p mirror o (bs.take (8192 - o))) s

/-! ### Host reads (R112, R392, R393) -/

/-- The AER report of a completion's status (Table 15-4). -/
def aerOf (c : CplStatus) : Option String :=
  match c with
  | .ok => none
  | .poisoned => some "Poisoned TLP"
  | .unsupportedRequest => some "Unsupported Request"
  | .completerAbort => some "Completer Abort"

/-- `n` bytes of partition p's host memory from the partition-view address `a` hold the bus address `addr`. -/
def hostHolds (s : State) (p a n addr : Nat) : Bool :=
  match region a with
  | some (.host o) => s.busAddr p o ≤ addr && addr < s.busAddr p o + n
  | _ => false

/-- A POST record reads the host address: its parameter blocks, the operands that they name, its auxiliary operand, or its column sums. -/
def postReads (s : State) (c : RunCtx) (p : PostRec) (addr : Nat) : Bool :=
  s.hostHolds c.part p.param (32 * p.stages.length) addr || s.hostHolds c.part p.colSum 0x40000 addr ||
  s.hostHolds c.part p.aux (max p.auxStride 0x40000 * 0x10000) addr ||
  (List.range p.stages.length).any fun i =>
    let blk := Run.bytes c s (p.param + 32 * i) 32
    s.hostHolds c.part (addr48 blk 0) 0x40000 addr || s.hostHolds c.part (addr48 blk 8) 0x40000 addr

/-- The plan's STREAM records or POST records read the host address. -/
def planReads (s : State) (c : RunCtx) (addr : Nat) : Bool :=
  c.plan.streams.any (fun st => s.hostHolds c.part st.source (max st.srcStride st.rowBytes * st.rowCount) addr) ||
  c.plan.posts.any fun p => s.postReads c p addr

/-- The running invocation whose copies or plan read the host address through function `f`. -/
def invReading (s : State) (f addr : Nat) : Option (Nat × W64) :=
  s.partKeys.findSome? fun p =>
    ((s.part p).invs.find? fun v =>
      (match s.findWork p v.slot with
        | some w => workFn p w = f && !v.attend && (copies w.raw).any fun c => s.hostHolds p c.src c.bytes addr
        | none => false) ||
      (match s.findWork p v.slot, s.findPlan p v.planId with
        | some w, some l => workFn p w = f && s.planReads (s.runCtx p l v) addr
        | _, _ => false)).map fun v => (p, v.planId)

/-- The group whose oldest step's plan reads the host address through function `f`. -/
def stepReading (s : State) (f addr : Nat) : Option (Nat × Nat) :=
  ((List.range 64).find? fun g => s.groupPart g + 1 = f && !(s.group g).steps.isEmpty &&
    (match s.groupLoaded g, (s.group g).steps.head? with
      | some l, some t => s.planReads (s.stepCtx (s.groupPart g) g l t) addr
      | _, _ => false)).map fun g => (s.groupPart g, g)

/-- A WRITE of interface `fn` reads the host address. -/
def xferReading (s : State) (fn : Iface) (addr : Nat) : Bool :=
  match s.xferOf (ifaceNo fn) with
  | some x => x.write && s.ifaceAddr fn x.addr.toNat ≤ addr && addr < s.ifaceAddr fn x.addr.toNat + x.bytes
  | none => false

/-- The descriptor that has not started and whose lane table, ticket record or state blob is read at the host address through function `f`. -/
def fetchReading (s : State) (f addr : Nat) : Option (Nat × Nat) :=
  s.partKeys.findSome? fun p =>
    ((s.part p).work.find? fun w =>
      let op := dOpcode w.raw
      w.phase = .held && workFn p w = f && (op = 0x43 || op = 0x44 || op = 0x54) &&
      s.hostHolds p (dBody w.raw 8 8) w.extra.length addr).map fun w => (p, w.slot)

/-- The request whose read failed ends with HOST_FAULT: a domain transfer, an invocation, a step, a descriptor whose table, record or blob it is, or the running install. -/
def readFails (s : State) (fn : Iface) (addr : Nat) : State :=
  let f := ifaceFn fn
  let s1 := s.raise 0x4001 10
  if s.xferReading fn addr then s1.cutDomain (ifaceNo fn)
  else match s.invReading f addr, s.stepReading f addr with
    | some (p, id), _ => s1.endInvocation p id 0x23
    | none, some (p, g) =>
      match (s1.group g).steps.head? with
      | some t => failLanes p g t 0x23 (s1.updGroup g fun x => { x with steps := x.steps.drop 1 })
      | none => s
    | none, none =>
      match s.fetchReading f addr with
      | some (p, slot) => s1.endWork p slot 0x23 0 0 false
      | none =>
      if f = 0 && s.bedrock.job.isSome then s1.dropInstall.installResult 8 else s

/-- A completion for a device host read: its bytes, or an error. -/
def readCompletion (s : State) (fn : Iface) (addr : Nat) (status : CplStatus) (data : List Byte) : State :=
  if !s.alive then s
  else match aerOf status with
    | none => s.updMem fun m => { m with host := hostWrite m.host addr data }
    | some name => (s.emit (.aer name)).readFails fn addr

/-- The completion timeout of a device host read. -/
def readTimeout (s : State) (fn : Iface) (addr : Nat) : State :=
  if !s.alive then s
  else ((s.raise 0x2101 2).emit (.aer "Completion Timeout")).readFails fn addr

/-! ### Losses to shared resources (R313) -/

/-- The losses of one more millisecond. -/
def slowUpdate (s : State) (p mesh cap link bedrock shift : Nat) : State :=
  if !s.alive then s
  else
    let s1 := ((((s.bump64 0x7020 (p + 1) mesh).bump64 0x7021 (p + 1) cap).bump64 0x7022 (p + 1) link).bump64 0x7023 (p + 1) bedrock).bump64
      0x7024 (p + 1) shift
    s1.updPart p fun x => { x with slow := ((mesh + cap + link + bedrock + shift) :: x.slow).take 100 }

end State

/-! ### The meanings -/

/-- DESCRIPTOR_START: the first descriptor of the partition that nothing holds any more starts. -/
def execDescriptorStart (p : Fin 128) (met : Met) (s : State) : Host.Outcome State Fault Refusal :=
  withStops p (.next (s.descriptorStart p.val met))

/-- DESCRIPTOR_WINDOW_WRITE. -/
def execDescriptorWindowWrite (p : Fin 128) (mirror : Bool) (offset : Fin 8192) (data : List Byte) (s : State) :
    Host.Outcome State Fault Refusal :=
  withStops p (.next (s.windowWrite p.val mirror offset.val data))

/-- HELD_RECORD_WRITE. -/
def execHeldRecordWrite (p : Fin 128) (s : State) : Host.Outcome State Fault Refusal :=
  .next (if s.alive then s.flush p.val else s)

/-- HOST_READ_COMPLETION. -/
def execHostReadCompletion (fn : Iface) (addr : W64) (status : CplStatus) (data : List Byte) (s : State) :
    Host.Outcome State Fault Refusal :=
  .next (s.readCompletion fn addr.toNat status data)

/-- HOST_COMPLETION_TIMEOUT. -/
def execHostCompletionTimeout (fn : Iface) (addr : W64) (s : State) : Host.Outcome State Fault Refusal :=
  .next (s.readTimeout fn addr.toNat)

/-- SLOW_RATIO_UPDATE. -/
def execSlowRatioUpdate (p : Fin 128) (mesh cap link bedrock shift : Nat) (s : State) : Host.Outcome State Fault Refusal :=
  .next (s.slowUpdate p.val mesh cap link bedrock shift)

end Sys2Proof.Machine
end

