-- ==== Sys2Proof/Machine/Dispatch.lean ====
section
/-! DEFINITION. The meaning of each command: one arm for each row of spec/opcode_table.json. -/

namespace Sys2Proof.Machine

/-- The effect of a command on everything but the queue. -/
def exec (i : Instr) (s : State) : Host.Outcome State Fault Refusal :=
  match i with
  | .dictionaryWrite fn e enables value => Sys2Proof.Machine.execDictionaryWrite fn e enables value s
  | .rwpWrite fn e enables value => Sys2Proof.Machine.execRwpWrite fn e enables value s
  | .restoreDefaults fn value => Sys2Proof.Machine.execRestoreDefaults fn value s
  | .commit fn => Sys2Proof.Machine.execCommit fn s
  | .discard fn => Sys2Proof.Machine.execDiscard fn s
  | .commitEvaluated => Sys2Proof.Machine.execCommitEvaluated s
  | .slotPlacementApply => Sys2Proof.Machine.execSlotPlacementApply s
  | .clearDone u => Sys2Proof.Machine.execClearDone u s
  | .domainRead fn => Sys2Proof.Machine.execDomainRead fn s
  | .domainWrite fn => Sys2Proof.Machine.execDomainWrite fn s
  | .domainAbort fn => Sys2Proof.Machine.execDomainAbort fn s
  | .domainTransferDone fn data hostFault => Sys2Proof.Machine.execDomainTransferDone fn data hostFault s
  | .tileClockRequestWrite fn tile value => Sys2Proof.Machine.execTileClockRequestWrite fn tile value s
  | .planLoad d met => Sys2Proof.Machine.execPlanLoad d met s
  | .planUnload d => Sys2Proof.Machine.execPlanUnload d s
  | .invoke d met => Sys2Proof.Machine.execInvoke d met s
  | .abort d => Sys2Proof.Machine.execAbort d s
  | .descriptorStart p met => Sys2Proof.Machine.execDescriptorStart p met s
  | .descriptorWindowWrite p mirror offset data => Sys2Proof.Machine.execDescriptorWindowWrite p mirror offset data s
  | .stagedPlanStart p planId => Sys2Proof.Machine.execStagedPlanStart p planId s
  | .cheapPointReached p planId => Sys2Proof.Machine.execCheapPointReached p planId s
  | .invocationEnd p planId met => Sys2Proof.Machine.execInvocationEnd p planId met s
  | .hintPrefetch p planId hint => Sys2Proof.Machine.execHintPrefetch p planId hint s
  | .hintPin p planId hint => Sys2Proof.Machine.execHintPin p planId hint s
  | .hintUnpin p planId hint => Sys2Proof.Machine.execHintUnpin p planId hint s
  | .demandMigration p planId slot page => Sys2Proof.Machine.execDemandMigration p planId slot page s
  | .migrationComplete p page => Sys2Proof.Machine.execMigrationComplete p page s
  | .mergeEntryTimeout c line => Sys2Proof.Machine.execMergeEntryTimeout c line s
  | .barMemoryWrite c offset data => Sys2Proof.Machine.execBarMemoryWrite c offset data s
  | .hostReadCompletion fn addr status data => Sys2Proof.Machine.execHostReadCompletion fn addr status data s
  | .hostCompletionTimeout fn addr => Sys2Proof.Machine.execHostCompletionTimeout fn addr s
  | .scrubPass c errs => Sys2Proof.Machine.execScrubPass c errs s
  | .softRowRepair c bank row removed => Sys2Proof.Machine.execSoftRowRepair c bank row removed s
  | .wheelSlot done => Sys2Proof.Machine.execWheelSlot done s
  | .chunkDecodeResult p page failed tagOk => Sys2Proof.Machine.execChunkDecodeResult p page failed tagOk s
  | .rebuiltStripeProgrammed p page => Sys2Proof.Machine.execRebuiltStripeProgrammed p page s
  | .relocateThreshold block => Sys2Proof.Machine.execRelocateThreshold block s
  | .ageTick hottestDieC => Sys2Proof.Machine.execAgeTick hottestDieC s
  | .refreshDue block => Sys2Proof.Machine.execRefreshDue block s
  | .patrolRead block bitErrors ladderStep => Sys2Proof.Machine.execPatrolRead block bitErrors ladderStep s
  | .blockRetire block => Sys2Proof.Machine.execBlockRetire block s
  | .dieFailed die => Sys2Proof.Machine.execDieFailed die s
  | .dieRebuildDone die => Sys2Proof.Machine.execDieRebuildDone die s
  | .journalWrite => Sys2Proof.Machine.execJournalWrite s
  | .install fn header hostFault => Sys2Proof.Machine.execInstall fn header hostFault s
  | .remove fn => Sys2Proof.Machine.execRemove fn s
  | .installAbort fn => Sys2Proof.Machine.execInstallAbort fn s
  | .installPage data tagOk digestOk hostFault => Sys2Proof.Machine.execInstallPage data tagOk digestOk hostFault s
  | .openStream d => Sys2Proof.Machine.execOpenStream d s
  | .close d => Sys2Proof.Machine.execClose d s
  | .closeComplete stream => Sys2Proof.Machine.execCloseComplete stream s
  | .ticket d met => Sys2Proof.Machine.execTicket d met s
  | .ticketExpiry ticket => Sys2Proof.Machine.execTicketExpiry ticket s
  | .exportStream d record met => Sys2Proof.Machine.execExportStream d record met s
  | .exportDrained stream met => Sys2Proof.Machine.execExportDrained stream met s
  | .importStream d blob met => Sys2Proof.Machine.execImportStream d blob met s
  | .chunkSeal p stream slot header payload reorderable => Sys2Proof.Machine.execChunkSeal p stream slot header payload reorderable s
  | .chunkWindowWrite p stream slot offset data => Sys2Proof.Machine.execChunkWindowWrite p stream slot offset data s
  | .swapInDone stream => Sys2Proof.Machine.execSwapInDone stream s
  | .berthGrant g => Sys2Proof.Machine.execBerthGrant g s
  | .groupTick g met => Sys2Proof.Machine.execGroupTick g met s
  | .stepEnd g met => Sys2Proof.Machine.execStepEnd g met s
  | .streamStatSnapshot fn => Sys2Proof.Machine.execStreamStatSnapshot fn s
  | .streamStatSnapshotClear fn => Sys2Proof.Machine.execStreamStatSnapshotClear fn s
  | .streamStatClear fn => Sys2Proof.Machine.execStreamStatClear fn s
  | .tdmFrame port => Sys2Proof.Machine.execTdmFrame port s
  | .statSnapshot fn => Sys2Proof.Machine.execStatSnapshot fn s
  | .statSnapshotClear fn => Sys2Proof.Machine.execStatSnapshotClear fn s
  | .statClear fn => Sys2Proof.Machine.execStatClear fn s
  | .seqOpen d => Sys2Proof.Machine.execSeqOpen d s
  | .seqClose d => Sys2Proof.Machine.execSeqClose d s
  | .seqFork d => Sys2Proof.Machine.execSeqFork d s
  | .seqTruncate d => Sys2Proof.Machine.execSeqTruncate d s
  | .attend d table met => Sys2Proof.Machine.execAttend d table met s
  | .attendStepEnd p planId met => Sys2Proof.Machine.execAttendStepEnd p planId met s
  | .frameStart port vc => Sys2Proof.Machine.execFrameStart port vc s
  | .longPacket port vc dataType wordCount eccOk crcOk fifoFull bytes => Sys2Proof.Machine.execLongPacket port vc dataType wordCount eccOk crcOk fifoFull bytes s
  | .frameEnd port vc => Sys2Proof.Machine.execFrameEnd port vc s
  | .frameTimeout sensor => Sys2Proof.Machine.execFrameTimeout sensor s
  | .frameNotice k => Sys2Proof.Machine.execFrameNotice k s
  | .sensorSettingsWrite fn sensor record => Sys2Proof.Machine.execSensorSettingsWrite fn sensor record s
  | .settingsI2cDone sensor ok => Sys2Proof.Machine.execSettingsI2cDone sensor ok s
  | .reprocess d met => Sys2Proof.Machine.execReprocess d met s
  | .i2cTransfer fn m data => Sys2Proof.Machine.execI2cTransfer fn m data s
  | .i2cTransferDone m status data => Sys2Proof.Machine.execI2cTransferDone m status data s
  | .edgeRun d met => Sys2Proof.Machine.execEdgeRun d met s
  | .edgeRunDone e micros met => Sys2Proof.Machine.execEdgeRunDone e micros met s
  | .micSilent m => Sys2Proof.Machine.execMicSilent m s
  | .pdmClockChange port active => Sys2Proof.Machine.execPdmClockChange port active s
  | .settleEnd => Sys2Proof.Machine.execSettleEnd s
  | .roostHop samples => Sys2Proof.Machine.execRoostHop samples s
  | .stage0InvocationEnd => Sys2Proof.Machine.execStage0InvocationEnd s
  | .stage0RefractoryEnd => Sys2Proof.Machine.execStage0RefractoryEnd s
  | .roostPlanLoad met => Sys2Proof.Machine.execRoostPlanLoad met s
  | .feedStart fn f => Sys2Proof.Machine.execFeedStart fn f s
  | .feedStop fn f => Sys2Proof.Machine.execFeedStop fn f s
  | .feedChunkSeal f mainPath => Sys2Proof.Machine.execFeedChunkSeal f mainPath s
  | .stage1WindowEnd => Sys2Proof.Machine.execStage1WindowEnd s
  | .stage2WindowEnd => Sys2Proof.Machine.execStage2WindowEnd s
  | .cascadeStop fn => Sys2Proof.Machine.execCascadeStop fn s
  | .cascadeTrigger fn => Sys2Proof.Machine.execCascadeTrigger fn s
  | .completionHeadWrite fn p value => Sys2Proof.Machine.execCompletionHeadWrite fn p value s
  | .heldRecordWrite p => Sys2Proof.Machine.execHeldRecordWrite p s
  | .preemptStop p planId => Sys2Proof.Machine.execPreemptStop p planId s
  | .preemptResume p planId => Sys2Proof.Machine.execPreemptResume p planId s
  | .timeSliceExpiry p planId => Sys2Proof.Machine.execTimeSliceExpiry p planId s
  | .slowRatioUpdate p mesh cap link bedrock shift => Sys2Proof.Machine.execSlowRatioUpdate p mesh cap link bedrock shift s
  | .holdExpiry => Sys2Proof.Machine.execHoldExpiry s
  | .stateStepUp => Sys2Proof.Machine.execStateStepUp s
  | .linkL12Exit => Sys2Proof.Machine.execLinkL12Exit s
  | .linkD3coldExit => Sys2Proof.Machine.execLinkD3coldExit s
  | .canCall f => Sys2Proof.Machine.execCanCall f s
  | .canAny f => Sys2Proof.Machine.execCanAny f s
  | .gpioWake pin => Sys2Proof.Machine.execGpioWake pin s
  | .linkPowerChange ev => Sys2Proof.Machine.execLinkPowerChange ev s
  | .powerWindow compute memory links fixed coreMilliamps => Sys2Proof.Machine.execPowerWindow compute memory links fixed coreMilliamps s
  | .thermalSample hottestDeciC => Sys2Proof.Machine.execThermalSample hottestDeciC s
  | .thermalFactorStep => Sys2Proof.Machine.execThermalFactorStep s
  | .avsRead ok millivolts inputUndervoltage => Sys2Proof.Machine.execAvsRead ok millivolts inputUndervoltage s
  | .avsRetry ok => Sys2Proof.Machine.execAvsRetry ok s
  | .lowSupplyEnd => Sys2Proof.Machine.execLowSupplyEnd s
  | .droopCrossing tile => Sys2Proof.Machine.execDroopCrossing tile s
  | .hostClockLimitWrite fn value => Sys2Proof.Machine.execHostClockLimitWrite fn value s
  | .railTargetWrite fn watch value => Sys2Proof.Machine.execRailTargetWrite fn watch value s
  | .gaugeDue tile => Sys2Proof.Machine.execGaugeDue tile s
  | .gaugeReading tile marginMv => Sys2Proof.Machine.execGaugeReading tile marginMv s
  | .unitFatalFault source u => Sys2Proof.Machine.execUnitFatalFault source u s
  | .substitutionShiftStart row => Sys2Proof.Machine.execSubstitutionShiftStart row s
  | .substitutionShiftDone row => Sys2Proof.Machine.execSubstitutionShiftDone row s
  | .handlingComplete record micros => Sys2Proof.Machine.execHandlingComplete record micros s
  | .quietExit failed => Sys2Proof.Machine.execQuietExit failed s
  | .deviceFatalFault source cp component => Sys2Proof.Machine.execDeviceFatalFault source cp component s
  | .fence fn value => Sys2Proof.Machine.execFence fn value s
  | .unfence fn value => Sys2Proof.Machine.execUnfence fn value s
  | .release fn value => Sys2Proof.Machine.execRelease fn value s
  | .unfenceChannel fn value => Sys2Proof.Machine.execUnfenceChannel fn value s
  | .channelRetestDone c passed => Sys2Proof.Machine.execChannelRetestDone c passed s
  | .leaseRenew fn => Sys2Proof.Machine.execLeaseRenew fn s
  | .leaseClaim fn => Sys2Proof.Machine.execLeaseClaim fn s
  | .leaseRelease fn => Sys2Proof.Machine.execLeaseRelease fn s
  | .leasePeriodExpiry => Sys2Proof.Machine.execLeasePeriodExpiry s
  | .fleetEnrol fn record => Sys2Proof.Machine.execFleetEnrol fn record s
  | .fleetRemove fn fleetId => Sys2Proof.Machine.execFleetRemove fn fleetId s
  | .attestNonce fn nonce => Sys2Proof.Machine.execAttestNonce fn nonce s
  | .attestReportReady fn => Sys2Proof.Machine.execAttestReportReady fn s
  | .randomHealthFail retryFailed => Sys2Proof.Machine.execRandomHealthFail retryFailed s
  | .randomRetry ok => Sys2Proof.Machine.execRandomRetry ok s
  | .aonPwrgdRise straps found => Sys2Proof.Machine.execAonPwrgdRise straps found s
  | .aonPwrgdFall => Sys2Proof.Machine.execAonPwrgdFall s
  | .perstAssert straps found => Sys2Proof.Machine.execPerstAssert straps found s
  | .vfFlr p => Sys2Proof.Machine.execVfFlr p s
  | .pfFlr straps found => Sys2Proof.Machine.execPfFlr straps found s
  | .busMasterEnableSet fn => Sys2Proof.Machine.execBusMasterEnableSet fn s
  | .doeDiscovery fn index => Sys2Proof.Machine.execDoeDiscovery fn index s
  | .virkinLoadStart imageBytes hostAddress image hostFault => Sys2Proof.Machine.execVirkinLoadStart imageBytes hostAddress image hostFault s
  | .virkinLoadUpdate imageBytes hostAddress image hostFault => Sys2Proof.Machine.execVirkinLoadUpdate imageBytes hostAddress image hostFault s
  | .handoffHold => Sys2Proof.Machine.execHandoffHold s
  | .handoffAdopt accepted => Sys2Proof.Machine.execHandoffAdopt accepted s
  | .doeAttest fn nonce scope => Sys2Proof.Machine.execDoeAttest fn nonce scope s
  | .doeCert fn => Sys2Proof.Machine.execDoeCert fn s
  | .negotiate fn => Sys2Proof.Machine.execNegotiate fn s
  | .componentTrap n => Sys2Proof.Machine.execComponentTrap n s
  | .componentRestartDone n => Sys2Proof.Machine.execComponentRestartDone n s
  | .crashDumpClear fn => Sys2Proof.Machine.execCrashDumpClear fn s
  | .nmtStart n => Sys2Proof.Machine.execNmtStart n s
  | .nmtStop n => Sys2Proof.Machine.execNmtStop n s
  | .nmtEnterPreOperational n => Sys2Proof.Machine.execNmtEnterPreOperational n s
  | .nmtResetNode n => Sys2Proof.Machine.execNmtResetNode n s
  | .nmtResetCommunication n => Sys2Proof.Machine.execNmtResetCommunication n s
  | .sdoDownload n e expedited size data => Sys2Proof.Machine.execSdoDownload n e expedited size data s
  | .sdoUpload n e => Sys2Proof.Machine.execSdoUpload n e s
  | .sdoSegment n toggle last data => Sys2Proof.Machine.execSdoSegment n toggle last data s
  | .sdoBlockDownload n e data crcOk => Sys2Proof.Machine.execSdoBlockDownload n e data crcOk s
  | .sdoBlockUpload n e => Sys2Proof.Machine.execSdoBlockUpload n e s
  | .sdoAbortTransfer n => Sys2Proof.Machine.execSdoAbortTransfer n s
  | .usdoRequest n e write data => Sys2Proof.Machine.execUsdoRequest n e write data s
  | .sdoTimeout n => Sys2Proof.Machine.execSdoTimeout n s
  | .sync n => Sys2Proof.Machine.execSync n s
  | .rpdo n pdo data => Sys2Proof.Machine.execRpdo n pdo data s
  | .tpdoChangeCheck => Sys2Proof.Machine.execTpdoChangeCheck s
  | .tpdoEventTimer pdo => Sys2Proof.Machine.execTpdoEventTimer pdo s
  | .heartbeatProduce n => Sys2Proof.Machine.execHeartbeatProduce n s
  | .heartbeatReceived n node => Sys2Proof.Machine.execHeartbeatReceived n node s
  | .heartbeatConsumerTimeout consumer => Sys2Proof.Machine.execHeartbeatConsumerTimeout consumer s
  | .emcyInhibitExpiry n => Sys2Proof.Machine.execEmcyInhibitExpiry n s
  | .errorPassive n tec => Sys2Proof.Machine.execErrorPassive n tec s
  | .rxOverrun n => Sys2Proof.Machine.execRxOverrun n s
  | .busOff n => Sys2Proof.Machine.execBusOff n s
  | .busOffRecovery n => Sys2Proof.Machine.execBusOffRecovery n s
  | .lssSwitchStateGlobal n configuration => Sys2Proof.Machine.execLssSwitchStateGlobal n configuration s
  | .lssSwitchStateSelective n address => Sys2Proof.Machine.execLssSwitchStateSelective n address s
  | .lssConfigureNodeId n nodeId => Sys2Proof.Machine.execLssConfigureNodeId n nodeId s
  | .lssConfigureBitTiming n table index => Sys2Proof.Machine.execLssConfigureBitTiming n table index s
  | .lssActivateBitTiming n delayMs => Sys2Proof.Machine.execLssActivateBitTiming n delayMs s
  | .lssBitTimingSwitch n => Sys2Proof.Machine.execLssBitTimingSwitch n s
  | .lssStoreConfiguration n => Sys2Proof.Machine.execLssStoreConfiguration n s
  | .lssInquireIdentity n field => Sys2Proof.Machine.execLssInquireIdentity n field s
  | .lssInquireNodeId n => Sys2Proof.Machine.execLssInquireNodeId n s
  | .lssIdentifyRemoteSlave n low high => Sys2Proof.Machine.execLssIdentifyRemoteSlave n low high s
  | .lssIdentifyNonConfigured n => Sys2Proof.Machine.execLssIdentifyNonConfigured n s
  | .lssFastscan n idNumber bitChecked lssSub lssNext => Sys2Proof.Machine.execLssFastscan n idNumber bitChecked lssSub lssNext s
  | .tapBypass => Sys2Proof.Machine.execTapBypass s
  | .tapIdcode => Sys2Proof.Machine.execTapIdcode s
  | .tapSamplePreload pins preload => Sys2Proof.Machine.execTapSamplePreload pins preload s
  | .tapExtest => Sys2Proof.Machine.execTapExtest s
  | .perstDeassert => Sys2Proof.Machine.execPerstDeassert s
  | .linkTrained width speed => Sys2Proof.Machine.execLinkTrained width speed s
  | .linkDown => Sys2Proof.Machine.execLinkDown s
  | .xtal32Start => Sys2Proof.Machine.execXtal32Start s
  | .droopStretchEnd tile nanos => Sys2Proof.Machine.execDroopStretchEnd tile nanos s
  | .canErrorActive n => Sys2Proof.Machine.execCanErrorActive n s
  | .vddAonLoss => Sys2Proof.Machine.execVddAonLoss s

end Sys2Proof.Machine
end

