-- ==== Sys2Proof/Machine/Pins.lean ====
section
/-! DEFINITION. The balls, the rails and the outputs that float, as they follow from the state (R322, R443 to R446, R460). Nothing steps through this file. -/

namespace Sys2Proof.Machine

/-! ### Balls (R443 to R445) -/

/-- The letters of the rows, in order (R443). -/
def rowLetters : List Char :=
  ['A', 'B', 'C', 'D', 'E', 'F', 'G', 'H', 'J', 'K', 'L', 'M', 'N', 'P', 'T', 'U', 'V', 'W', 'Y']

/-- The names of the 61 rows, in order: one letter, then the A, B and C series (R443). -/
def rowNames : List String :=
  rowLetters.map (fun x => String.ofList [x]) ++ rowLetters.map (fun x => String.ofList ['A', x]) ++
  rowLetters.map (fun x => String.ofList ['B', x]) ++ (rowLetters.take 4).map fun x => String.ofList ['C', x]

/-- The supply rails of the device (Table 17-3). -/
inductive Rail where
  | vddAon | vio18 | vddCore | vddBond | vppBond | vccNand | vccqNand | vddPcie | vddhPcie | vddaCsi
  deriving DecidableEq, Repr

/-- What a ball carries: a signal of Table 17-1 by its number there, a rail, ground, or nothing (Table 17-2). -/
inductive BallUse where
  | signal (k : Nat) | rail (r : Rail) | vss | reserved
  deriving DecidableEq, Repr

/-- The first row of the five rows of CSI-2 and PDM port `k`: E, L, V and AD. -/
def portRow (k : Nat) : Nat := 5 + 6 * k

/-- The rows of the CSI-2 and PDM ports. -/
def portRows : List Nat := (List.range 4).flatMap fun k => (List.range 5).map fun j => portRow k + j

/-- The signal balls in the order of Table 17-1, each a row number and a column (R444). -/
def signalBalls : List (Nat × Nat) :=
  let pairs (row : Nat) : List (Nat × Nat) := (List.range 8).flatMap fun n => [(row, 20 + 3 * n), (row, 21 + 3 * n)]
  pairs 1 ++ pairs 3 ++ [(1, 44), (1, 45), (4, 44), (4, 45), (4, 46)] ++
  portRows.flatMap (fun r => [(r, 2), (r, 3)]) ++
  (List.range 4).flatMap (fun m => [(portRow m, 5), (portRow m + 1, 5)]) ++
  portRows.map (fun r => (r, 60)) ++
  (List.range 4).flatMap (fun m => [(portRow m, 58), (portRow m + 1, 58), (portRow m + 2, 58)]) ++
  (List.range 16).map (fun n => (59, 20 + 2 * n)) ++ (List.range 7).map (fun n => (60, 20 + 2 * n)) ++
  [(60, 36), (60, 38), (60, 40), (60, 44), (60, 46), (60, 48)] ++
  (List.range 6).map (fun n => (61, 20 + 2 * n)) ++ [(61, 36), (61, 38), (61, 42), (61, 44), (61, 48), (61, 50), (31, 31), (31, 32)]

/-- The reserved balls (Table 17-2). -/
def reservedBalls : List (Nat × Nat) :=
  [(1, 1), (1, 2), (1, 60), (1, 61), (2, 1), (2, 61), (60, 1), (60, 61), (61, 1), (61, 2), (61, 60), (61, 61)]

/-- The rail of the power ball at row `r` and column `c`, none where it is no power ball (Table 17-2). -/
def powerBall (r c : Nat) : Option Rail :=
  let core (x : Nat) : Bool := decide (9 ≤ x) && decide (x ≤ 53)
  let odd (x : Nat) : Bool := x % 2 = 1
  if core r && core c && (r + c) % 2 = 0 && (r, c) ≠ (31, 31) then some .vddCore
  else if (r = 7 || r = 55) && core c && odd c || (c = 7 || c = 55) && core r && odd r then some .vddBond
  else if (r = 8 || r = 54) && [24, 28, 32, 36].contains c then some .vppBond
  else if r = 57 && core c then some (if odd c then .vccNand else .vccqNand)
  else if r = 5 && 20 ≤ c && c ≤ 46 then some .vddPcie
  else if r = 6 && 20 ≤ c && c ≤ 46 && !odd c then some .vddhPcie
  else if c = 4 && portRows.contains r then some .vddaCsi
  else if c = 59 && portRows.contains r || r = 58 && 20 ≤ c && c ≤ 50 && !odd c then some .vio18
  else if r = 58 && 21 ≤ c && c ≤ 35 && odd c then some .vddAon
  else none

/-- What the ball at row `r` and column `c` carries (R444, R445). -/
def ballUse (r c : Nat) : BallUse :=
  match signalBalls.findIdx? (fun x => x = (r, c)), powerBall r c with
  | some k, _ => .signal k
  | none, some x => .rail x
  | none, none => if reservedBalls.contains (r, c) then .reserved else .vss

/-! ### Rails (R446) -/

/-- A rail that CORE_EN switches (Table 17-3). -/
def Rail.switched (r : Rail) : Bool := r ≠ .vddAon && r ≠ .vio18

/-- The operating range of a rail in units of 0.1 mV, for VDD_CORE around the commanded value (Table 17-3). -/
def Rail.range (railMv : Nat) : Rail → Nat × Nat
  | .vddAon => (7275, 7725)
  | .vio18 => (17100, 18900)
  | .vddCore => ((railMv * 1970 + 199) / 200, railMv * 2030 / 200)
  | .vddBond => (10185, 10815)
  | .vppBond => (17100, 18900)
  | .vccNand => (23750, 26250)
  | .vccqNand => (11400, 12600)
  | .vddPcie => (7275, 7725)
  | .vddhPcie => (11640, 12360)
  | .vddaCsi => (11640, 12360)

/-- The groups of outputs of Tables 12-3 and 17-6. -/
inductive OutPin where
  | pdmClk (k : Nat) | tdmClock (k : Nat) | tdmData (k : Nat) | i2c (m : Nat) | canTx (n : Nat) | avs | canStb (n : Nat) | coreEn
  | wakeN | faultN | clkreqN | pcieTx | tdo
  deriving DecidableEq, Repr

namespace State

/-- A rail is on: the board holds the always-on rails in every state but OFF, and CORE_EN switches the others (Table 17-3). -/
def railOn (s : State) (r : Rail) : Bool := s.power.state ≠ 0 && (!r.switched || s.power.coreEn)

/-- The sentinel partition's live pipeline uses camera port `m` (Table 12-2). -/
def sentinelMaster (s : State) (m : Nat) : Bool :=
  (List.range 8).any fun k =>
    (s.sentinel.any fun p => s.rdn 0x6101 (k + 1) = p) && s.rdn 0x6100 (k + 1) < 16 && (s.sensorCfg (s.rdn 0x6100 (k + 1))).port = m

/-- An output is released: it neither drives nor pulls (R322, R460). The TAP's commands are whole scans, so between them TDO is released. -/
def floats (s : State) (o : OutPin) : Bool :=
  let st := s.power.state
  st = 0 ||
  match o with
  | .pdmClk _ => st = 1
  | .tdmData k => st < 3 || s.tdmRate k = 0
  | .tdmClock k => st < 3 || s.tdmRate k = 0 || bit (s.rdn 0x5500 (k + 1)) 8
  | .i2c m => st < 3 || (st = 3 && !s.sentinelMaster m)
  | .canTx _ => st < 3
  | .avs => st < 3
  | .pcieTx => st < 3
  | .canStb _ => false
  | .coreEn => false
  | .wakeN => false
  | .faultN => false
  | .clkreqN => false
  | .tdo => true

/-- The level of CANn_STB in DORMANT and LISTEN: low for the wake controller, high for the other (Table 12-3); the spec gives none elsewhere. -/
def stbLow (s : State) (n : Nat) : Option Bool :=
  if s.power.state = 1 || s.power.state = 2 then some (bits (s.rdn 0x8004 4) 8 8 = n) else none

end State
end Sys2Proof.Machine
end

