-- ==== Sys2Proof/Safety.lean ====
section
/-! DEFINITION. The terms in which claims are stated: what a command completes with, when the device serves its interfaces, and what an accepted access leaves. -/

namespace Sys2Proof

open Sys2Proof.Machine

/-- The command answers a next state, of which `P` holds. -/
def Completes (c : Instr) (s : State) (P : State → Prop) : Prop := ∃ t, Sys2Proof.Machine.exec c s = .next t ∧ P t

/-- Virkin serves (R353, R398), and no hand-off and no restart of a component makes accesses wait (R406, Table 15-11). -/
def Running (s : State) : Prop := s.serves = true ∧ s.link.hold = false ∧ s.link.restarting = []

/-- A write on interface `fn` reaches entry `i:sub`: always on the physical function, on a virtual function for the entries that R418 lets it write, over CAN while the controller's SDO server runs (R431). -/
def Reaches (s : State) (fn : Iface) (i sub : Nat) : Prop :=
  Running s ∧ match fn with
    | .pf => True
    | .vf p => s.vfWrites p.val i sub = true
    | .can n => s.sdoRuns n.val = true

/-- What an access that the device accepts leaves: its effect, and over CAN the server's answer (R432). -/
def answered (fn : Iface) (t : State) : State :=
  match fn with
  | .can n => t.sdoAnswer n.val 0 []
  | _ => t

/-- What an access that the entry's class or range rejects leaves: WRITE_REJECTED through the physical function (R414, R418), an abort over CAN, nothing through a virtual function. -/
def rejected (fn : Iface) (code : Nat) (t : State) : State :=
  match fn with
  | .pf => t.raise 0xF002 0
  | .vf _ => t
  | .can n => t.sdoAnswer n.val code []

/-- What a write of bytes that the device carries out leaves: its effect, the end of the interface's domain transfer with result 0, and over CAN the server's answer (R419, R432). -/
def transferred (fn : Iface) (t : State) : State :=
  match fn with
  | .can n => t.sdoAnswer n.val 0 []
  | _ => t.endDomain (ifaceNo fn) 0

/-- The same where the write of bytes ends with an abort code. -/
def domainEnds (fn : Iface) (code : Nat) (t : State) : State :=
  match fn with
  | .can n => t.sdoAnswer n.val code []
  | _ => t.endDomain (ifaceNo fn) code

/-- The device is OFF, and no rise of AON_PWRGD waits (Table 12-1). -/
def Off (s : State) : Prop := s.power.state = 0 ∧ ∀ straps found, Instr.aonPwrgdRise straps found ∉ s.pending

/-! ### Descriptors -/

/-- The operation code and the descriptor of a command that a seal makes (Table 11-2). -/
def descOf : Instr → Option (Nat × DescImage)
  | .planLoad d _ => some (0x01, d)
  | .planUnload d => some (0x02, d)
  | .invoke d _ => some (0x03, d)
  | .abort d => some (0x04, d)
  | .openStream d => some (0x40, d)
  | .close d => some (0x41, d)
  | .ticket d _ => some (0x42, d)
  | .exportStream d _ _ => some (0x43, d)
  | .importStream d _ _ => some (0x44, d)
  | .seqOpen d => some (0x50, d)
  | .seqClose d => some (0x51, d)
  | .seqFork d => some (0x52, d)
  | .seqTruncate d => some (0x53, d)
  | .attend d _ _ => some (0x54, d)
  | .reprocess d _ => some (0x60, d)
  | .edgeRun d _ => some (0x61, d)
  | _ => none

/-- What the operation reads from host memory with its descriptor. -/
def fetchedBy : Instr → List Byte
  | .exportStream _ record _ => record
  | .importStream _ blob _ => blob
  | .attend _ table _ => table
  | _ => []

/-- The scheduler's choice of stops after a command that can leave a descriptor waiting for tiles (R310). -/
def scheduled : Instr → State → State
  | .invoke d _, t => t.chooseStops d.part.val
  | .attend d _ _, t => t.chooseStops d.part.val
  | _, t => t

/-- The seal lands where the window takes it, in a slot that the device does not hold (R297, R299, R300). -/
def Seals (op : Nat) (d : DescImage) (s : State) : Prop :=
  d.reorderable = false ∧ dOpcode d.raw = op ∧ s.serves = true ∧ s.enabled d.part.val = true ∧
    s.takesSeals d.part.val d.mirror = true ∧ s.findWork d.part.val d.slot.val = none

/-- A taken descriptor as the device holds it. -/
def workOf (d : DescImage) (extra : List Byte) : Work := ⟨d.slot.val, d.raw, d.mirror, .held, extra⟩

/-- The state that has taken the descriptor: its slot's bytes, its place after those taken before, and the count of taken descriptors (R299, R300). -/
def takenState (d : DescImage) (extra : List Byte) (s : State) : State :=
  ((s.setWindow d.part.val d.slot.val d.raw).updPart d.part.val fun x => { x with work := x.work ++ [workOf d extra] }).bump64
    0x7026 (d.part.val + 1) 1

/-- The descriptor is taken, passes the checks at take, and nothing holds it (R299 to R304). -/
def Starts (op : Nat) (d : DescImage) (extra : List Byte) (s : State) : Prop :=
  Seals op d s ∧ State.sealGood d.raw = true ∧ (s.part d.part.val).fenced = false ∧ (takenState d extra s).takeOk d.part.val d.raw = true ∧
    dWaitPipe d.raw = 0xFF ∧ (takenState d extra s).held d.part.val d.slot.val (workOf d extra) = false

/-- The state in which the taken descriptor's operation begins. -/
def begun (d : DescImage) (extra : List Byte) (s : State) : State := (takenState d extra s).setPhase d.part.val d.slot.val .running

/-- The descriptor's request ends in state `u` with a status, a Detail and an Info, and nothing else happens (R306). -/
def endedIn (d : DescImage) (u : State) (status detail info : Nat) : State := u.endWork d.part.val d.slot.val status detail info false

end Sys2Proof
end

