-- ==== Sys2Proof/Certificates/Slice0/Obligations.lean ====
section
/-! DEFINITION. The obligations: what the manual says that the device and its commands do. -/

open Sys2Proof Sys2Proof.Machine

/-! ### The queue, reset and OFF -/

/-- One step takes the command at the front of the queue and runs it with the queue's rest. -/
def Obligations.StepRunsFront : Prop :=
  ∀ (c : Instr) (s : State) (rest : List Instr),
    Sys2Proof.Machine.step { s with pending := c :: rest } = Sys2Proof.Machine.exec c { s with pending := rest }

/-- On an empty queue one microsecond of device time passes, unless the device is OFF (the model's choice, log entry 2). -/
def Obligations.IdleStep : Prop :=
  ∀ s : State, s.pending = [] →
    Sys2Proof.Machine.step s = .next (if s.power.state = 0 then s else { s with time := s.time + 1 })

/-- The device right after a start (R366, R398, Tables 12-1, 13-13, 15-5, 16-1): ACTIVE and NORMAL, with no image running, nothing staged, no partition, no stream, no sequence and no fault record; CommitState reads IDLE, FirmwareState reads NONE, the lease is LAPSED, every entry stands at its default, the memories list nothing out of form, and no command waits. -/
def Obligations.ResetState : Prop :=
  State.reset.power.state = 4 ∧ State.reset.faults.mode = .normal ∧ State.reset.faults.records = [] ∧ State.reset.faults.faultN = false ∧
  State.reset.link.image = none ∧ State.reset.rdn 0x2200 1 = 0 ∧ State.reset.rdn 0xF000 2 = 0 ∧ State.reset.lease = 0 ∧ State.reset.staged = [] ∧
  (∀ p, State.reset.part p = Part.empty ∧ (p < 128 → State.reset.enabled p = false)) ∧ (∀ n, State.reset.stream n = Stream.free) ∧
  (∀ q, State.reset.seq q = Seq.free) ∧ (∀ n, State.reset.can n = Can.off) ∧ State.reset.pending = [] ∧ State.reset.serves = false ∧
  (∀ i j, j < 256 → State.reset.rd i j = Od.default (odKey 0 i j)) ∧ NMap.wf Od.default State.reset.od ∧ State.reset.mem.wf

/-- Starts (R22, R354, R395, R398, R427, Table 15-5): a rise of AON_PWRGD on a device that is OFF, a function-level reset of the physical function, and PERST_N outside D3cold start the device: ACTIVE, NORMAL, no image, no partition work, no stream, no sequence, with the straps read, the starts counted and every rwp entry kept. A rise on a powered device changes nothing; time starts at zero only after OFF. A kept device in D3cold loses its link alone. The function-level reset of a virtual function (R394, Table 15-14): what its partition has taken ends without a record, its plans and its ring go, its Bus Master Enable is clear, and no other partition changes; during a hold it waits. Loss of power (R145, R449, R460, Table 12-1): a fall of AON_PWRGD and the loss of VDD_AON put a powered device OFF with every rail off and every output released; only the second is an unclean stop; the dictionary and the bedrock stay as they were. -/
def Obligations.StartsAndStops : Prop :=
  (∀ (s : State) (straps : BitVec 7) (found : StartFinds),
    let started (t : State) : Prop :=
      t.power.state = 4 ∧ t.parts = [] ∧ t.streams = [] ∧ t.groups = [] ∧ t.seqs = [] ∧ t.pools = [] ∧ t.cans = [] ∧ t.staged = [] ∧ t.xfer = [] ∧
      t.pending = s.pending ∧ t.faults.mode = .normal ∧ t.rdn 0x2200 1 = 0 ∧ t.link.image = none ∧ t.rdn 0x2010 4 = straps.toNat ∧
      t.rdn 0xA000 6 = (s.rdn 0xA000 6 + 1) % 4294967296 ∧ ∀ i sub, i < 65536 → sub < 256 → Od.isRwp i sub = true → t.rd i sub = s.rd i sub
    (s.power.state ≠ 0 → Sys2Proof.Machine.exec (.aonPwrgdRise straps found) s = .next s) ∧
    (s.power.state = 0 → Sys2Proof.Machine.exec (.pfFlr straps found) s = .next s ∧
      Sys2Proof.Machine.exec (.perstAssert straps found) s = .next { s with link := { s.link with perst := true } }) ∧
    (s.power.state ≠ 0 → s.link.dstate = 4 → s.rdn 0x2102 2 = 1 → s.faults.mode ≠ .halted → Completes (.perstAssert straps found) s fun t =>
      t.link.perst = true ∧ t.link.width = 0 ∧ t.link.bme = [] ∧ t.link.numVfs = 0 ∧ t.rd 0x2101 1 = s.rd 0x2101 1 ||| 0x20 ∧
      t.power = s.power ∧ t.parts = s.parts ∧ t.streams = s.streams ∧ t.seqs = s.seqs ∧ t.mem = s.mem) ∧
    (found.failed = [] → found.class3 = false → found.badPages = [] →
      (s.power.state = 0 → Completes (.aonPwrgdRise straps found) s fun t =>
        started t ∧ t.time = 0 ∧ t.rdn 0xA000 5 = (s.rdn 0xA000 5 + 1) % 4294967296) ∧
      (s.power.state ≠ 0 → Completes (.pfFlr straps found) s fun t => started t ∧ t.time = s.time ∧ t.link.perst = s.link.perst) ∧
      (s.power.state ≠ 0 → (s.link.dstate ≠ 4 ∨ s.rdn 0x2102 2 ≠ 1 ∨ s.faults.mode = .halted) → Completes (.perstAssert straps found) s fun t =>
        started t ∧ t.time = s.time ∧ t.link.perst = true))) ∧
  (∀ (s : State) (p : Fin 128),
    (s.alive = false → Sys2Proof.Machine.exec (.vfFlr p) s = .next s) ∧
    (s.alive = true → s.link.hold = true → Sys2Proof.Machine.exec (.vfFlr p) s =
      .next { s with link := { s.link with heldFlrs := s.link.heldFlrs ++ [p.val] } }) ∧
    (s.alive = true → s.link.hold = false → Completes (.vfFlr p) s fun t =>
      (t.part p.val).work = [] ∧ (t.part p.val).waiting = [] ∧ (t.part p.val).invs = [] ∧ (t.part p.val).plans = [] ∧
      t.rdn 0x7019 (p.val + 1) = 0 ∧ t.rdn 0x701A (p.val + 1) = 0 ∧ p.val + 1 ∉ t.link.bme ∧
      (∀ n ∈ s.openStreams p.val, s.feedHolds n = false → (t.stream n).state = .free) ∧ ∀ q, q ≠ p.val → t.part q = s.part q)) ∧
  (∀ s : State,
    let dark (clean : Bool) (t : State) : Prop :=
      t.power.state = 0 ∧ t.power.coreEn = false ∧ t.link.wakeN = false ∧ t.faults.faultN = false ∧ t.tap = ⟨.idcode, 0⟩ ∧
      (∀ o, t.floats o = true) ∧ (∀ r, t.railOn r = false) ∧ t.persist = { s.persist with unclean := !clean } ∧ t.od = s.od ∧ t.bedrock = s.bedrock ∧ t.pending = s.pending ∧ t.alive = false
    (s.power.state ≠ 0 → Completes .aonPwrgdFall s (dark true) ∧ Completes .vddAonLoss s (dark false)) ∧
    (s.power.state = 0 → Sys2Proof.Machine.exec .aonPwrgdFall s = .next s ∧ Sys2Proof.Machine.exec .vddAonLoss s = .next s))

/-- A device that is OFF (Table 12-1): no command acts on it but a rise of AON_PWRGD, and PERST_N moves nothing but its own level and WAKE_N; so it stays OFF. -/
def Obligations.OffStays : Prop :=
  (∀ (c : Instr) (s : State), s.power.state = 0 → (∀ a b, c ≠ .aonPwrgdRise a b) → (∀ a b, c ≠ .perstAssert a b) → c ≠ .perstDeassert →
    Sys2Proof.Machine.exec c s = .next s ∨ Sys2Proof.Machine.exec c s = .fault .sealReordered) ∧
  (∀ s t : State, Off s → Sys2Proof.Machine.step s = .next t → Off t)

/-! ### The object dictionary -/

/-- DICTIONARY_WRITE by the access class of the entry (Table 16-2, R414, R416, R421): a write whose enabled bytes cover the entry is rejected for a const or ro entry, clears bits of a w1c entry, stages an rws entry, and sets an rw entry to the value that its range gives; one that covers fewer bytes is discarded with PARTIAL_WRITE. -/
def Obligations.DictionaryWriteByClass : Prop :=
  ∀ (s : State) (fn : Iface) (e : Entry) (en : Byte) (v : W64) (r : Od.Row),
    let i := e.index.toNat
    let j := e.sub.toNat
    let w := Od.Ty.bytes r.ty
    let x := v &&& BitVec.ofNat 64 r.mask
    Reaches s fn i j → Od.lookup i j = some r → w ≠ 0 →
    (en.toNat % 2 ^ w = 2 ^ w - 1 →
      (r.acc = .const ∨ r.acc = .ro →
        Sys2Proof.Machine.exec (.dictionaryWrite fn e en v) s = .next (rejected fn 0x06010002 s)) ∧
      (r.acc = .w1c → s.featureDiscards i j = false →
        Sys2Proof.Machine.exec (.dictionaryWrite fn e en v) s = .next (answered fn (s.wr i j (s.rd i j &&& ~~~x)))) ∧
      (r.acc = .rws → s.featureDiscards i j = false → ∃ t,
        Sys2Proof.Machine.exec (.dictionaryWrite fn e en v) s = .next (answered fn t) ∧
        (∀ k, NMap.get (fun _ => none) t.staged k = if k = odKey 0 i j then some x else NMap.get (fun _ => none) s.staged k) ∧
        { t with staged := s.staged, snap := s.snap } = s) ∧
      (r.acc = .rw → i ≠ 0x1003 → i ≠ 0x1011 → i ≠ 0x7019 → i ≠ 0x8002 →
        Sys2Proof.Machine.exec (.dictionaryWrite fn e en v) s = .next (match s.judgeRw i j x.toNat with
          | .ok y => answered fn (s.wrI (State.copyOf fn i j) i j (BitVec.ofNat 64 y))
          | .error c => rejected fn c s))) ∧
    (en.toNat % 2 ^ w ≠ 2 ^ w - 1 →
      Sys2Proof.Machine.exec (.dictionaryWrite .pf e en v) s = .next (s.raise 0xF002 1) ∧
      ∀ p, Sys2Proof.Machine.exec (.dictionaryWrite (.vf p) e en v) s = .next s)

/-- RWP_WRITE (R425, R426): a locked entry rejects the write; a value that its range refuses is rejected; a value that the entry holds already is neither written nor counted; any other is stored and counted, and the 1 000 000th stored write locks the entry and sets ENTRY_LOCKED. The count and the lock of the entry that PersistSelect names read in PersistWrites and PersistLocked; a selection that names no rwp entry reads 0 in both. -/
def Obligations.RwpWriteStores : Prop :=
  ∀ (s : State) (fn : Iface) (e : Entry) (en : Byte) (v : W64) (r : Od.Row),
    let i := e.index.toNat
    let j := e.sub.toNat
    let w := Od.Ty.bytes r.ty
    let x := (v &&& BitVec.ofNat 64 r.mask).toNat
    let key := odKey 0 i j
    let count (t : State) := NMap.get (fun _ => 0) t.persist.writes key
    Reaches s fn i j → Od.lookup i j = some r → r.acc = .rwp → w ≠ 0 → en.toNat % 2 ^ w = 2 ^ w - 1 →
    (key ∈ s.persist.locked →
      Sys2Proof.Machine.exec (.rwpWrite fn e en v) s = .next (rejected fn 0x08000020 s)) ∧
    (key ∉ s.persist.locked → ∀ c, c ≠ 0 → s.judgeRwp fn i j x = .error c →
      Sys2Proof.Machine.exec (.rwpWrite fn e en v) s = .next (rejected fn c s)) ∧
    (key ∉ s.persist.locked → ∀ y, s.judgeRwp fn i j x = .ok y → s.rd i j = BitVec.ofNat 64 y →
      Sys2Proof.Machine.exec (.rwpWrite fn e en v) s = .next (answered fn s)) ∧
    (key ∉ s.persist.locked → ∀ y, s.judgeRwp fn i j x = .ok y → s.rd i j ≠ BitVec.ofNat 64 y → ∃ t,
      Sys2Proof.Machine.exec (.rwpWrite fn e en v) s = .next (answered fn t) ∧
      t.rd i j = BitVec.ofNat 64 y ∧ count t = count s + 1 ∧
      (key ∈ t.persist.locked ↔ 1000000 ≤ count s + 1) ∧
      (1000000 ≤ count s + 1 → t.rd 0xF002 1 = s.rd 0xF002 1 ||| 8) ∧
      (∀ i' j', j' < 256 → odKey 0 i' j' ≠ key → i' ≠ 0xF002 → t.rd i' j' = s.rd i' j') ∧
      t.mem = s.mem ∧ t.staged = s.staged ∧ t.parts = s.parts) ∧
    (∀ f : Iface, (s.rdI (ifaceNo f) 0xF020 1).toNat = i * 65536 + j * 256 →
      s.value f 0xF020 2 = count s ∧ s.value f 0xF020 4 = if key ∈ s.persist.locked then 1 else 0) ∧
    (∀ (f : Iface) (a b c : Nat), a < 65536 → b < 256 → c < 256 → (s.rdI (ifaceNo f) 0xF020 1).toNat = a * 65536 + b * 256 + c →
      (c ≠ 0 ∨ Od.isRwp a b = false) → s.value f 0xF020 2 = 0 ∧ s.value f 0xF020 4 = 0)

/-- RESTORE_DEFAULTS (R413, Table 16-8): the signature returns every rwp entry that is not locked to its default; another value is rejected. -/
def Obligations.RestoreDefaults : Prop :=
  ∀ (s : State) (fn : Iface), Reaches s fn 0x1011 1 →
    (∃ t, Sys2Proof.Machine.exec (.restoreDefaults fn 0x64616F6C) s = .next (answered fn t) ∧
      (∀ i j, i < 65536 → j < 256 → Od.isRwp i j = true → odKey 0 i j ∉ s.persist.locked → t.rd i j = Od.default (odKey 0 i j)) ∧
      (∀ i j, j < 256 → (Od.isRwp i j = false ∨ odKey 0 i j ∈ s.persist.locked) → i ≠ 0xF002 → t.rd i j = s.rd i j) ∧
      t.mem = s.mem ∧ t.staged = s.staged ∧ t.parts = s.parts) ∧
    ∀ v : W32, v ≠ 0x64616F6C → Sys2Proof.Machine.exec (.restoreDefaults fn v) s = .next (rejected fn 0x06090030 s)

/-- COMMIT and DISCARD (R422, R424): while CommitState reads EVALUATING every write to the entry is rejected; a COMMIT with nothing staged sets NOTHING_STAGED; another takes the snapshot and sets EVALUATING; DISCARD empties the staged set and sets DISCARDED; a start empties it, and a live update keeps it. -/
def Obligations.CommitAndDiscard : Prop :=
  (∀ (s : State) (fn : Iface), Reaches s fn 0xF000 1 →
    (s.rdn 0xF000 2 = 1 →
      Sys2Proof.Machine.exec (.commit fn) s = .next (rejected fn 0x08000022 s) ∧
      Sys2Proof.Machine.exec (.discard fn) s = .next (rejected fn 0x08000022 s) ∧
      ∀ (en : Byte) (v : W64), en.toNat % 2 = 1 →
        Sys2Proof.Machine.exec (.dictionaryWrite fn ⟨0xF000, 1⟩ en v) s = .next (rejected fn 0x08000022 s)) ∧
    (s.rdn 0xF000 2 ≠ 1 →
      (s.staged = [] → s.stagedDom = [] → Sys2Proof.Machine.exec (.commit fn) s = .next (answered fn (s.wrn 0xF000 2 4))) ∧
      (s.staged ≠ [] ∨ s.stagedDom ≠ [] → Sys2Proof.Machine.exec (.commit fn) s =
        .next (answered fn { s.wrn 0xF000 2 1 with snap := some ⟨s.staged, s.stagedDom, []⟩ })) ∧
      Sys2Proof.Machine.exec (.discard fn) s = .next (answered fn { s.wrn 0xF000 2 5 with staged := [], stagedDom := [] }))) ∧
  (∀ (s : State) (straps : BitVec 7) (found : StartFinds),
    (s.power.state = 0 → Completes (.aonPwrgdRise straps found) s fun t => t.staged = [] ∧ t.stagedDom = []) ∧
    (s.power.state ≠ 0 → Completes (.pfFlr straps found) s fun t => t.staged = [] ∧ t.stagedDom = []) ∧
    (s.power.state ≠ 0 → s.link.dstate ≠ 4 → Completes (.perstAssert straps found) s fun t => t.staged = [] ∧ t.stagedDom = [])) ∧
  (∀ (s : State) (i : Image) (ok : Bool), s.serves = true → s.link.hold = true → s.link.update = some i → s.link.heldWrites = [] →
    Completes (.handoffAdopt ok) s fun t => t.staged = s.staged ∧ t.stagedDom = s.stagedDom)

/-- A commit that a row of the combination table rejects (R423) changes no running value and keeps the staged set, and reports the row's code, its pair and the first object that failed. -/
def Obligations.RejectedCommit : Prop :=
  ∀ (s : State) (x : Snapshot) (code first second object : Nat), Running s → s.snap = some x →
    State.combination s (s.candidateOf x) = some (code, first, second, object) →
    code < 4294967296 → first < 4294967296 → second < 4294967296 → object < 4294967296 →
    Completes .commitEvaluated s fun t =>
      t.staged = s.staged ∧ t.stagedDom = s.stagedDom ∧ t.dom = s.dom ∧
      (∀ i j, i ≠ 0xF000 → i ≠ 0xF002 → j < 256 → t.rd i j = s.rd i j) ∧
      t.rdn 0xF000 2 = 3 ∧ t.rd 0xF002 1 = s.rd 0xF002 1 ||| 4 ∧
      t.rdn 0xF000 3 = code ∧ t.rdn 0xF000 4 = first ∧ t.rdn 0xF000 5 = second ∧ t.rdn 0xF000 6 = object ∧
      { t with od := s.od, snap := s.snap } = s

/-- A commit that every row passes (R422): each value of the snapshot is the running value, no other entry's value changes but what the applied configuration itself computes (SlotGap, the tile flags, GroupMaxAdmitMicros of a group bound anew, the commit's own report), CommitState is APPLIED, CommitCount rises by 1, and of the staged set what was staged after the snapshot stays. -/
def Obligations.AppliedCommit : Prop :=
  ∀ (s : State) (x : Snapshot), Running s → s.snap = some x → State.combination s (s.candidateOf x) = none →
    Completes .commitEvaluated s fun t =>
      (∀ i j, i ≠ 0x3001 → i ≠ 0x4411 → i ≠ 0x510A → i ≠ 0xF000 → j < 256 →
        (∀ v, x.vals.Pairwise (fun a b => a.1 < b.1) → (odKey 0 i j, some v) ∈ x.vals → t.rd i j = v) ∧
        (odKey 0 i j ∉ NMap.keys x.vals → t.rd i j = s.rd i j)) ∧
      t.rdn 0xF000 2 = 2 ∧ (odKey 0 0xF000 8 ∉ NMap.keys x.vals → t.rdn 0xF000 8 = (s.rdn 0xF000 8 + 1) % 4294967296) ∧ t.rdn 0xF000 9 = s.time % 18446744073709551616 ∧ t.snap = none ∧
      (∀ y ∈ t.staged, y ∈ s.staged ∧ (y.1 ∈ x.later ∨ y.1 ∉ NMap.keys x.vals)) ∧
      (∀ y ∈ s.staged, (y.1 ∈ x.later ∨ y.1 ∉ NMap.keys x.vals) → y ∈ t.staged)

/-- DOMAIN_READ and DOMAIN_WRITE (R419, R420): a command while a transfer runs is refused; READ takes a snapshot of the value and reports its length, or ends at once with the abort code that the read meets or with 0x06070012 where the buffer is short; WRITE starts a transfer. -/
def Obligations.DomainCommands : Prop :=
  ∀ (s : State) (fn : Iface), Reaches s fn 0xF010 4 →
    let k := ifaceNo fn
    let e := (s.rdI k 0xF010 1).toNat
    let n := (s.rdI k 0xF010 3).toNat
    let a := s.rdI k 0xF010 2
    let running (t : State) (write : Bool) (data : List Byte) : State :=
      ({ t with xfer := NMap.set (fun _ => none) s.xfer k (some ⟨bits e 31 16, bits e 15 8, write, n, a, data⟩) }).wrI k 0xF010 5 1
    let failed (t : State) (c : Nat) : State :=
      ((({ t with xfer := NMap.set (fun _ => none) s.xfer k none }).wrI k 0xF010 6 (BitVec.ofNat 64 c)).wrI k 0xF010 5 3).raise 0xF002 6
    (s.xferOf k = none →
      Sys2Proof.Machine.exec (.domainWrite fn) s = .next (answered fn (running s true [])) ∧
      (∀ bs, s.readEntry fn (bits e 31 16) (bits e 15 8) = .ok bs →
        Sys2Proof.Machine.exec (.domainRead fn) s = .next (answered fn (
          if n < bs.length then failed (s.wrI k 0xF010 7 (BitVec.ofNat 64 bs.length)) 0x06070012
          else running (s.wrI k 0xF010 7 (BitVec.ofNat 64 bs.length)) false bs))) ∧
      (∀ c, c ≠ 0 → s.readEntry fn (bits e 31 16) (bits e 15 8) = .error c →
        Sys2Proof.Machine.exec (.domainRead fn) s = .next (answered fn (failed s c)))) ∧
    (∀ x, s.xferOf k = some x →
      let refused : State := match fn with
        | .can m => s.sdoAnswer m.val 0x08000022 []
        | _ => s
      Sys2Proof.Machine.exec (.domainRead fn) s = .next refused ∧ Sys2Proof.Machine.exec (.domainWrite fn) s = .next refused)

/-- DOMAIN_ABORT (R420): a running transfer ends ABORTED and its interface has none; without one nothing changes. The result that the entry then reads is a free value (log entry 20). DOMAIN_TRANSFER_DONE (R419, R420): a read's snapshot stands in host memory at DomainHostAddress and the transfer is DONE with result 0; a write of an rws domain, of the length that the entry takes, stages the bytes that the device read and is DONE. -/
def Obligations.DomainEndings : Prop :=
  (∀ (s : State) (fn : Iface), Reaches s fn 0xF010 4 →
    (s.xferOf (ifaceNo fn) = none → Sys2Proof.Machine.exec (.domainAbort fn) s = .next (answered fn s)) ∧
    (∀ x, s.xferOf (ifaceNo fn) = some x → ∃ t, Sys2Proof.Machine.exec (.domainAbort fn) s = .next (answered fn t) ∧
      t.xferOf (ifaceNo fn) = none ∧ t.rdI (ifaceNo fn) 0xF010 5 = 3 ∧
      (t.rdI (ifaceNo fn) 0xF010 6).toNat = (Config.freeW32 s.free).toNat ∧
      t.mem = s.mem ∧ t.staged = s.staged ∧ t.stagedDom = s.stagedDom ∧ t.parts = s.parts)) ∧
  (∀ (s : State) (fn : Iface) (x : Xfer) (data : List Byte), Running s → s.xferOf (ifaceNo fn) = some x →
    s.busMaster (State.ifaceFn fn) = true →
    (x.write = false → Completes (.domainTransferDone fn data false) s fun t =>
      t.mem = { s.mem with host := State.hostWrite s.mem.host (s.ifaceAddr fn x.addr.toNat) x.data } ∧
      t.xferOf (ifaceNo fn) = none ∧ t.rdI (ifaceNo fn) 0xF010 5 = 2 ∧ t.rdI (ifaceNo fn) 0xF010 6 = 0 ∧
      t.staged = s.staged ∧ t.stagedDom = s.stagedDom ∧ t.parts = s.parts) ∧
    (∀ r, x.write = true → (∀ p, fn ≠ .vf p) → Od.lookup x.index x.sub = some r → Od.Ty.bytes r.ty = 0 → r.acc = .rws →
      State.domLengthCode x.index x.bytes = 0 → data.length = x.bytes → s.featureDiscards x.index x.sub = false →
      Completes (.domainTransferDone fn data false) s fun t =>
        NMap.get (fun _ => none) t.stagedDom (odKey 0 x.index x.sub) = some data ∧
        t.xferOf (ifaceNo fn) = none ∧ t.rdI (ifaceNo fn) 0xF010 5 = 2 ∧ t.rdI (ifaceNo fn) 0xF010 6 = 0 ∧
        t.dom = s.dom ∧ t.staged = s.staged ∧ t.parts = s.parts))

/-- NEGOTIATE (R401, R403): with a descriptor or chunk taken the state is 3; where the driver's major differs from the image's on some interface, the state is 2 and the first such interface is reported; otherwise the state is 1, the active features are those of both sides, and each interface has the lower minor. -/
def Obligations.Negotiation : Prop :=
  ∀ (s : State) (fn : Iface), Reaches s fn 0x2201 4 →
    (s.anyTaken = true → Sys2Proof.Machine.exec (.negotiate fn) s = .next (answered fn (s.wrn 0x2201 5 3))) ∧
    (s.anyTaken = false →
      (∀ n, 1 ≤ n → n ≤ 6 → s.ifaceAgree n = none → (∀ m, 1 ≤ m → m < n → s.ifaceAgree m ≠ none) →
        Sys2Proof.Machine.exec (.negotiate fn) s = .next (answered fn ((s.wrn 0x2201 5 2).wrn 0x2201 6 n))) ∧
      ((∀ n, 1 ≤ n → n ≤ 6 → s.ifaceAgree n ≠ none) → ∃ t,
        Sys2Proof.Machine.exec (.negotiate fn) s = .next (answered fn t) ∧
        t.rdn 0x2201 5 = 1 ∧ t.rd 0x2201 3 = s.rd 0x2201 1 &&& s.rd 0x2201 2 ∧ t.link.negotiated = true ∧
        (∀ n v, 1 ≤ n → n ≤ 6 → s.ifaceAgree n = some v → t.rdn 0x2204 n = v % 18446744073709551616) ∧
        t.mem = s.mem ∧ t.parts = s.parts))

/-- The statistics commands (R86): SNAPSHOT and SNAPSHOT_CLEAR copy the selected set into the interface's snapshot entries with the device time; SNAPSHOT_CLEAR and CLEAR leave the set zero; a selection beyond the window gives zeros and clears nothing. No other set changes. The stream statistics commands (R178), likewise over the selected stream's record. -/
def Obligations.Statistics : Prop :=
  (∀ (s : State) (fn : Iface), Reaches s fn 0x3600 2 →
    let k := ifaceNo fn
    let sel := s.statSelected fn
    let copied (t : State) : Prop :=
      (∀ j, j < 8 → t.rdI k 0x3601 (j + 1) =
        BitVec.ofNat 64 (((State.statFields ((sel.map s.statSet).getD StatSet.none))[j]?).getD 0)) ∧
      t.rdI k 0x3600 3 = BitVec.ofNat 64 s.time
    let cleared (t : State) : Prop := ∀ m, t.statSet m = if sel = some m then StatSet.none else s.statSet m
    (∃ t, Sys2Proof.Machine.exec (.statSnapshot fn) s = .next (answered fn t) ∧ copied t ∧ t.stats = s.stats ∧ t.streams = s.streams) ∧
    (∃ t, Sys2Proof.Machine.exec (.statSnapshotClear fn) s = .next (answered fn t) ∧ copied t ∧ cleared t ∧ t.streams = s.streams) ∧
    (∃ t, Sys2Proof.Machine.exec (.statClear fn) s = .next (answered fn t) ∧ cleared t ∧ t.od = s.od ∧ t.streams = s.streams)) ∧
  (∀ (s : State) (fn : Iface), Reaches s fn 0x5400 2 →
    let k := ifaceNo fn
    let sel := s.streamSelected fn
    let copied (t : State) : Prop := ∀ j, j < 8 → t.rdI k 0x5401 (j + 1) =
      BitVec.ofNat 64 (((State.statFields ((sel.map fun n => (s.stream n).stats).getD StatSet.none))[j]?).getD 0)
    let cleared (t : State) : Prop :=
      ∀ m, t.stream m = if sel = some m then { s.stream m with stats := StatSet.none } else s.stream m
    (∃ t, Sys2Proof.Machine.exec (.streamStatSnapshot fn) s = .next (answered fn t) ∧ copied t ∧ t.streams = s.streams ∧ t.stats = s.stats) ∧
    (∃ t, Sys2Proof.Machine.exec (.streamStatSnapshotClear fn) s = .next (answered fn t) ∧ copied t ∧ cleared t ∧ t.stats = s.stats) ∧
    (∃ t, Sys2Proof.Machine.exec (.streamStatClear fn) s = .next (answered fn t) ∧ cleared t ∧ t.od = s.od ∧ t.stats = s.stats))

/-- TILE_CLOCK_REQUEST_WRITE, HOST_CLOCK_LIMIT_WRITE and RAIL_TARGET_WRITE (R34, R331, R338): a clock rounds down to a multiple of 25 MHz and clamps to 200 to 1 800 MHz; a rail target clamps to 200 to 1 800 MHz; after a write of 8002 the device commands the rail voltage that follows from it. -/
def Obligations.ClockWrites : Prop :=
  ∀ (s : State) (fn : Iface) (tile : Fin 512) (v : W16) (watch : Bool),
    let c := max 200 (min 1800 (v.toNat / 25 * 25))
    let m := max 200 (min 1800 v.toNat)
    let j := if watch then 7 else 6
    (Reaches s fn (0x3110 + tile.val / 128) (tile.val % 128 + 1) →
      Sys2Proof.Machine.exec (.tileClockRequestWrite fn tile v) s =
        .next (answered fn (s.wrn (0x3110 + tile.val / 128) (tile.val % 128 + 1) c))) ∧
    (Reaches s fn 0x8002 5 → ∃ t, Sys2Proof.Machine.exec (.hostClockLimitWrite fn v) s = .next (answered fn t) ∧
      t.od = (s.wrn 0x8002 5 c).od ∧ (3 ≤ s.power.state → t.power.railMv = t.railVolts) ∧ t.mem = s.mem ∧ t.parts = s.parts) ∧
    (Reaches s fn 0x8002 j → ∃ t, Sys2Proof.Machine.exec (.railTargetWrite fn watch v) s = .next (answered fn t) ∧
      t.od = (s.wrn 0x8002 j m).od ∧ (3 ≤ s.power.state → t.power.railMv = t.railVolts) ∧ t.mem = s.mem ∧ t.parts = s.parts)

/-! ### Partitions, descriptors and records -/

/-- Taking a descriptor (R299, R300, R301 step 1, R315), of any operation: a seal that an earlier write could be reordered behind has no defined effect (R389) and stops; a landed seal that the window does not take, or whose slot the device holds, is dropped and counted; a bad seal leaves bytes only; a fenced partition answers FENCED and a bad image FORMAT; a descriptor that something holds waits taken. -/
def Obligations.DescriptorTake : Prop :=
  ∀ (s : State) (c : Instr) (op : Nat) (d : DescImage), descOf c = some (op, d) →
    let p := d.part.val
    let t := takenState d (fetchedBy c) s
    (d.reorderable = true → Sys2Proof.Machine.exec c s = .fault .sealReordered) ∧
    (d.reorderable = false → dOpcode d.raw = op → s.serves = true → s.enabled p = true →
      (s.takesSeals p d.mirror = false ∨ s.findWork p d.slot.val ≠ none) →
        Sys2Proof.Machine.exec c s = .next (scheduled c ((s.bump32 0x7027 (p + 1) 1).raise 0x7001 0))) ∧
    (Seals op d s →
      (State.sealGood d.raw = false → Sys2Proof.Machine.exec c s = .next (scheduled c (s.setWindow p d.slot.val d.raw))) ∧
      (State.sealGood d.raw = true →
        ((s.part p).fenced = true → Sys2Proof.Machine.exec c s = .next (scheduled c (endedIn d t 0x70 0 0))) ∧
        ((s.part p).fenced = false → t.takeOk p d.raw = false → Sys2Proof.Machine.exec c s = .next (scheduled c (endedIn d t 0x12 0 0))) ∧
        ((s.part p).fenced = false → t.takeOk p d.raw = true → op ≠ 0x04 → dWaitPipe d.raw = 0xFF →
          t.held p d.slot.val (workOf d (fetchedBy c)) = true → Sys2Proof.Machine.exec c s = .next (scheduled c t))))

/-- A window write (R299, R300) within one slot: dropped and counted where the window takes nothing or the device holds the slot; otherwise the bytes land, and a write that covers the whole Seal is judged as a seal. DESCRIPTOR_START (R303, R304, R310), where no plan load whose image has been read waits for a tile: of the taken descriptors that nothing holds any more, one of the highest priority starts; with none, the device only chooses its stops. -/
def Obligations.DescriptorWindows : Prop :=
  (∀ (s : State) (p : Fin 128) (mirror : Bool) (o : Fin 8192) (bs : List Byte), s.serves = true → s.enabled p.val = true →
    bs ≠ [] → o.val % 128 + bs.length ≤ 128 →
    let j := o.val / 128
    let raw := State.slotWith (NMap.get (fun _ => 0) (s.part p.val).window j) (o.val % 128) bs
    ((s.takesSeals p.val mirror = false ∨ s.findWork p.val j ≠ none) → Sys2Proof.Machine.exec (.descriptorWindowWrite p mirror o bs) s =
      .next (((s.bump32 0x7027 (p.val + 1) 1).raise 0x7001 0).chooseStops p.val)) ∧
    (s.takesSeals p.val mirror = true → s.findWork p.val j = none →
      ((124 < o.val % 128 ∨ o.val % 128 + bs.length < 128) → Sys2Proof.Machine.exec (.descriptorWindowWrite p mirror o bs) s =
        .next ((s.setWindow p.val j raw).chooseStops p.val)) ∧
      (o.val % 128 ≤ 124 → o.val % 128 + bs.length = 128 → Sys2Proof.Machine.exec (.descriptorWindowWrite p mirror o bs) s =
        .next ((s.judgeSeal p.val j mirror raw).chooseStops p.val)))) ∧
  (∀ (s : State) (p : Fin 128) (met : Met), s.serves = true → (∀ j ∈ (s.part p.val).loads, j.left ≠ []) →
    ((∀ w ∈ (s.part p.val).work, s.canStart p.val w = false) → Sys2Proof.Machine.exec (.descriptorStart p met) s = .next (s.chooseStops p.val)) ∧
    ((∃ w ∈ (s.part p.val).work, s.canStart p.val w = true) →
      ∃ w ∈ (s.part p.val).work, s.canStart p.val w = true ∧
        (∀ x ∈ (s.part p.val).work, s.canStart p.val x = true → dPriority x.raw ≤ dPriority w.raw) ∧
        Sys2Proof.Machine.exec (.descriptorStart p met) s = .next ((s.tryStart p.val w.slot (State.startWork met)).chooseStops p.val)))

/-- COMPLETION_HEAD_WRITE (R307): a head beyond what the ring can hold behind its tail is ignored and sets RING_HEAD_BAD; another is taken, and records that waited are written in their order. HELD_RECORD_WRITE (R306, R308, R309): the oldest record that waits is written to the ring's next entry with the phase of its pass, the tail rises by 1, and the descriptor's slot is released. -/
def Obligations.CompletionRecords : Prop :=
  (∀ (s : State) (fn : Iface) (p : Fin 128) (v : W32), Reaches s fn 0x7019 (p.val + 1) →
    let ahead := (s.rdn 0x701A (p.val + 1) + 4294967296 - v.toNat) % 4294967296
    (s.rdn 0x7018 (p.val + 1) < ahead →
      Sys2Proof.Machine.exec (.completionHeadWrite fn p v) s = .next (answered fn (s.raise 0x7001 2))) ∧
    (ahead ≤ s.rdn 0x7018 (p.val + 1) →
      ((s.part p.val).waiting = [] →
        Sys2Proof.Machine.exec (.completionHeadWrite fn p v) s = .next (answered fn (s.wrn 0x7019 (p.val + 1) v.toNat))) ∧
      Sys2Proof.Machine.exec (.completionHeadWrite fn p v) s = .next (answered fn ((s.wrn 0x7019 (p.val + 1) v.toNat).flush p.val)))) ∧
  (∀ (s : State) (p : Fin 128) (r : Record), s.alive = true → (s.part p.val).waiting = [r] → r.pre = [] → r.irq = none → r.chunk = false →
    s.canWrite p.val r = true → 0 < s.rdn 0x7018 (p.val + 1) →
    Completes (.heldRecordWrite p) s fun t =>
      t.rdn 0x701A (p.val + 1) = (s.rdn 0x701A (p.val + 1) + 1) % 4294967296 ∧
      (t.part p.val).waiting = [] ∧
      (t.part p.val).work = (s.part p.val).work.filter (fun w => w.slot ≠ r.slot) ∧
      (let a := s.busAddr p.val (s.rdn 0x7017 (p.val + 1)) + 32 * (s.rdn 0x701A (p.val + 1) % s.rdn 0x7018 (p.val + 1))
       let phase : Bool := s.rdn 0x701A (p.val + 1) / s.rdn 0x7018 (p.val + 1) % 2 = 0
       t.mem = { s.mem with host := State.hostWrite s.mem.host a (State.recordBytes r phase) }) ∧
      (∀ q, q ≠ p.val → t.part q = s.part q) ∧ t.streams = s.streams ∧ t.staged = s.staged)

/-- Device host reads (R112, R392, R393): a completion delivers its bytes; an error is reported over AER and ends the request that read, here the interface's domain transfer; a timeout sets CPL_TIMEOUT as well; a millisecond's losses are added to the counters and join the last 100 (R313). -/
def Obligations.HostReads : Prop :=
  ∀ (s : State) (fn : Iface) (addr : W64) (data : List Byte), s.alive = true →
    (Sys2Proof.Machine.exec (.hostReadCompletion fn addr .ok data) s =
      .next { s with mem := { s.mem with host := State.hostWrite s.mem.host addr.toNat data } }) ∧
    (∀ st name, State.aerOf st = some name → s.xferReading fn addr.toNat = true →
      (Sys2Proof.Machine.exec (.hostReadCompletion fn addr st data) s = .next (((s.emit (.aer name)).raise 0x4001 10).cutDomain (ifaceNo fn)))) ∧
    (s.xferReading fn addr.toNat = true → Sys2Proof.Machine.exec (.hostCompletionTimeout fn addr) s =
      .next ((((s.raise 0x2101 2).emit (.aer "Completion Timeout")).raise 0x4001 10).cutDomain (ifaceNo fn))) ∧
    ∀ (p : Fin 128) (a b c e f : Nat), Completes (.slowRatioUpdate p a b c e f) s fun t =>
      (t.part p.val).slow = ((a + b + c + e + f) :: (s.part p.val).slow).take 100 ∧
      t.rd 0x7020 (p.val + 1) = s.rd 0x7020 (p.val + 1) + BitVec.ofNat 64 a ∧ t.rd 0x7021 (p.val + 1) = s.rd 0x7021 (p.val + 1) + BitVec.ofNat 64 b ∧
      t.rd 0x7022 (p.val + 1) = s.rd 0x7022 (p.val + 1) + BitVec.ofNat 64 c ∧ t.rd 0x7023 (p.val + 1) = s.rd 0x7023 (p.val + 1) + BitVec.ofNat 64 e ∧
      t.rd 0x7024 (p.val + 1) = s.rd 0x7024 (p.val + 1) + BitVec.ofNat 64 f ∧ t.mem = s.mem

/-- FENCE of a partition (R357, Table 13-5): the partition is fenced, FenceResult is 0, and no other partition's fence, no plan, no frame but those that a plan load under way had pinned, and no page of memory changes. A partition that is fenced already is left as it is. A unit beyond 127, or a partition that does not exist, gives result 1 (the second is the model's choice, log entry 101). UNFENCE and RELEASE of a partition (R358, Table 13-5): each refuses a partition that is not fenced with result 2; UNFENCE refuses one that owns a fenced channel with result 3, and otherwise clears the fence; RELEASE leaves it fenced, without a plan, and gives result 0. UNFENCE of a channel and the end of its retest (R358, Table 13-5): the channel must be fenced (result 2) and have no owner (result 4); its retest then runs; when it passes the channel is no longer fenced and the result is 0, when it fails the channel stays fenced and the result is 5. -/
def Obligations.Fences : Prop :=
  (∀ (s : State) (fn : Iface) (p : Fin 128) (v : W32), Reaches s fn 0x9004 1 →
    (v.toNat % 0x1000000 = 0x100000 + p.val → s.enabled p.val = true → ∃ t, Sys2Proof.Machine.exec (.fence fn v) s = .next (answered fn t) ∧
      (t.part p.val).fenced = true ∧ t.rdn 0x9004 2 = 0 ∧
      (∀ q, (q ≠ p.val → (t.part q).fenced = (s.part q).fenced) ∧ (t.part q).plans = (s.part q).plans ∧
        (t.part q).frames = if q = p.val ∧ (s.part q).fenced = false then State.dropLoads (s.part q).loads (s.part q).frames else (s.part q).frames) ∧
      (∀ i j, j < 256 → i ≠ 0x7001 → i ≠ 0x701A → i ≠ 0x9004 → t.rd i j = s.rd i j) ∧
      { t.mem with host := s.mem.host } = s.mem) ∧
    (v.toNat % 0x1000000 = 0x100000 + p.val → s.enabled p.val = true → (s.part p.val).fenced = true →
      Sys2Proof.Machine.exec (.fence fn v) s = .next (answered fn (s.wrn 0x9004 2 0))) ∧
    (v.toNat % 0x1000000 = 0x100000 + p.val → s.enabled p.val = false →
      Sys2Proof.Machine.exec (.fence fn v) s = .next (answered fn (s.wrn 0x9004 2 1)) ∧
      Sys2Proof.Machine.exec (.unfence fn v) s = .next (answered fn (s.wrn 0x9004 2 1)) ∧
      Sys2Proof.Machine.exec (.release fn v) s = .next (answered fn (s.wrn 0x9004 2 1))) ∧
    (0x100080 ≤ v.toNat % 0x1000000 → v.toNat % 0x1000000 < 0x110000 →
      Sys2Proof.Machine.exec (.fence fn v) s = .next (answered fn (s.wrn 0x9004 2 1)))) ∧
  (∀ (s : State) (fn : Iface) (p : Fin 128) (v : W32), Reaches s fn 0x9004 1 → v.toNat % 0x1000000 = 0x100000 + p.val →
    s.enabled p.val = true →
    ((s.part p.val).fenced = false →
      Sys2Proof.Machine.exec (.unfence fn v) s = .next (answered fn (s.wrn 0x9004 2 2)) ∧
      Sys2Proof.Machine.exec (.release fn v) s = .next (answered fn (s.wrn 0x9004 2 2))) ∧
    ((s.part p.val).fenced = true →
      ((∃ c ∈ s.persist.fencedChannels, s.ownsChannel p.val c = true) →
        Sys2Proof.Machine.exec (.unfence fn v) s = .next (answered fn (s.wrn 0x9004 2 3))) ∧
      ((∀ c ∈ s.persist.fencedChannels, s.ownsChannel p.val c = false) →
        Sys2Proof.Machine.exec (.unfence fn v) s =
          .next (answered fn ((s.updPart p.val fun x => { x with fenced := false }).wrn 0x9004 2 0))) ∧
      (∃ t, Sys2Proof.Machine.exec (.release fn v) s = .next (answered fn t) ∧ t.rdn 0x9004 2 = 0 ∧
        (t.part p.val).plans = [] ∧ (t.part p.val).fenced = true))) ∧
  (∀ (s : State) (fn : Iface) (c : Fin 256) (v : W32), Reaches s fn 0x9004 1 → v.toNat % 0x10000 = c.val →
    (c.val ∉ s.persist.fencedChannels →
      Sys2Proof.Machine.exec (.unfenceChannel fn v) s = .next (answered fn (s.wrn 0x9004 2 2))) ∧
    (c.val ∈ s.persist.fencedChannels →
      (∀ p, s.channelOwner c.val = some p →
        Sys2Proof.Machine.exec (.unfenceChannel fn v) s = .next (answered fn (s.wrn 0x9004 2 4))) ∧
      (s.channelOwner c.val = none → ∃ t,
        Sys2Proof.Machine.exec (.unfenceChannel fn v) s = .next (answered fn t) ∧
        (∀ k, k ∈ t.faults.retest ↔ k = c.val ∨ k ∈ s.faults.retest) ∧ { t with faults := s.faults } = s)) ∧
    (c.val ∈ s.faults.retest →
      (Completes (.channelRetestDone c true) s fun t =>
        t.rdn 0x9004 2 = 0 ∧ (∀ k, k ∈ t.persist.fencedChannels ↔ k ∈ s.persist.fencedChannels ∧ k ≠ c.val) ∧
        c.val ∉ t.faults.retest ∧ t.parts = s.parts ∧ t.streams = s.streams) ∧
      (Completes (.channelRetestDone c false) s fun t =>
        t.rdn 0x9004 2 = 5 ∧ t.persist = s.persist ∧ c.val ∉ t.faults.retest ∧ t.mem = s.mem ∧ t.parts = s.parts)))

/-- LEASE_RENEW by the holder, and LEASE_CLAIM by the holding controller, restart the period and count (Table 13-9, R410); a RENEW or CLAIM that Table 13-9 refuses sets LEASE_REFUSED and nothing else. A lapsed lease changes hands (Table 13-9, R314, R367): the host's RENEW makes it HOST and no context is FROZEN any more; controller n's CLAIM makes it CAN n, sets LEASE_CAN_CLAIM, and ends with LEASE_EXPIRED whatever has not started. Neither moves data of a stream, and neither changes a plan, a weight frame or a fence. The lease lapses (Table 13-9, R367): on LEASE_RELEASE by the holding controller and when a period has passed, the lease is LAPSED, LEASE_LAPSED is set, and the contexts that are idle freeze, but for those that a feed holds. -/
def Obligations.LeaseCommands : Prop :=
  (∀ (s : State) (n : Fin 2), Running s →
    let renewed : State := (s.bump64 0x2100 5 1).updFaults fun f => { f with leaseEnd := s.time + s.rdn 0x2100 1 * 1000 }
    let refused : State := s.raise 0x9001 10
    (s.rdn 0x2100 3 = 1 → Sys2Proof.Machine.exec (.leaseRenew .pf) s = .next renewed) ∧
    (2 ≤ s.rdn 0x2100 3 → Sys2Proof.Machine.exec (.leaseRenew .pf) s = .next refused) ∧
    (s.sdoRuns n.val = true → s.rdn 0x2100 3 = 2 + n.val →
      Sys2Proof.Machine.exec (.leaseRenew (.can n)) s = .next (answered (.can n) renewed) ∧
      Sys2Proof.Machine.exec (.leaseClaim (.can n)) s = .next (answered (.can n) renewed)) ∧
    (s.sdoRuns n.val = true → s.rdn 0x2100 3 ≠ 2 + n.val →
      Sys2Proof.Machine.exec (.leaseRenew (.can n)) s = .next (refused.sdoAnswer n.val 0x08000022 []) ∧
      Sys2Proof.Machine.exec (.leaseRelease (.can n)) s = .next (refused.sdoAnswer n.val 0x08000022 []) ∧
      (s.rdn 0x2100 3 ≠ 0 → Sys2Proof.Machine.exec (.leaseClaim (.can n)) s = .next (refused.sdoAnswer n.val 0x08000022 []))) ∧
    Sys2Proof.Machine.exec (.leaseClaim .pf) s = .next s ∧ Sys2Proof.Machine.exec (.leaseRelease .pf) s = .next s) ∧
  (∀ (s : State) (n : Fin 2), Running s → s.rdn 0x2100 3 = 0 →
    (Completes (.leaseRenew .pf) s fun t =>
      t.rdn 0x2100 3 = 1 ∧ t.faults.leaseEnd = s.time + s.rdn 0x2100 1 * 1000 ∧
      (∀ m, (t.stream m).state = if (s.stream m).state = .frozen then .idle else (s.stream m).state) ∧
      (∀ p, (t.part p).fenced = (s.part p).fenced ∧ (t.part p).plans = (s.part p).plans ∧ (t.part p).frames = (s.part p).frames) ∧
      { t.mem with host := s.mem.host } = s.mem) ∧
    (s.sdoRuns n.val = true → Completes (.leaseClaim (.can n)) s fun t =>
      t.rdn 0x2100 3 = 2 + n.val ∧ t.faults.leaseEnd = s.time + s.rdn 0x2100 1 * 1000 ∧
      t.rd 0x9001 1 = s.rd 0x9001 1 ||| 0x200 ∧
      (∀ p, (t.part p).fenced = (s.part p).fenced ∧ (t.part p).plans = (s.part p).plans ∧ (t.part p).frames = (s.part p).frames) ∧
      t.streams = s.streams ∧ { t.mem with host := s.mem.host } = s.mem)) ∧
  (∀ (s : State) (n : Fin 2), Running s →
    let lapsed (t : State) : Prop :=
      t.rdn 0x2100 3 = 0 ∧ t.rd 0x9001 1 = s.rd 0x9001 1 ||| 0x100 ∧
      (∀ m, (t.stream m).state = if (s.stream m).state = .idle ∧ s.feedHolds m = false then .frozen else (s.stream m).state) ∧
      t.parts = s.parts ∧ t.mem = s.mem ∧ t.groups = s.groups ∧ t.seqs = s.seqs ∧ t.power = s.power
    (s.sdoRuns n.val = true → s.rdn 0x2100 3 = 2 + n.val → Completes (.leaseRelease (.can n)) s lapsed) ∧
    (s.rdn 0x2100 3 ≠ 0 → s.faults.leaseEnd ≤ s.time → Completes .leasePeriodExpiry s lapsed) ∧
    (s.rdn 0x2100 3 ≠ 0 → s.time < s.faults.leaseEnd → Sys2Proof.Machine.exec .leasePeriodExpiry s = .next s))

/-! ### Plans, invocations and weights -/

/-- PLAN_LOAD, PLAN_UNLOAD and a staged plan's start (R43, R44, R46, R301): a plan of a model that is not installed is rejected with PLAN_NOT_FOUND at step 5; a loaded plan answers at once with its gap; otherwise the load pins its frames and asks bedrock for the image's pages, and ends with WEIGHT_LOST when one is lost; once a chunk result has given the last page, a plan that passes every step is loaded, each of its tiles holding its configuration, and one that fails a step is rejected and leaves no load behind; an unloaded plan leaves no frame and no tile behind. -/
def Obligations.PlanLoading : Prop :=
  ∀ (s : State) (d : DescImage),
    let p := d.part.val
    let b := begun d [] s
    (Starts 0x01 d [] s → ∀ met,
      let m := dBody d.raw 0 2
      let id := BitVec.ofNat 64 (dBody d.raw 8 8)
      ((256 ≤ m ∨ (b.model m).state ≤ 1 ∨ b.modelPlan m id = none) →
        Sys2Proof.Machine.exec (.planLoad d met) s = .next (endedIn d (b.raise 0x3001 4) 0x33 5 0)) ∧
      (∀ e l, m < 256 → 1 < (b.model m).state → b.modelPlan m id = some e → b.findPlan p id = some l →
        Sys2Proof.Machine.exec (.planLoad d met) s = .next (endedIn d b 0 0 l.plan.gap)) ∧
      (∀ e u, m < 256 → 1 < (b.model m).state → b.modelPlan m id = some e → b.findPlan p id = none →
        (∀ j ∈ (b.part p).loads, j.planId ≠ id) → b.pinPlan p id e.bytes (State.ckptOf (parsePlan (b.planImage m e))) = some u →
        let pages := State.imagePages m e.offset e.bytes
        ((∀ g ∈ pages, b.isLost g = false) → Completes (.planLoad d ⟨[], false⟩) s fun t =>
          (∃ j ∈ (t.part p).loads, j.slot = d.slot.val ∧ j.planId = id ∧ j.model = m ∧ j.left = pages) ∧
          (∃ w, t.findWork p d.slot.val = some w ∧ w.phase = .running) ∧ (t.part p).plans = (b.part p).plans ∧
          t.mem = b.mem ∧ t.fabric = b.fabric) ∧
        ((∃ g ∈ pages, b.isLost g = true) → ∃ t, Sys2Proof.Machine.exec (.planLoad d ⟨[], false⟩) s = .next (endedIn d t 0x21 1 0) ∧
          (t.part p).plans = (b.part p).plans))) ∧
    (∀ (q : Fin 128) (g : PageRef) (bad : List (Fin 17)) (ok : Bool) (j : LoadJob) (w : Work), s.alive = true →
      let u := s.chunkResult q.val (pageId g) (bad.map Fin.val) ok
      ((u.part q.val).loads.filter fun j => j.slot < 64 && j.left.isEmpty) = [j] → u.findWork q.val j.slot = some w → w.phase = .running →
        (∀ t st gap, u.goLoad q.val j = .loaded t st gap →
          Sys2Proof.Machine.exec (.chunkDecodeResult q g bad ok) s = .next (t.endWork q.val j.slot st 0 gap false) ∧ st ≤ 1 ∧
          ∃ l ∈ (t.part q.val).plans, l.model = j.model ∧ l.plan.gap = gap ∧
            ∀ n ∈ l.place, (t.halves n).running = some (q.val, j.planId) ∨ (t.halves n).staged = some (q.val, j.planId)) ∧
        (∀ t st n, u.goLoad q.val j = .failed t st n →
          Sys2Proof.Machine.exec (.chunkDecodeResult q g bad ok) s = .next (t.rejectLoad q.val j.slot st n j.planId) ∧
          (∀ k ∈ (t.part q.val).loads, k.slot ≠ j.slot) ∧ (t.part q.val).plans = (u.part q.val).plans)) ∧
    (Starts 0x02 d [] s →
      let id := BitVec.ofNat 64 (dBody d.raw 0 8)
      (b.findPlan p id = none → Sys2Proof.Machine.exec (.planUnload d) s = .next (endedIn d b 0x14 0 0)) ∧
      (∀ l, b.findPlan p id = some l → b.planStreams p id = true → Sys2Proof.Machine.exec (.planUnload d) s = .next (endedIn d b 0x44 0 0)) ∧
      (∀ l, b.findPlan p id = some l → b.planStreams p id = false → ∃ u, Sys2Proof.Machine.exec (.planUnload d) s = .next (endedIn d u 0 0 0) ∧
        u.findPlan p id = none ∧ (∀ f ∈ (u.part p).frames, f.2 ≠ .image id ∧ f.2 ≠ .checkpoint id) ∧
        ∀ n, (u.halves n).running ≠ some (p, id) ∧ (u.halves n).staged ≠ some (p, id))) ∧
    (∀ (q : Fin 128) (id : W64) (l : Loaded), s.alive = true → s.findPlan q.val id = some l →
      (∃ n ∈ l.place, (s.halves n).staged = some (q.val, id)) → (∀ n ∈ l.place, n ∉ s.busyTiles q.val id ∧ s.shifting n = false) →
        Completes (.stagedPlanStart q id) s fun t => ∀ n ∈ l.place, (t.halves n).running = some (q.val, id))

/-- INVOKE (R301, R302): the first failing check of the request gives its status; a request that passes them and whose copies succeed has an invocation of its plan that runs from cheap point 0, unless that point's live ranges hold a marked line. ABORT (R305): with no descriptor of that Seq that has not completed, it completes with Info 0; one that waits ends ABORTED at once; one that runs is told to stop, and ends where it stands when it stands still. -/
def Obligations.Invocations : Prop :=
  (∀ (s : State) (d : DescImage), Starts 0x03 d [] s →
    let p := d.part.val
    let b := begun d [] s
    let id := BitVec.ofNat 64 (dBody d.raw 0 8)
    let cs := State.copies d.raw
    let ends (met : Met) (u : State) (st : Nat) : Prop :=
      Sys2Proof.Machine.exec (.invoke d met) s = .next ((endedIn d u st 0 0).chooseStops p)
    (∀ met, State.copiesOk d.raw = false → ends met b 0x12) ∧
    (State.copiesOk d.raw = true →
      (∀ met, b.findPlan p id = none → ends met b 0x14) ∧
      ∀ l, b.findPlan p id = some l →
        (∀ met, (l.kind = 1 ∨ l.kind = 2) → ends met b 0x12) ∧
        (l.kind ≠ 1 → l.kind ≠ 2 →
          (∀ met, (∃ c ∈ cs, c.src % 64 ≠ 0 ∨ c.dst % 64 ≠ 0) → ends met b 0x11) ∧
          ((∀ c ∈ cs, c.src % 64 = 0 ∧ c.dst % 64 = 0) →
            (∀ met, (∃ c ∈ cs, b.copyLong p c = true) → ends met b 0x10) ∧
            ((∀ c ∈ cs, b.copyLong p c = false) →
              (∀ met, l.place = [] → b.placement p l.active = none → ends met b 0x32) ∧
              (l.place ≠ [] →
                (∀ met u st, b.meet p [] met = (u, st) → 0x10 ≤ st → ends met u st) ∧
                (∀ u st, b.doCopies p (State.workFn p (workOf d [])) (b.blankOf (p * 64 + d.slot.val)) (cs.filter fun c => !c.after) = (u, st) → st ≠ 0 → ends ⟨[], false⟩ u st) ∧
                (∀ u, b.doCopies p (State.workFn p (workOf d [])) (b.blankOf (p * 64 + d.slot.val)) (cs.filter fun c => !c.after) = (u, 0) →
                  (∀ c, l.active.cheaps[0]? = some c → (u.runOn p id l.place).liveMarked l c = none) →
                  ∃ t : State, Sys2Proof.Machine.exec (.invoke d ⟨[], false⟩) s = .next (t.chooseStops p) ∧
                    ∃ v ∈ (t.part p).invs, v.planId = id ∧ v.slot = d.slot.val ∧ v.attend = false ∧ v.stopped = false ∧ v.cheap = 0))))))) ∧
  (∀ (s : State) (d : DescImage), Seals 0x04 d s → State.sealGood d.raw = true → (s.part d.part.val).fenced = false →
    let p := d.part.val
    let t := takenState d [] s
    t.takeOk p d.raw = true →
    let target := (t.part p).work.find? fun w => w.slot ≠ d.slot.val && w.phase ≠ .ended && dSeq w.raw = dBody d.raw 0 4
    (target = none → Sys2Proof.Machine.exec (.abort d) s = .next (endedIn d t 0 0 0)) ∧
    (∀ w, target = some w →
      (w.phase = .held → Sys2Proof.Machine.exec (.abort d) s = .next (endedIn d (t.endWork p w.slot 0x72 0 0 false) 0 1 0)) ∧
      (w.phase = .running → ∀ v, ((t.part p).invs.find? fun v => v.slot = w.slot && !v.attend) = some v →
        (v.stopped = true → Sys2Proof.Machine.exec (.abort d) s = .next (endedIn d (t.endInvocation p v.planId 0x72) 0 1 0)) ∧
        (v.stopped = false → (∀ x ∈ (t.part p).invs, x.planId = v.planId → x.stop = .none) → Sys2Proof.Machine.exec (.abort d) s =
          .next (endedIn d (t.updInv p v.planId fun v => { v with stop := .abort, stopTime := t.time }) 0 1 0)))))

/-- Cheap points and the end (R40, R305, R311): an invocation that meets nothing passes its next cheap point; at the end its AFTER copies run and it completes, DONE_REPLAYED after a replay, DONE_CORRECTED after a correction, and is gone. Pre-emption (R310, R311): an invocation that was told to stop stops at its usable point, counted and flagged; a stopped one goes on when its tiles are free, on its own configuration; a slice that has run out tells the invocation to stop where another of its priority waits, and slice 0 never does. -/
def Obligations.InvocationProgress : Prop :=
  (∀ (s : State) (p : Fin 128) (id : W64) (l : Loaded) (v : Invocation), s.findPlan p.val id = some l → s.findInv p.val id = some v →
    s.progresses p.val id = true →
    (∀ u c, l.active.cheaps[v.cheap + 1]? = some c → v.cheap + 2 < l.active.cheaps.length → s.advance p.val id (some (v.cheap + 1)) = (u, .passed) →
      v.stop = .none → (∀ n ∈ l.place, u.shifting n = false) → Sys2Proof.Machine.exec (.cheapPointReached p id) s = .next u ∧
        ∀ l1, u.findPlan p.val id = some l1 → l1.active.cheaps = l.active.cheaps → ∀ x ∈ (u.part p.val).invs, x.planId = id → x.cheap = v.cheap + 1) ∧
    (v.attend = false → s.shiftAhead l v = false →
      (∀ met u st, s.meet p.val l.place met = (u, st) → 0x10 ≤ st →
        Sys2Proof.Machine.exec (.invocationEnd p id met) s = .next (u.endInvocation p.val id st)) ∧
      (∀ met u0 st0 u w u2 st x, s.meet p.val l.place met = (u0, st0) → st0 < 0x10 →
        (u0.updInv p.val id fun v => { v with corrected := v.corrected || st0 = 1 }).advanceEnd p.val id = (u, .passed) →
        u.findInv p.val id = some x → x.stop = .none → u.findWork p.val x.slot = some w → x.slot = v.slot →
        u.doCopies p.val (State.workFn p.val w) (u.blankOf (p.val * 64 + v.slot)) ((State.copies w.raw).filter State.Copy.after) = (u2, st) →
        ∃ t, Sys2Proof.Machine.exec (.invocationEnd p id met) s = .next t ∧
          t = u2.endInvocation p.val id (if st ≠ 0 then st else if x.replayed then 2 else if x.corrected then 1 else 0) ∧
          ∀ y ∈ (t.part p.val).invs, y.planId ≠ id))) ∧
  (∀ (s : State) (p : Fin 128) (id : W64) (l : Loaded) (v : Invocation), s.findPlan p.val id = some l → s.findInv p.val id = some v →
    (∀ u c l1 v1, s.progresses p.val id = true → l.active.cheaps[v.cheap + 1]? = some c → v.cheap + 2 < l.active.cheaps.length →
      l.active.usable c = true → (v.stop = .preempt ∨ v.stop = .slice) → s.advance p.val id (some (v.cheap + 1)) = (u, .passed) →
      u.findPlan p.val id = some l1 → u.findInv p.val id = some v1 → (l1.active.cheaps[v.cheap + 1]?).bind (u.liveMarked l1) = none →
      Completes (.preemptStop p id) s fun t =>
        (∀ x ∈ (t.part p.val).invs, x.planId = id → x.stopped = true ∧ x.stop = .none) ∧
        t.rdn 0x7029 (p.val + 1) = (u.rdn 0x7029 (p.val + 1) + 1) % 4294967296 ∧ t.rd 0x7001 1 = u.rd 0x7001 1 ||| 0x8) ∧
    (s.serves = true → v.stopped = true → v.faulted = false → s.powered p.val = true →
      (∀ n ∈ l.place, n ∉ s.busyTiles p.val id ∧ s.shifting n = false) → Completes (.preemptResume p id) s fun t =>
        (∀ x ∈ (t.part p.val).invs, x.planId = id → x.stopped = false ∧ x.resumed = s.time) ∧
        ∀ n ∈ l.place, (t.halves n).running = some (p.val, id)) ∧
    (s.serves = true → s.rdn 0x701C (p.val + 1) ≠ 0 → v.resumed + s.rdn 0x701C (p.val + 1) ≤ s.time → v.stopped = false → v.stop = .none →
      (∃ w ∈ (s.part p.val).work, s.waitsForTiles p.val w = true ∧ ∃ k, State.runPlan w = some k ∧
        ∃ x ∈ s.onTilesOf p.val k, x.1.planId = id ∧ x.2.2 = dPriority w.raw ∧ State.pointLeft x.2.1 v = true) →
      Sys2Proof.Machine.exec (.timeSliceExpiry p id) s = .next (s.updInv p.val id fun v => { v with stop := .slice, stopTime := s.time })) ∧
    (s.rdn 0x701C (p.val + 1) = 0 → Sys2Proof.Machine.exec (.timeSliceExpiry p id) s = .next s))

/-- Hints (R105): each page of a prefetch hint has its frame, waits in the queue, is lost, or found 256 prefetches queued; a pin adds one to the page's count unless it would leave fewer than 16 frames unpinned; an unpin takes one away. Demand migrations (R104, R106, R107): a read of a page that no frame holds takes a frame and waits; with no frame to take its request ends NO_FRAMES, and on a lost page DATA_LOST; a migration that completes puts the page into its frame and is counted. -/
def Obligations.WeightPages : Prop :=
  (∀ (s : State) (p : Fin 128) (id : W64) (h a n : Nat),
    (s.hintOf p.val id h 1 = some (a, n) → Completes (.hintPrefetch p id h) s fun t =>
      (∀ i, i < n → (t.pageFrame p.val (a + i)).isSome = true ∨ (∃ m ∈ (t.part p.val).migrations, m.page = a + i) ∨
        (t.pageModel (a + i)).any t.isLost = true ∨ 256 ≤ ((t.part p.val).migrations.filter Migration.hinted).length) ∧
      { t.part p.val with migrations := (s.part p.val).migrations } = s.part p.val ∧ t.mem = s.mem) ∧
    (∀ u, s.hintOf p.val id h 2 = some (a, 1) → s.prefetch p.val a = some u →
      (u.pinCount p.val a = 0 → u.weightFrames p.val < u.pinLoad p.val + 17 → Sys2Proof.Machine.exec (.hintPin p id h) s = .next (u.raise 0x4001 7)) ∧
      ((u.pinCount p.val a ≠ 0 ∨ u.pinLoad p.val + 17 ≤ u.weightFrames p.val) → ∀ l, u.findPlan p.val id = some l →
        Completes (.hintPin p id h) s fun t => ∃ l1, t.findPlan p.val id = some l1 ∧
          NMap.get (fun _ => 0) l1.pins a = NMap.get (fun _ => 0) l.pins a + 1)) ∧
    (∀ l, s.hintOf p.val id h 3 = some (a, n) → s.findPlan p.val id = some l → Completes (.hintUnpin p id h) s fun t =>
      ∃ l1, t.findPlan p.val id = some l1 ∧ ∀ k, NMap.get (fun _ => 0) l1.pins k =
        (if a ≤ k ∧ k < a + n then NMap.get (fun _ => 0) l.pins k - 1 else NMap.get (fun _ => 0) l.pins k))) ∧
  (∀ (s : State) (p : Fin 128) (id : W64) (k : Fin 512) (n : Nat) (l : Loaded), s.findPlan p.val id = some l →
    (s.serves = true → s.planRuns p.val id = true → (∃ x ∈ s.loadedRegions p.val, x.1 ≤ n * 65536 ∧ n * 65536 < x.1 + x.2) →
      k.val < l.active.slotCount → s.pageFrame p.val n = none →
      ((s.pageModel n).any s.isLost = true → Sys2Proof.Machine.exec (.demandMigration p id k n) s = .next (s.failPlan p.val id 0x21)) ∧
      ((s.pageModel n).any s.isLost = false → (∀ m ∈ (s.part p.val).migrations, m.page ≠ n) →
        (s.victim p.val = none → Sys2Proof.Machine.exec (.demandMigration p id k n) s = .next (s.failPlan p.val id 0x25)) ∧
        (∀ f, s.victim p.val = some f → Completes (.demandMigration p id k n) s fun t =>
          t.frame p.val f = .filling n ∧ (t.part p.val).migrations = (s.part p.val).migrations ++ [⟨n, true, false, some f, s.time, [⟨id, k.val, s.time⟩], false⟩] ∧
          (∀ g, g ≠ f → t.frame p.val g = s.frame p.val g) ∧ t.mem = s.mem ∧ t.od = s.od))) ∧
    (∀ pg r m f, s.pageModel n = some pg → s.findRead p.val pg = some r → ((s.part p.val).migrations.find? fun m => m.page = n) = some m →
      m.frame = some f → s.alive = true → r.ready = true → s.powered p.val = true → Completes (.migrationComplete p n) s fun t =>
        t.frame p.val f = .page n s.time ∧ (∀ m ∈ (t.part p.val).migrations, m.page ≠ n) ∧
        (m.waiters = [] → t.rd 0x4013 (p.val + 1) = s.rd 0x4013 (p.val + 1) + 1) ∧ t.findRead p.val pg = none ∧ t.streams = s.streams))

/-- Clearing and merge buffers (R98, R100, R379): a cleared unit's accesses go on; the time of a merge entry writes the line, and every byte reads as it read before. A write of any length by the host or a control processor (R101, R194), outside the weight-cache frames: what it writes reads back, every other byte of bonded memory reads as before, and nothing else changes, poisoned lines apart. Patrol scrub and soft row repair (R118 to R120): a pass leaves its time, and each corrected error a count, unless the channel is being cleared; a row that has not reached the threshold of corrected errors and held no uncorrectable one is left; a repair of another takes a spare row while the bank has one of its four, and takes the row's errors out of the channel's last 24 h; with none left it sets the flag only. -/
def Obligations.MemoryService : Prop :=
  (∀ s : State, s.alive = true →
    (∀ u, Sys2Proof.Machine.exec (.clearDone u) s = .next { s with mem := { s.mem with clearing := s.mem.clearing.filter (· ≠ u) } }) ∧
    (∀ (c : Fin 256) (l : Nat), l < 0x200000 → s.linePoisoned c.val l = false → Completes (.mergeEntryTimeout c l) s fun t =>
      t.mergeOf c.val l = none ∧ (∀ k o, o < 0x8000000 → t.bondedByte k o = s.bondedByte k o) ∧ t.od = s.od)) ∧
  (∀ (s : State) (c : Fin 256) (o : Nat) (bs : List Byte), s.alive = true → o + bs.length ≤ 0x8000000 →
    (∀ i, i < bs.length → s.linePoisoned c.val ((o + i) / 64) = false ∧ s.inFrames c.val (o + i) = false) →
    Completes (.barMemoryWrite c o bs) s fun t =>
      (∀ i (h : i < bs.length), t.bondedByte c.val (o + i) = bs[i]) ∧
      (∀ k a, a < 0x8000000 → (k = c.val → a < o ∨ o + bs.length ≤ a) → t.bondedByte k a = s.bondedByte k a) ∧
      { t with mem := s.mem } = s ∧ t.mem.tile = s.mem.tile ∧ t.mem.state = s.mem.state ∧ t.mem.host = s.mem.host) ∧
  (∀ (s : State) (c : Fin 256), s.alive = true → s.channelPowered c.val = true →
    (∀ es, s.clearingChannel c.val = true → Sys2Proof.Machine.exec (.scrubPass c es) s = .next s) ∧
    (s.clearingChannel c.val = false → Sys2Proof.Machine.exec (.scrubPass c []) s = .next (s.wrObj 0x4130 c.val s.time)) ∧
    (∀ o, s.clearingChannel c.val = false → Sys2Proof.Machine.exec (.scrubPass c [(.corrected, o)]) s =
      .next ((((s.bumpObj32 0x4110 c.val 1).bump64 0x9003 4 1).rowCorrected c.val o).wrObj 0x4130 c.val s.time)) ∧
    (∀ (bank : Fin 16) (row removed : Nat), s.rdn 0x4002 3 = 1 → (⟨c.val, bank.val, row⟩ : SoftRepair) ∉ s.persist.repairs →
      let key := c.val * 16 + bank.val + 4096 * row
      (s.rowBad key = false → Sys2Proof.Machine.exec (.softRowRepair c bank row removed) s = .next s) ∧
      let used := (s.persist.repairs.filter fun x => x.channel = c.val && x.bank = bank.val).length
      (s.rowBad key = true → 4 ≤ used → Sys2Proof.Machine.exec (.softRowRepair c bank row removed) s = .next (s.raise 0x4001 6)) ∧
      (s.rowBad key = true → used < 4 → Completes (.softRowRepair c bank row removed) s fun t =>
        t.persist = { s.persist with repairs := s.persist.repairs ++ [⟨c.val, bank.val, row⟩] } ∧ t.od = (s.raise 0x4001 5).od ∧
        NMap.get (fun _ => []) t.faults.channelUe c.val = (NMap.get (fun _ => []) s.faults.rowUe key).foldl List.erase (NMap.get (fun _ => []) s.faults.channelUe c.val) ∧
        NMap.get (fun _ => []) t.faults.rowUe key = [] ∧
        { t with persist := s.persist, od := s.od, faults := s.faults } = s)))

/-- Canonical memories (R99 to R101, R119, R379, Table 13-5; the form itself is the model's): a write to a channel, the release of a merge entry, the end of a clearing, a soft repair, and the end of a channel's re-test keep every memory a list of rising keys without an entry equal to what an unlisted key reads as, so that equal memories are equal data. -/
def Obligations.MemoryCanonical : Prop :=
  ∀ s : State, s.mem.wf → ∀ c : Instr,
    (∃ ch o bs, c = .barMemoryWrite ch o bs) ∨ (∃ ch l, c = .mergeEntryTimeout ch l) ∨ (∃ u, c = .clearDone u) ∨
    (∃ ch b r n, c = .softRowRepair ch b r n) ∨ (∃ ch passed, c = .channelRetestDone ch passed) →
    Completes c s fun t => t.mem.wf

/-! ### The bedrock store -/

/-- The wheel (R126, R127, R129, Table 5-5): a round starts under the placement of the last commit; each slot moves the wheel on by one, modulo 512; a partition's slot serves a page already begun, then the oldest demand migration, then an image page that a plan load wants, then a prefetch; a maintenance slot programs a rebuilt page first, and relocation stands before all other upkeep. A page read's ladder (R130 to R133): chunks that do not decode climb the ladder alone; at its end one of them is rebuilt from parity and more lose the page, each a failure of its die; a weight page whose chunks are all there is ready, and one with a false tag is lost with its event; an image page goes to the loads that wait for it, which go on; the new stripe of a rebuilt page, outside the bad block, lets the migration complete and queues that block. -/
def Obligations.WheelAndReads : Prop :=
  (∀ s : State, s.wheelRuns = true →
    (s.bedrock.nextWheel = none → Sys2Proof.Machine.exec .slotPlacementApply s = .next s) ∧
    (∀ w, s.bedrock.nextWheel = some w → Sys2Proof.Machine.exec .slotPlacementApply s =
      .next { s with bedrock := { s.bedrock with wheel := w, nextWheel := none, position := 0 } }) ∧
    (∀ done, s.bedrock.position ≠ 0 ∨ s.bedrock.nextWheel = none →
      let t := { s with bedrock := { s.bedrock with position := (s.bedrock.position + 1) % 512 } }
      let at_ (u : State) : Prop := Sys2Proof.Machine.exec (.wheelSlot done) s = .next u
      let waits (p : Nat) := s.bedrock.reads.find? fun r => r.part = p && !r.inSlot && !r.ready && !r.rebuilt
      (s.ftlRuns = false → at_ t) ∧
      (∀ p, s.ftlRuns = true → s.bedrock.wheel[s.bedrock.position]? = some p → p < 128 →
        (∀ r, waits p = some r → at_ (t.serveRead p r.id)) ∧
        (waits p = none →
          (∀ m, s.oldestDemand p = some m → at_ (t.startRead p m.page (m.frame.getD 0))) ∧
          (∀ id, s.oldestDemand p = none → s.nextImage p = some id → at_ ((t.beginRead p id).serveRead p id)) ∧
          (s.oldestDemand p = none → s.nextImage p = none →
            (∀ m f, ((s.part p).migrations.find? fun m => !m.reading) = some m → m.frame = none → s.victim p = some f → at_ (t.startRead p m.page f)) ∧
            (((s.part p).migrations.find? fun m => !m.reading) = none → at_ t)))) ∧
      (s.ftlRuns = true → s.bedrock.wheel[s.bedrock.position]? = some 128 →
        (∀ r, (s.bedrock.reads.find? fun r => r.rebuilt && !r.programming && !r.ready) = some r →
          at_ (t.updRead r.part r.id fun r => { r with programming := true })) ∧
        ((s.bedrock.reads.find? fun r => r.rebuilt && !r.programming && !r.ready) = none →
          ∀ u, (s.bedrock.upkeep.find? fun u => u.kind = .relocate) = some u →
            at_ (if done then ((t.moveBlock u.unit).rewriteBlock u.unit).dropUpkeep u else t))))) ∧
  (∀ (s : State) (p : Fin 128) (page : PageRef) (r : PageRead), s.alive = true → s.findRead p.val (pageId page) = some r →
    let id := pageId page
    let st := s.placesOf id
    (∀ j ∈ (s.part p.val).loads, j.left ≠ []) →
    (∀ failed tagOk, r.inSlot = true →
      let bad := r.left.filter (failed.map Fin.val).contains
      let s1 := if r.step = 6 then s.bump64 0x4403 8 r.left.length else s
      let at_ (u : State) : Prop := Sys2Proof.Machine.exec (.chunkDecodeResult p page failed tagOk) s = .next (u.afterRead p.val)
      (bad = [] → id.image = true → r.parityFor = none → at_ (s1.imageRead p.val id false)) ∧
      (bad = [] → id.image = false → tagOk = true → (s.pagePlain id).isSome = true → r.parityFor = none → Completes (.chunkDecodeResult p page failed tagOk) s fun t =>
        t.findRead p.val id = some { r with inSlot := false, left := [], ready := true } ∧ t.parts = s.parts ∧ t.od = s1.od) ∧
      (bad = [] → id.image = false → (tagOk = false ∨ s.pagePlain id = none) → at_ (s1.tagLost r.id)) ∧
      (bad ≠ [] → r.step < 6 → Completes (.chunkDecodeResult p page failed tagOk) s fun t =>
        t.findRead p.val id = some { r with step := r.step + 1, left := bad, inSlot := false, since := some (r.since.getD s.time) } ∧
        t.od = s.od ∧ t.parts = s.parts) ∧
      (∀ k, bad = [k] → 6 ≤ r.step → r.parityFor = none → s.dieBad (State.chunkDie st 16) = false → s.bedrock.ladderFails = [] →
        Completes (.chunkDecodeResult p page failed tagOk) s fun t =>
          t.findRead p.val id = some { r with step := 0, left := [16], parityFor := some k, inSlot := false, since := some (r.since.getD s.time) } ∧
          t.parts = s.parts) ∧
      (6 ≤ r.step → (1 < bad.length ∨ (bad ≠ [] ∧ r.parityFor ≠ none)) →
        at_ ((s1.markLost id).ladderFailed (bad.map (State.chunkBlock st))))) ∧
    (r.programming = true → id.image = false → (∃ m ∈ (s.part p.val).migrations, m.page = id.page) → Completes (.rebuiltStripeProgrammed p page) s fun t =>
      t.findRead p.val id = some { r with programming := false, ready := true } ∧
      (⟨.relocate, State.chunkBlock st (r.parityFor.getD 0)⟩ : Upkeep) ∈ t.bedrock.upkeep ∧
      t.storedPage id = (s.storedPage id).map fun x => { x with chunks := s.newPlaces [State.chunkBlock st (r.parityFor.getD 0)] s.free }))

/-- Upkeep of blocks (R136 to R140, R142, R145): a block whose reads reach the threshold is queued for relocation, one whose age reaches the refresh age for refresh, once; a minute ages every block; a patrol read counts as a read of its block and queues a refresh above the limit of errors; a retired block is counted; the journal holds reads and ages. Failed dies (R143, R144): a die that is declared failed reads REBUILDING, waits for its rebuild, sets DIE_FAILED and opens a fault record; when the rebuild ends it reads FAILED, with DIE_REBUILT, and every page keeps its bytes and its number of chunks. -/
def Obligations.BlockUpkeep : Prop :=
  (∀ (s : State) (b : Nat), s.alive = true → b < s.blockCount → (s.block b).retired = false →
    (s.rdn 0x4402 1 ≤ s.blockReads b → Completes (.relocateThreshold b) s fun t =>
      (⟨.relocate, b⟩ : Upkeep) ∈ t.bedrock.upkeep ∧ { t with bedrock := s.bedrock } = s) ∧
    (s.blockReads b < s.rdn 0x4402 1 → Sys2Proof.Machine.exec (.relocateThreshold b) s = .next s) ∧
    (∀ c, Sys2Proof.Machine.exec (.ageTick c) s = .next { s with bedrock := { s.bedrock with
      ageClock := s.bedrock.ageClock + (if 3 ≤ s.power.state then State.ageOf c else 4294967296) } }) ∧
    (s.rdn 0x4402 2 * State.ageHour ≤ s.blockAge b → Completes (.refreshDue b) s fun t =>
      (⟨.refresh, b⟩ : Upkeep) ∈ t.bedrock.upkeep ∧ t.od = (if s.power.state < 3 then (s.raise 0x4401 7).od else s.od)) ∧
    (s.blockAge b < s.rdn 0x4402 2 * State.ageHour → Sys2Proof.Machine.exec (.refreshDue b) s = .next s) ∧
    (s.wheelRuns = true → s.ftlRuns = true → s.bedrock.patrolFirst = false → ∀ errs step, Completes (.patrolRead b errs step) s fun t =>
      t.blockReads b = s.blockReads b + 1 ∧ (∀ k, k ≠ b → t.block k = s.block k) ∧
      (s.rdn 0x4402 3 < errs → (⟨.refresh, b⟩ : Upkeep) ∈ t.bedrock.upkeep) ∧
      (errs ≤ s.rdn 0x4402 3 → t.bedrock.upkeep = s.bedrock.upkeep)) ∧
    (s.wheelRuns = true → Completes (.blockRetire b) s fun t =>
      (t.block b).retired = true ∧ t.rdn 0x4403 4 = (s.rdn 0x4403 4 + 1) % 4294967296 ∧
      (∀ u ∈ t.bedrock.upkeep, u.unit = b → u.kind = .dieRebuild) ∧ t.parts = s.parts) ∧
    (s.wheelRuns = true → Sys2Proof.Machine.exec .journalWrite s =
      .next { s with bedrock := { s.bedrock with journal := (s.bedrock.blocks, s.bedrock.ageClock, s.bedrock.readBase) } })) ∧
  (∀ (s : State) (d : Fin 80), s.wheelRuns = true →
    (d.val < s.dies → s.rdn 0x4404 (d.val + 1) < 2 → Completes (.dieFailed d) s fun t =>
      t.rdn 0x4404 (d.val + 1) = 2 ∧ (⟨.dieRebuild, d.val⟩ : Upkeep) ∈ t.bedrock.upkeep ∧ d.val ∈ t.bedrock.rebuilding ∧
      t.faults.mode = .fault ∧ t.faults.faultN = true) ∧
    ((s.dies ≤ d.val ∨ 2 ≤ s.rdn 0x4404 (d.val + 1)) → Sys2Proof.Machine.exec (.dieFailed d) s = .next s) ∧
    (d.val ∉ s.bedrock.rebuilding → Sys2Proof.Machine.exec (.dieRebuildDone d) s = .next s) ∧
    (d.val ∈ s.bedrock.rebuilding → Completes (.dieRebuildDone d) s fun t =>
      t.rdn 0x4404 (d.val + 1) = 3 ∧ t.rd 0x4401 1 = s.rd 0x4401 1 ||| 0x10 ∧ d.val ∉ t.bedrock.rebuilding ∧
      t.bedrock.library.map (fun x => (x.id, x.data, x.tag, x.chunks.length)) = s.bedrock.library.map (fun x => (x.id, x.data, x.tag, x.chunks.length)) ∧
      t.parts = s.parts))

/-- A second die that fails (R144): while an earlier die's rebuild runs, the failure of another marks lost every page with chunks on both, and the rebuilds of both dies go on. -/
def Obligations.SecondDieFailure : Prop :=
  ∀ (s : State) (d e : Fin 80), s.wheelRuns = true → e ≠ d → e.val ∈ s.bedrock.rebuilding → e.val < s.dies → s.dieBad e.val = true → d.val < s.dies → s.rdn 0x4404 (d.val + 1) < 2 →
    Completes (.dieFailed d) s fun t =>
      (∀ x ∈ s.bedrock.library, d.val ∈ x.chunks.map (· / 2480) → e.val ∈ x.chunks.map (· / 2480) → t.isLost x.id = true) ∧
      d.val ∈ t.bedrock.rebuilding ∧ e.val ∈ t.bedrock.rebuilding ∧ (⟨.dieRebuild, d.val⟩ : Upkeep) ∈ t.bedrock.upkeep ∧
      ∀ u ∈ s.bedrock.upkeep, u ∈ t.bedrock.upkeep

/-- INSTALL (R146, Table 5-6): while an install runs it reads BUSY, and the running install goes on; a package that passes the checks of format and length is judged by steps 3 to 5 on what the device fetched: authenticity (AUTH, 4), a wrap for this device, and a place for the model; passed, the install runs in its slot with its pages to write. INSTALL_PAGE (R123, R146 to R148): the next page of a running install, read from the package and found authentic (a weight page by its GCM tag, an image page by the digests of its images), stands in the library with a stripe of 17 chunks and is not lost; InstallDoneBytes rises by 65 536; the last page makes the model INSTALLED, or DEGRADED when a page of it is lost, with result 1. A page that is not authentic ends the install with AUTH, and its pages are gone. REMOVE and INSTALL_ABORT (R146, R150): an installed model that no partition and no binding uses is gone with its pages, its lost-page records and its frames, with result 1; one in use stays, with result 10; an empty slot gives 11, and a running install BUSY; an abort marks the running install, which then reads ABORTING. -/
def Obligations.Installation : Prop :=
  (∀ (s : State) (front : List Byte), Running s →
    let a := s.rdn 0x4480 1
    let t0 : State := (s.wrn 0x4480 7 0).updMem fun m => { m with host := State.hostWrite m.host a front }
    (s.bedrock.job ≠ none → Sys2Proof.Machine.exec (.install .pf front false) s = .next ((s.wrn 0x4480 6 2).raise 0x4401 10)) ∧
    (s.bedrock.job = none → a % 4096 = 0 → s.rdn 0x4480 2 = Package.packageBytes front → 65536 ≤ s.rdn 0x4480 2 → s.busMaster 0 = true →
      front.length = Package.frontBytes front → Package.headerOk front = true → Package.formatOk front = true →
      Completes (.install .pf front false) s fun t =>
        if Package.authentic front then
          match t0.modelKey front with
          | .error r => t.rdn 0x4480 6 = r ∧ t.bedrock.job = none
          | .ok key => match t0.placeModel (State.newModel front key) with
            | .error r => t.rdn 0x4480 6 = r ∧ t.bedrock.job = none
            | .ok (m, repair) => t.rdn 0x4480 5 = 2 ∧ t.rdn 0x4480 8 = m ∧ (t.model m).state = (if repair then 4 else 1) ∧
                t.bedrock.job = some ⟨m, repair, false, if repair then s.lostPages m else State.allPages m (State.newModel front key),
                  a, Package.packageBytes front, Package.pagesOffset front, Package.imagesOffset front⟩
        else t.rdn 0x4480 6 = 4 ∧ t.bedrock.job = none)) ∧
  (∀ (s : State) (j : InstallJob) (id : PageId) (rest : List PageId) (data : List Byte), Running s → 3 ≤ s.power.state →
    s.bedrock.patrolFirst = false → s.bedrock.job = some j → j.aborting = false → j.repair = false → j.todo = id :: rest → s.busMaster 0 = true →
    let a := s.packageAt j id
    let u := s.toHost a.1 (data.take a.2)
    (u.pageAuthentic j id = true → Completes (.installPage data true true false) s fun t =>
      (∃ x ∈ t.bedrock.library, x.id = id ∧ x.chunks.length = 17 ∧
        x.data = slice (if id.image then u.packageImage j id else u.fromHost a.1 65552) 0 65536) ∧
      (∀ y ∈ t.bedrock.lost, y.id ≠ id) ∧
      t.rdn 0x4480 7 = (s.rdn 0x4480 7 + 65536) % 18446744073709551616 ∧
      (rest ≠ [] → t.bedrock.job = some { j with todo := rest }) ∧
      (rest = [] → t.bedrock.job = none ∧ (t.model j.slot).state = (if t.lostPages j.slot = [] then 2 else 3) ∧ t.rdn 0x4480 6 = 1) ∧
      t.parts = s.parts ∧ t.mem = u.mem) ∧
    (u.pageAuthentic j id = false → Completes (.installPage data true true false) s fun t =>
      t.rdn 0x4480 6 = 4 ∧ t.bedrock.job = none ∧ (∀ x ∈ t.bedrock.library, x.id.model ≠ j.slot) ∧ (t.model j.slot).state = 0)) ∧
  (∀ (s : State) (fn : Iface), Reaches s fn 0x4480 3 →
    let m := s.rdn 0x4480 4
    let ends (r : Nat) : State := ((s.wrn 0x4480 6 r).wrn 0x4480 5 0).raise 0x4401 10
    (s.bedrock.job ≠ none → Sys2Proof.Machine.exec (.remove fn) s = .next (answered fn ((s.wrn 0x4480 6 2).raise 0x4401 10))) ∧
    (s.bedrock.job = none → (256 ≤ m ∨ (s.model m).state = 0) → Sys2Proof.Machine.exec (.remove fn) s = .next (answered fn (ends 11))) ∧
    (s.bedrock.job = none → m < 256 → (s.model m).state ≠ 0 → (s.modelPlans m ≠ [] ∨ s.modelBound m = true) →
      Sys2Proof.Machine.exec (.remove fn) s = .next (answered fn (ends 10))) ∧
    (s.bedrock.job = none → m < 256 → (s.model m).state ≠ 0 → s.modelPlans m = [] → s.modelBound m = false → ∃ t,
      Sys2Proof.Machine.exec (.remove fn) s = .next (answered fn t) ∧ (t.model m).state = 0 ∧
      (∀ x ∈ t.bedrock.library, x ∈ s.bedrock.library ∧ x.id.model ≠ m) ∧ (∀ x ∈ s.bedrock.library, x.id.model ≠ m → x ∈ t.bedrock.library) ∧
      (∀ x ∈ t.bedrock.lost, x.id.model ≠ m) ∧ t.rdn 0x4480 6 = 1 ∧ t.rdn 0x4480 5 = 0 ∧ t.mem = s.mem ∧ t.streams = s.streams) ∧
    (∀ j, s.bedrock.job = some j → ∃ t,
      Sys2Proof.Machine.exec (.installAbort fn) s = .next (answered fn t) ∧ t.bedrock.job = some { j with aborting := true } ∧
      t.rdn 0x4480 5 = 4 ∧ { t with bedrock := s.bedrock, od := s.od } = s))

/-! ### Streams -/

/-- OPEN and CLOSE (R157, R158): an open context starts IDLE with a zero state and the numbers it was given; a closed one is FREE, with no frame of a swap slot, once no chunk of it is in a step and no export of it runs. No other stream changes. Chunk seals (R161 to R165, R389): a seal that could be reordered stops; one outside the tenant's open streams sets its flag only; one into a slot that the device holds is an overrun; a chunk that fails the checks ends at once with their first status; a chunk that passes is taken, and the next one expected follows it. -/
def Obligations.ChunksAndContexts : Prop :=
  (∀ (s : State) (d : DescImage),
    let p := d.part.val
    let b := begun d [] s
    let i := dBody d.raw 0 2
    let n := b.streamNo p i
    (Starts 0x40 d [] s →
      let g := dBody d.raw 2 1
      (b.streamCount p ≤ i → Sys2Proof.Machine.exec (.openStream d) s = .next (endedIn d b 0x10 0 0)) ∧
      (i < b.streamCount p → (b.groupRunning g = false ∨ b.groupPart g ≠ p) → Sys2Proof.Machine.exec (.openStream d) s = .next (endedIn d b 0x40 0 0)) ∧
      (i < b.streamCount p → b.groupRunning g = true → b.groupPart g = p →
        ((b.stream n).state ≠ .free → Sys2Proof.Machine.exec (.openStream d) s = .next (endedIn d b 0x44 0 0)) ∧
        ((b.stream n).state = .free →
          (b.tryPin p (Params.swapFrames (b.params g)) (.swap n) = none → Sys2Proof.Machine.exec (.openStream d) s = .next (endedIn d b 0x25 0 0)) ∧
          (∀ t, b.tryPin p (Params.swapFrames (b.params g)) (.swap n) = some t → ∃ u : State, Sys2Proof.Machine.exec (.openStream d) s = .next (endedIn d u 0 0 0) ∧
            u.stream n = { Stream.free with
              state := .idle, group := g, next := BitVec.ofNat 32 (dBody d.raw 4 4), tag := BitVec.ofNat 64 (dBody d.raw 8 8)
              image := List.replicate (Params.stateBytes (b.params g)) 0 } ∧
            ∀ m, m ≠ n → u.stream m = s.stream m)))) ∧
    (Starts 0x41 d [] s →
      (b.streamCount p ≤ i → Sys2Proof.Machine.exec (.close d) s = .next (endedIn d b 0x10 0 0)) ∧
      (i < b.streamCount p →
        (((b.stream n).state = .free ∨ (b.stream n).closing ≠ none) → Sys2Proof.Machine.exec (.close d) s = .next (endedIn d b 0x40 0 0)) ∧
        ((b.stream n).state ≠ .free → (b.stream n).closing = none →
          (b.feedHolds n = true → Sys2Proof.Machine.exec (.close d) s = .next (endedIn d b 0x44 0 0)) ∧
          (b.feedHolds n = false → b.closeWaits n = false → ∃ u : State, Sys2Proof.Machine.exec (.close d) s = .next (endedIn d u 0 0 0) ∧
            u.stream n = Stream.free ∧ (∀ f ∈ (u.part p).frames, f.2 ≠ .swap n) ∧ ∀ m, m ≠ n → u.stream m = s.stream m) ∧
          (b.feedHolds n = false → b.closeWaits n = true → Completes (.close d) s fun t =>
            (t.stream n).closing = some d.slot.val ∧ ((b.stream n).exporting = none → ∀ c ∈ (t.stream n).chunks, c.inStep = true) ∧ ∀ m, m ≠ n → t.stream m = s.stream m)))) ∧
    (∀ (k : Fin 16384) (q slot : Nat), s.alive = true → s.streamPart k.val = some q → (s.stream k.val).closing = some slot → s.closeWaits k.val = false →
      ∃ u : State, Sys2Proof.Machine.exec (.closeComplete k) s = .next (u.endWork q slot 0 0 0 false) ∧ u.stream k.val = Stream.free ∧
        (∀ f ∈ (u.part q).frames, f.2 ≠ .swap k.val) ∧ ∀ m, m ≠ k.val → u.stream m = s.stream m)) ∧
  (∀ (s : State) (p : Fin 128) (i : Fin 16384) (j : Fin 4) (header : BitVec 512) (payload : List Byte),
    let n := s.streamNo p.val i.val
    let h := leBytes 64 header.toNat
    let at_ (t : State) : Prop := Sys2Proof.Machine.exec (.chunkSeal p i j header payload false) s = .next t
    (Sys2Proof.Machine.exec (.chunkSeal p i j header payload true) s = .fault .sealReordered) ∧
    (s.serves = true → s.enabled p.val = true → i.val < 2 ^ (s.link.aperture - 17) →
      ((s.streamCount p.val ≤ i.val ∨ (s.stream n).state = .free ∨ s.takesSeals p.val false = false ∨ s.feedHolds n = true) → at_ (s.raise 0x5001 9)) ∧
      (i.val < s.streamCount p.val → (s.stream n).state ≠ .free → s.takesSeals p.val false = true → s.feedHolds n = false →
        (s.holdsSlot n j.val = true → at_ ((s.bumpObj32 0x5300 n 1).raise 0x5001 0)) ∧
        (s.holdsSlot n j.val = false → field h 0x3C 4 = 0x5EA10000 + field h 0 4 % 65536 → (s.part p.val).fenced = false → s.feature 1 = true →
          (s.chunkCheck n h j.val ≠ 0 → ∃ (u : State) (r : Record), at_ (u.endWith p.val r) ∧ r.status = s.chunkCheck n h j.val ∧ r.chunk = true ∧
            r.seq = BitVec.ofNat 32 (field h 0 4) ∧ r.tag = BitVec.ofNat 64 (field h 0x20 8) ∧ r.slot = j.val ∧
            u.rd 0x5001 1 = s.rd 0x5001 1 ||| 2 ∧ (u.stream n).chunks = (s.stream n).chunks) ∧
          (s.chunkCheck n h j.val = 0 → ∃ t : State, at_ t ∧ (t.stream n).next = BitVec.ofNat 32 (field h 0 4) + 1 ∧
            ∃ c ∈ (t.stream n).chunks, c.seq = BitVec.ofNat 32 (field h 0 4) ∧ c.slot = j.val ∧ c.sealTime = s.time ∧ c.feed = none ∧ c.inStep = false)))))

/-- Chunk windows and residency (R161, R170, R171): a write that does not cover the Seal is only bytes; a swap-in that ends puts the stream's image into its berth and makes its chunks ready; the first stream that waits receives the berth that is free for it, and the stream that held it loses it. Admission (R166, R167): at a tick that nothing holds, the first candidates that can go, at most BatchMax, enter one new step, and their chunks are in it; no more than one step starts. -/
def Obligations.Admission : Prop :=
  (∀ s : State,
    (∀ (p : Fin 128) (i : Fin 16384) (j : Fin 4) (o : Fin 32768) (data : List Byte),
      let n := s.streamNo p.val i.val
      s.serves = true → s.enabled p.val = true → i.val < 2 ^ (s.link.aperture - 17) → i.val < s.streamCount p.val →
      (s.stream n).state ≠ .free → s.feedHolds n = false → s.holdsSlot n j.val = false → o.val + data.length ≤ 32768 →
      (0x3C < o.val ∨ o.val + data.length < 0x40) →
      let old := NMap.get (fun _ => []) (s.stream n).window j.val
      Sys2Proof.Machine.exec (.chunkWindowWrite p i j o data) s = .next (s.updStream n fun y =>
        { y with window := NMap.set (fun _ => []) y.window j.val (slice old 0 o.val ++ data ++ old.drop (o.val + data.length)) })) ∧
    (∀ (k : Fin 16384) (p q : Nat), s.alive = true → s.streamPart k.val = some p → (s.stream k.val).berth = some q →
      (∃ c ∈ (s.stream k.val).chunks, c.phase = .swapping) →
      State.wordsEdge s.mem.poisonState (s.stateLoc p (s.berthOff (s.stream k.val).group q)) (s.stream k.val).image.length = false →
      Completes (.swapInDone k) s fun t =>
        t.readState p (s.berthOff (s.stream k.val).group q) (s.stream k.val).image.length = (s.stream k.val).image ∧
        t.stream k.val = { s.stream k.val with
          chunks := (s.stream k.val).chunks.map fun c => if c.phase = .swapping then { c with phase := .ready s.time } else c } ∧
        t.od = s.od ∧ t.mem.bonded = s.mem.bonded) ∧
    (∀ g : Fin 64, s.alive = true →
      (∀ n rest k old, (s.retireBerths g.val).waiters g.val = n :: rest → (s.retireBerths g.val).chooseBerth g.val = some (k, old) →
        Completes (.berthGrant g) s fun t => (t.stream n).berth = some k ∧ (∀ c ∈ (t.stream n).chunks, c.phase ≠ .wantBerth) ∧
          (∀ o, old = some o → o ≠ n → (t.stream o).berth = none) ∧ n ∉ (t.group g.val).want ∧
          t.rd 0x510C (g.val + 1) = s.rd 0x510C (g.val + 1) + 1) ∧
      ((s.retireBerths g.val).waiters g.val = [] → Sys2Proof.Machine.exec (.berthGrant g) s = .next (s.retireBerths g.val)))) ∧
  (∀ (s : State) (g : Fin 64) (l : Loaded), s.serves = true → (s.part (s.groupPart g.val)).fenced = false → s.groupLoaded g.val = some l → l.place ≠ [] →
    let p := s.groupPart g.val
    let all := s.candidates g.val
    let go := (all.filter fun x => s.admits p x.2.1 x.2.2).take (Params.batch (s.params g.val))
    (∀ met, all = [] → Sys2Proof.Machine.exec (.groupTick g met) s = .next s) ∧
    (s.tickHolds g.val l = false → go ≠ [] → Completes (.groupTick g ⟨[], false⟩) s fun t =>
      t.group g.val = { s.group g.val with
        steps := (s.group g.val).steps ++ [⟨(s.group g.val).nextNum, s.time, go.zipIdx.map fun x => (x.2, x.1.2.1), false, []⟩]
        lastStart := some s.time, nextNum := (s.group g.val).nextNum + 1 } ∧
      (∀ x ∈ go, ∃ c ∈ (t.stream x.2.1).chunks, c.phase = .inStep (s.group g.val).nextNum) ∧
      t.rd 0x5108 (g.val + 1) = s.rd 0x5108 (g.val + 1) + 1) ∧
    (∀ x met, s.tickHolds g.val l = true → all = [x] → Sys2Proof.Machine.exec (.groupTick g met) s =
      .next (((s.bump32 0x5109 (g.val + 1) 1).raise 0x5001 2).stopBelow p l.plan.planId 2)))

/-- The end of a step (R168, R169): the oldest step runs on its lanes' inputs; a page that it waits for is asked for; a status that stops it ends every lane's chunk, and otherwise each lane completes, its state image kept, its result with header and payload in host memory before its completion, DONE_REPLAYED after a replay and DONE_CORRECTED after a correction. TDM output (R185, R186): a port that is on sends a frame of eight slots; a channel that plays gives its oldest sample and loses it, counts an underrun when it has none, and is silent otherwise. -/
def Obligations.StepEnds : Prop :=
  ((∀ (s : State) (g : Fin 64) (l : Loaded) (t : Step), s.groupLoaded g.val = some l → (s.group g.val).steps = [t] → s.stepGoes (s.groupPart g.val) l = true →
    let p := s.groupPart g.val
    let s1 := ((s.updGroup g.val fun x => { x with steps := x.steps.filter fun y => y.num ≠ t.num }).runOn p l.plan.planId l.place).putInputs p g.val t
    let c := s1.stepCtx p g.val l t
    let run := Run.part c 0 none s1
    let s2 := ((Run.finish c s1 true run).releaseAll p).updPlan p l.plan.planId fun x => { x with fetched := [] }
    (∀ n k, run.wait = some (.page n k) → Sys2Proof.Machine.exec (.stepEnd g ⟨[], false⟩) s = .next (s.demand p l.plan.planId k n)) ∧
    (∀ st, run.wait = none → run.stop = some st → Sys2Proof.Machine.exec (.stepEnd g ⟨[], false⟩) s =
      .next (((State.failLanes p g.val t st s2).retireBerths g.val).finishFeeds)) ∧
    (run.wait = none → run.stop = none → run.lost = [] → Sys2Proof.Machine.exec (.stepEnd g ⟨[], false⟩) s =
      .next (((t.lanes.foldl (State.completeLane p g.val t) s2).retireBerths g.val).finishFeeds))) ∧
  (∀ (s : State) (p g : Nat) (t : Step) (b n k a : Nat) (c : Chunk), p < 128 → g < 64 →
    ((s.stream n).chunks.find? fun c => c.phase = .inStep t.num) = some c → (s.stream n).berth = some k → c.feed = none →
    Params.kind (s.params g) = 0 → c.final = false → region c.resultAddr = some (.host a) →
    let r := s.params g
    let off := State.windowOff (Params.outBase r) + b * Params.outLane r
    let raw := s.readWindow p off (Params.payload r)
    let later := (((s.stream n).chunks.filter (· ≠ c)).map Chunk.gap).foldl (· + ·) 0
    let bytes := State.resultHeader c ((s.stream n).gap - later ≠ 0) t.replayed false (t.start - c.sealTime) (s.time - t.start) raw.length ++ raw
    s.windowPoison p off (Params.payload r) = false → s.rdn 0x2100 3 = 1 → (s.stream n).state ≠ .frozen → s.busMaster (p + 1) = true →
    c.resultAddr + bytes.length ≤ 0x1000000000000 →
    ∃ u : State, State.completeLane p g t s (b, n) = u.endChunk p n c (if t.replayed then 2 else if t.corrected.contains n then 1 else 0) t.replayed ∧
      u.fromHost (s.busAddr p a) bytes.length = bytes ∧ (u.stream n).image = s.readState p (s.berthOff g k) (Params.stateBytes r) ∧
      (u.stream n).lastEnd = s.time ∧ (u.stream n).gap = later)) ∧
  (∀ (s : State) (k : Fin 2), s.alive = true → 3 ≤ s.power.state → s.tdmRate k.val ≠ 0 →
    let silent (c : Nat) : Prop := s.tdmStream c = 0xFFFF ∨ (s.stream (s.tdmStream c)).state = .frozen ∨
      (s.stream (s.tdmStream c)).state = .moved ∨ (s.tdmChannel c).playing = false
    let word (v : W16) := State.tdmWord (bits (s.rdn 0x5500 (k.val + 1)) 5 4 = 1) v
    Completes (.tdmFrame k) s fun t => ∃ ws, t.out = .tdm k.val ws :: s.out ∧ ws.length = 8 ∧
      (∀ i, i < 8 →
        (silent (8 * k.val + i) → ws[i]? = some (word 0) ∧ t.tdmChannel (8 * k.val + i) = s.tdmChannel (8 * k.val + i)) ∧
        (¬ silent (8 * k.val + i) → (s.tdmChannel (8 * k.val + i)).fifo = [] →
          ws[i]? = some (word 0) ∧ t.rdn 0x5512 (8 * k.val + i + 1) = (s.rdn 0x5512 (8 * k.val + i + 1) + 1) % 4294967296) ∧
        (∀ v rest, ¬ silent (8 * k.val + i) → (s.tdmChannel (8 * k.val + i)).fifo = v :: rest →
          ws[i]? = some (word v) ∧ t.tdmChannel (8 * k.val + i) = { s.tdmChannel (8 * k.val + i) with fifo := rest })) ∧
      t.streams = s.streams ∧ t.mem = s.mem)

/-- Tickets (R179): with 256 outstanding, a buffer too small, a group that does not run or a failed random source a TICKET ends with its status; otherwise the ticket is outstanding from now on for its life, and its record goes to host memory with the completion; it is gone when its life ends, and no other with it. EXPORT (R180, Table 6-8): the first check that fails gives the status, and a destination whose certificate is not the manufacturer's raises PEER_AUTH; otherwise the stream is EXPORTING while chunks of it that were sealed before are under way, those sealed after the export's seal having ended, and with the last of them becomes MOVED with its blob kept, which is then written. IMPORT (R181, Table 6-10): the first check that the blob fails gives the status with IMPORT_REJECT, and a failed signature raises its security event; a blob that passes opens a FREE context with everything it carries, and its ticket is spent. -/
def Obligations.StreamMoves : Prop :=
  (∀ s : State,
    (∀ d : DescImage, Starts 0x42 d [] s →
      let p := d.part.val
      let b := begun d [] s
      let g := dBody d.raw 0 1
      let at_ (met : Met) (u : State) : Prop := Sys2Proof.Machine.exec (.ticket d met) s = .next u
      (∀ met, 256 ≤ b.tickets.length → at_ met (endedIn d b 0x48 0 0)) ∧
      (b.tickets.length < 256 →
        (∀ met, dBody d.raw 0x10 4 < 6576 → at_ met (endedIn d b 0x10 0 0)) ∧
        (6576 ≤ dBody d.raw 0x10 4 →
          (∀ met, (b.groupRunning g = false ∨ b.groupPart g ≠ p) → at_ met (endedIn d b 0x40 0 0)) ∧
          (b.groupRunning g = true → b.groupPart g = p →
            (∀ met, b.randomFailed = true → at_ met (endedIn d b 0x81 0 0)) ∧
            (b.randomFailed = false →
              (∀ t e, b.hostRange p (workOf d []) (dBody d.raw 8 8) 6576 = (t, .error e) → at_ ⟨[], false⟩ (endedIn d t e 0 0)) ∧
              (∀ t a, b.hostRange p (workOf d []) (dBody d.raw 8 8) 6576 = (t, .ok a) →
                let v := slice (Config.drbg b.sec.draws 16) 0 16
                ∃ u : State, at_ ⟨[], false⟩ (u.endWorkWith p d.slot.val 0 0 0 false [(a, u.ticketRecord v)]) ∧
                  u.tickets = b.tickets ++ [⟨BitVec.ofNat 128 (leNat v), p, g, s.time, s.time + s.rdn 0x5002 1 * 1000000⟩] ∧
                  u.sec.draws = s.sec.draws + 1)))))) ∧
    (∀ v, s.alive = true → Completes (.ticketExpiry v) s fun t =>
      (∀ k, k ∈ t.tickets ↔ k ∈ s.tickets ∧ (k.value ≠ v ∨ s.time < k.expires)) ∧ { t with tickets := s.tickets } = s)) ∧
  (∀ s : State,
    (∀ (d : DescImage) (record : List Byte), Starts 0x43 d record s →
      let p := d.part.val
      let b := begun d record s
      let i := dBody d.raw 0 2
      let n := b.streamNo p i
      let x := b.stream n
      let at_ (u : State) : Prop := Sys2Proof.Machine.exec (.exportStream d record ⟨[], false⟩) s = .next u
      let rec_ := slice record 0 (dBody d.raw 0x10 4)
      let cert := slice rec_ 0x40 (field rec_ 6 2)
      (b.streamCount p ≤ i → at_ (endedIn d b 0x10 0 0)) ∧
      (i < b.streamCount p → x.state = .free → at_ (endedIn d b 0x40 0 0)) ∧
      (i < b.streamCount p → x.state ≠ .free → ((x.state ≠ .idle ∧ x.state ≠ .moved) ∨ x.closing ≠ none ∨ b.feedHolds n = true) →
        at_ (endedIn d b 0x44 0 0)) ∧
      (∀ a, i < b.streamCount p → x.state = .idle → x.closing = none → b.feedHolds n = false →
        b.hostRange p (workOf d record) (dBody d.raw 8 8) (dBody d.raw 0x10 4) = (b, .ok a) → 64 + field rec_ 6 2 ≤ dBody d.raw 0x10 4 →
        field rec_ 0 4 = 0x544B5453 → field rec_ 4 2 = 0x0100 → State.blobBytes x.image.length 6512 ≤ dBody d.raw 0x14 4 → b.randomFailed = false →
        (∃ c ∈ x.chunks, BitVec.ofNat 32 (dSeq d.raw) ∉ c.behind) →
        ∃ u : State, at_ u ∧ if certOk 1 cert = true ∧ slice cert 0x10 16 = slice rec_ 8 16 then
            (u.stream n).state = .exporting ∧ (u.stream n).exporting = some d.slot.val ∧ (u.stream n).chunks = x.chunks.filter (fun c => !c.behind.contains (BitVec.ofNat 32 (dSeq d.raw))) ∧
            ∀ m, m ≠ n → u.stream m = s.stream m
          else u = (endedIn d b 0x80 0 0).security 5 (some p) (BitVec.ofNat 64 (field rec_ 8 8)))) ∧
    (∀ (k : Fin 16384) (p slot : Nat), s.alive = true → s.streamPart k.val = some p → (s.stream k.val).exporting = some slot →
      (s.stream k.val).chunks = [] → s.rdn 0x2100 3 = 1 → (s.stream k.val).state ≠ .failed →
      ∃ u : State, Sys2Proof.Machine.exec (.exportDrained k ⟨[], false⟩) s = .next (u.writeBlob p k.val slot (s.stream k.val).exportAddr 0) ∧
        (u.stream k.val).state = .moved ∧ (u.stream k.val).moveCount = (s.stream k.val).moveCount + 1 ∧ (u.stream k.val).berth = none ∧
        (u.stream k.val).exporting = none ∧
        (u.stream k.val).blob = s.makeBlob k.val (s.stream k.val).exportTo (s.stream k.val).exportDraw ∧ u.rd 0x5001 1 = s.rd 0x5001 1 ||| 0x10)) ∧
  (∀ (s : State) (d : DescImage) (blob : List Byte), Starts 0x44 d blob s →
    let p := d.part.val
    let b := begun d blob s
    let i := dBody d.raw 0 2
    let g := dBody d.raw 2 1
    let n := b.streamNo p i
    let bytes := dBody d.raw 4 4
    let v := slice blob 0 bytes
    let rejected (st : Nat) : State := endedIn d (b.raise 0x5001 6) st 0 0
    (∀ met, b.streamCount p ≤ i → Sys2Proof.Machine.exec (.importStream d blob met) s = .next (rejected 0x10)) ∧
    (∀ a, i < b.streamCount p → b.hostRange p (workOf d blob) (dBody d.raw 8 8) bytes = (b, .ok a) →
      ∃ u : State, Sys2Proof.Machine.exec (.importStream d blob ⟨[], false⟩) s = .next u ∧
        match b.checkBlob p i g bytes v with
        | .error e => u = if e = 0x80 then (rejected e).security 5 (some p) (BitVec.ofNat 64 (field v 0x10 8)) else rejected e
        | .ok image =>
          if (b.stream n).state ≠ .free then u = rejected 0x44
          else match b.tryPin p (Params.swapFrames (b.params g)) (.swap n) with
            | none => u = rejected 0x25
            | some _ => ∃ t : State, u = endedIn d (t.raise 0x5001 5) 0 0 0 ∧ (∀ k ∈ t.tickets, k.value.toNat ≠ field v 0x30 16) ∧
                t.stream n = { Stream.free with
                  state := .idle, group := g, next := BitVec.ofNat 32 (field v 0x78 4), tag := BitVec.ofNat 64 (field v 0x40 8)
                  moveCount := field v 0x48 4, framesSince := field v 0x80 8, gap := field v 0x7C 4 % 2, image := image }))

/-- Sequences (R188, R189, R199, R200): the first check that fails gives the status, and a pool without a page NO_PAGES; an opened context has its layout, no token and its own directory page; a closed one is FREE and no page's count has grown; a fork reads the source's pages up to its length, and the source is as it was; a truncation drops the pages beyond its blocks. -/
def Obligations.Sequences : Prop :=
  ∀ (s : State) (d : DescImage),
    let p := d.part.val
    let b := begun d [] s
    let f (o n : Nat) := dBody d.raw o n
    let c := b.seqBase p + f 0 2
    let q := s.seq c
    (Starts 0x50 d [] s →
      let at_ (u : State) : Prop := Sys2Proof.Machine.exec (.seqOpen d) s = .next u
      (b.seqCount p ≤ f 0 2 → at_ (endedIn d b 0x10 0 0)) ∧
      (f 0 2 < b.seqCount p →
        (q.state ≠ .free → at_ (endedIn d b 0x51 0 0)) ∧
        (q.state = .free →
          (State.layoutOk (f 2 1) (f 3 1) (f 4 2) (f 6 1) = false → at_ (endedIn d b 0x52 0 0)) ∧
          (State.layoutOk (f 2 1) (f 3 1) (f 4 2) (f 6 1) = true →
            let x : Seq := { Seq.free with
              state := .opened, layers := f 2 1, heads := f 3 1, headSize := f 4 2, fmt := f 6 1, maxTokens := f 8 4, tag := BitVec.ofNat 64 (f 0x10 8) }
            ((f 8 4 = 0 ∨ 262144 < f 8 4 ∨ 2097152 < State.regionPages x (f 8 4)) → at_ (endedIn d b 0x10 0 0)) ∧
            (0 < f 8 4 → f 8 4 ≤ 262144 → State.regionPages x (f 8 4) ≤ 2097152 →
              ((∀ k, b.pageFree p k = false) → at_ (endedIn d (b.raise 0x5801 1) 0x55 0 0)) ∧
              (∀ k, b.pageFree p k = true → (∀ m, m < k → b.pageFree p m = false) →
                ∃ u : State, at_ (endedIn d u 0 0 0) ∧ u.seq c = { x with dir := k } ∧ u.pageCount p k = 1 ∧
                (∀ m, m ≠ c → u.seq m = s.seq m) ∧ u.mem.tile = s.mem.tile ∧ u.mem.state = s.mem.state ∧ u.mem.host = s.mem.host)))))) ∧
    (Starts 0x51 d [] s →
      let at_ (u : State) : Prop := Sys2Proof.Machine.exec (.seqClose d) s = .next u
      (b.seqCount p ≤ f 0 2 → at_ (endedIn d b 0x10 0 0)) ∧
      (f 0 2 < b.seqCount p → q.state = .free → at_ (endedIn d b 0x50 0 0)) ∧
      (f 0 2 < b.seqCount p → q.state ≠ .free → ∃ u : State, at_ (endedIn d u 0 0 0) ∧ u.seq c = Seq.free ∧ (∀ m, m ≠ c → u.seq m = s.seq m) ∧
        ∀ k, u.pageCount p k ≤ s.pageCount p k)) ∧
    (Starts 0x52 d [] s →
      let at_ (u : State) : Prop := Sys2Proof.Machine.exec (.seqFork d) s = .next u
      let e := b.seqBase p + f 2 2
      ((b.seqCount p ≤ f 0 2 ∨ b.seqCount p ≤ f 2 2) → at_ (endedIn d b 0x10 0 0)) ∧
      (f 0 2 < b.seqCount p → f 2 2 < b.seqCount p →
        (q.state = .free → at_ (endedIn d b 0x50 0 0)) ∧
        (q.state = .failed → at_ (endedIn d b 0x22 0 0)) ∧
        (q.state = .opened →
          ((s.seq e).state ≠ .free → at_ (endedIn d b 0x51 0 0)) ∧
          ((s.seq e).state = .free →
            (q.length < f 4 4 → at_ (endedIn d b 0x53 0 0)) ∧
            (f 4 4 ≤ q.length →
              ((f 8 4 < f 4 4 ∨ 262144 < f 8 4 ∨ 2097152 < State.regionPages q (f 8 4)) → at_ (endedIn d b 0x10 0 0)) ∧
              (f 4 4 ≤ f 8 4 → f 8 4 ≤ 262144 → State.regionPages q (f 8 4) ≤ 2097152 →
                at_ (endedIn d (b.raise 0x5801 1) 0x55 0 0) ∨ ∃ u : State, at_ (endedIn d u 0 0 0) ∧
                  (u.seq e).state = .opened ∧ (u.seq e).length = f 4 4 ∧ (u.seq e).maxTokens = f 8 4 ∧ (u.seq e).tag = BitVec.ofNat 64 (f 0x10 8) ∧
                  (∀ v, State.kvPage (u.seq e) v = if v < State.regionPages q (f 4 4) then State.kvPage q v else none) ∧
                  ∀ m, m ≠ e → u.seq m = s.seq m)))))) ∧
    (Starts 0x53 d [] s →
      let at_ (u : State) : Prop := Sys2Proof.Machine.exec (.seqTruncate d) s = .next u
      (b.seqCount p ≤ f 0 2 → at_ (endedIn d b 0x10 0 0)) ∧
      (f 0 2 < b.seqCount p →
        (q.state = .free → at_ (endedIn d b 0x50 0 0)) ∧
        (q.state = .failed → at_ (endedIn d b 0x22 0 0)) ∧
        (q.state = .opened →
          (q.length < f 4 4 → at_ (endedIn d b 0x53 0 0)) ∧
          (f 4 4 = q.length → at_ (endedIn d b 0 0 0)) ∧
          (f 4 4 < q.length → ∃ u : State, at_ (endedIn d u 0 0 0) ∧ (u.seq c).length = f 4 4 ∧ (u.seq c).state = .opened ∧
            (∀ v, State.kvPage (u.seq c) v = if State.regionPages q (f 4 4) ≤ v then none else State.kvPage q v) ∧
            ∀ m, m ≠ c → u.seq m = s.seq m))))

/-- Where SEQ_OPEN, SEQ_CLOSE, SEQ_FORK and SEQ_TRUNCATE complete with their own effect (R188, R189, R200, R201): an OPEN of a free context with an allowed layout and a free pool page; a CLOSE of a context that is not free; a FORK of an open one into a free one, for no more tokens than it holds, with pool pages for the directory and the leaves; a TRUNCATE of an open one to no more tokens than it holds. -/
def Obligations.SequencesComplete : Prop :=
  ∀ (s : State) (d : DescImage),
    let p := d.part.val
    let b := begun d [] s
    let f (o n : Nat) := dBody d.raw o n
    let c := b.seqBase p + f 0 2
    let e := b.seqBase p + f 2 2
    let q := s.seq c
    let x : Seq := { Seq.free with
      state := .opened, layers := f 2 1, heads := f 3 1, headSize := f 4 2, fmt := f 6 1, maxTokens := f 8 4, tag := BitVec.ofNat 64 (f 0x10 8) }
    (∀ k, Starts 0x50 d [] s → f 0 2 < b.seqCount p → q.state = .free → State.layoutOk (f 2 1) (f 3 1) (f 4 2) (f 6 1) = true →
      0 < f 8 4 → f 8 4 ≤ 262144 → State.regionPages x (f 8 4) ≤ 2097152 →
      b.pageFree p k = true → (∀ m, m < k → b.pageFree p m = false) →
      Completes (.seqOpen d) s fun t => t.seq c = { x with dir := k } ∧ ∀ m, m ≠ c → t.seq m = s.seq m) ∧
    (Starts 0x51 d [] s → f 0 2 < b.seqCount p → q.state ≠ .free →
      Completes (.seqClose d) s fun t => t.seq c = Seq.free ∧ ∀ m, m ≠ c → t.seq m = s.seq m) ∧
    (Starts 0x52 d [] s → f 0 2 < b.seqCount p → f 2 2 < b.seqCount p → q.state = .opened → (s.seq e).state = .free →
      f 4 4 ≤ q.length → f 4 4 ≤ f 8 4 → f 8 4 ≤ 262144 → State.regionPages q (f 8 4) ≤ 2097152 →
      (∀ v k, State.kvPage q v = some k → b.pageFree p k = false) →
      1 + (State.regionPages q (f 4 4) + 8191) / 8192 ≤ b.freePages p →
      Completes (.seqFork d) s fun t =>
        (t.seq e).state = .opened ∧ (t.seq e).length = f 4 4 ∧ (t.seq e).maxTokens = f 8 4 ∧
        (∀ v, State.kvPage (t.seq e) v = if v < State.regionPages q (f 4 4) then State.kvPage q v else none) ∧
        ∀ m, m ≠ e → t.seq m = s.seq m) ∧
    (Starts 0x53 d [] s → f 0 2 < b.seqCount p → q.state = .opened → f 4 4 ≤ q.length →
      Completes (.seqTruncate d) s fun t =>
        (t.seq c).state = .opened ∧ (t.seq c).length = f 4 4 ∧
        (f 4 4 < q.length → ∀ v, State.kvPage (t.seq c) v = if State.regionPages q (f 4 4) ≤ v then none else State.kvPage q v) ∧
        ∀ m, m ≠ c → t.seq m = s.seq m)

/-- ATTEND (R199, R209 to R212): the request's first failing check gives its status; otherwise its lanes are judged in table order and its invocation runs on the attention plan, with a lane for each entry of the table, each admitted over its new tokens or rejected with its own status; at its end the lanes take the outcome, and the invocation is gone. -/
def Obligations.AttendRuns : Prop :=
  (∀ (s : State) (d : DescImage) (table : List Byte), Starts 0x54 d table s →
    let p := d.part.val
    let b := begun d table s
    let id := BitVec.ofNat 64 (dBody d.raw 0 8)
    let n := dBody d.raw 0x18 2
    let t := b.laneTable p (workOf d table)
    let lanes := (List.range n).map fun i => (field t (8 * i) 2, field t (8 * i + 2) 2)
    let at1 := b.tableAt p id (dBody d.raw 8 8) (8 * n)
    let at2 := b.tableAt p id (dBody d.raw 0x10 8) (8 * n)
    let ends (met : Met) (u : State) (st : Nat) : Prop :=
      Sys2Proof.Machine.exec (.attend d table met) s = .next ((endedIn d u st 0 0).chooseStops p)
    (∀ met, ((∃ i, i < n ∧ field t (8 * i + 4) 4 ≠ 0) ∨ State.lanesAdjacent (lanes.map Prod.fst) = false) → ends met b 0x12) ∧
    ((∀ i, i < n → field t (8 * i + 4) 4 = 0) → State.lanesAdjacent (lanes.map Prod.fst) = true →
      (∀ met, b.findPlan p id = none → ends met b 0x56) ∧
      (∀ met l, b.findPlan p id = some l → l.kind ≠ 2 → ends met b 0x56) ∧
      (∀ l, b.findPlan p id = some l → l.kind = 2 →
        (∀ met, (n = 0 ∨ field l.activeParams 0xE 2 < n ∨ at1 = 0x10 ∨ at2 = 0x10) → ends met b 0x10) ∧
        (n ≠ 0 → n ≤ field l.activeParams 0xE 2 → at1 ≠ 0x10 → at2 ≠ 0x10 →
          (∀ met, (at1 ≠ 0 ∨ at2 ≠ 0) → ends met (b.raise 0x4001 9) 0x24) ∧
          (at1 = 0 → at2 = 0 → l.place ≠ [] →
            (State.isHost (dBody d.raw 8 8) = true → b.busMaster (State.workFn p (workOf d table)) = false → ends ⟨[], false⟩ b.busBlocked 0x23) ∧
            ((State.isHost (dBody d.raw 8 8) = false ∨ b.busMaster (State.workFn p (workOf d table)) = true) →
              ((b.tableRead p l (dBody d.raw 8 8) (8 * n)).1 = 0x20 → ends ⟨[], false⟩ b 0x20) ∧
              ((b.tableRead p l (dBody d.raw 8 8) (8 * n)).1 = 0 →
                (∀ c, l.active.cheaps[0]? = some c → (b.runOn p id l.place).liveMarked l c = none) →
                ∃ u : State, Sys2Proof.Machine.exec (.attend d table ⟨[], false⟩) s = .next (u.chooseStops p) ∧
                  ∃ v ∈ (u.part p).invs, v.planId = id ∧ v.slot = d.slot.val ∧ v.attend = true ∧ v.cheap = 0 ∧
                    v.lanes.map Lane.seq = lanes.map (fun x => s.seqBase p + x.1) ∧ v.lanes.map Lane.newTokens = lanes.map Prod.snd ∧
                    ∀ x ∈ v.lanes, (x.status = 0 ∧ x.last = x.first + x.newTokens) ∨ (x.status ≠ 0 ∧ x.first = 0 ∧ x.last = 0)))))))) ∧
  (∀ (s : State) (p : Fin 128) (id : W64) (l : Loaded) (v : Invocation), s.findPlan p.val id = some l → s.findInv p.val id = some v →
    s.progresses p.val id = true → v.attend = true → s.shiftAhead l v = false →
    ∀ met u st, s.attendMeets p.val l v met = (u, st) →
      let w := u.updInv p.val id fun v => { v with corrected := v.corrected || st = 1 }
      let at_ (t : State) : Prop := Sys2Proof.Machine.exec (.attendStepEnd p id met) s = .next t
      let gone (t : State) : Prop := ∀ y ∈ (t.part p.val).invs, y.planId ≠ id
      (0x10 ≤ st → at_ (u.endInvocation p.val id st) ∧ gone (u.endInvocation p.val id st)) ∧
      (∀ t x, st < 0x10 → w.advanceEnd p.val id = (t, .ended x) → at_ (t.endInvocation p.val id x) ∧ gone (t.endInvocation p.val id x)) ∧
      (∀ t, st < 0x10 → w.advanceEnd p.val id = (t, .waits) → at_ t) ∧
      (∀ t, st < 0x10 → w.advanceEnd p.val id = (t, .passed) → at_ (t.endInvocation p.val id 0) ∧ gone (t.endInvocation p.val id 0)))

/-! ### Cameras and edge engines -/

/-- Packets of a camera port (R219 to R227): a Frame Start ends a frame still open and begins the next, numbered after it, under the present settings; lines count, good ones are kept, a bad one cuts the frame and discards what the frame kept from its row on, and lines beyond the height or after the cut are dropped and counted; embedded data is kept, and a bad embedded line or one of another data type cuts too; a Line Start or Line End is ignored; a Frame End ends the frame with its last exposure; a packet on no bound channel is dropped and counted. That a LONG_PACKET of a short data type stands for a short packet is the model's choice (log entry 67). The end of a frame and its notice (R224, R225, R237 to R239, Table 8-7): a frame without a packet for too long ends; a short one is counted; the frame of a pipeline joins its processed frames with what the notice says; the notice step writes the oldest notice to its ring and moves the frame to the recent ones, and withholds it while no host holds the lease. -/
def Obligations.FrameReception : Prop :=
  (∀ (s : State) (port : Fin 4) (vc : Fin 16), s.portOn port.val = true →
    (s.startSensor port.val vc.val = none → s.channelSensor port.val vc.val = none →
      Sys2Proof.Machine.exec (.frameStart port vc) s = .next ((s.bump32 0x6011 (port.val + 1) 1).raise 0x6001 3) ∧
      Sys2Proof.Machine.exec (.frameEnd port vc) s = .next ((s.bump32 0x6011 (port.val + 1) 1).raise 0x6001 3) ∧
      ∀ (dt : BitVec 6) wc a b c bytes, 0x10 ≤ dt.toNat ∨ a = false → Sys2Proof.Machine.exec (.longPacket port vc dt wc a b c bytes) s =
        .next ((s.bump32 0x6011 (port.val + 1) 1).raise 0x6001 3)) ∧
    (∀ (dt : BitVec 6) wc b c bytes, dt.toNat < 0x10 → Sys2Proof.Machine.exec (.longPacket port vc dt wc true b c bytes) s = .next s) ∧
    (∀ n, s.startSensor port.val vc.val = some n →
      Sys2Proof.Machine.exec (.frameStart port vc) s = .next ((s.endFrame n true).beginFrame n) ∧
      ((s.sensor n).frame = none → Completes (.frameStart port vc) s fun t => ∃ f, (t.sensor n).frame = some f ∧
        f.seq = (s.rdn 0x6053 (n + 1) + 1) % 4294967296 ∧ t.rdn 0x6053 (n + 1) = f.seq ∧ f.start = s.time ∧ f.cfg = s.sensorCfg n ∧
        f.counts = [] ∧ f.lines = [] ∧ f.cut = none ∧ f.dropped = 0 ∧ f.long = false ∧
        t.rd 0x6060 (n + 1) = s.rd 0x6060 (n + 1) + 1 ∧ t.mem = s.mem)) ∧
    (∀ n e f, s.channelSensor port.val vc.val = some (n, e) → (s.sensor n).frame = some f →
      let count (x : Nat) := NMap.get (fun _ => 0) f.counts x
      let seen (x : Nat) := { f with counts := NMap.set (fun _ => 0) f.counts x (count x + 1) }
      let cutAt (x : Nat) (u : State) : State :=
        (u.updFrame n fun _ => ({ seen x with cut := some (count x) }.cutLines (count x)).1).discardLines n
          ({ seen x with cut := some (count x) }.cutLines (count x)).2
      let dropped : State := (s.bump32 0x6064 (n + 1) 1).raise 0x6001 3
      (s.startSensor port.val vc.val = none → Sys2Proof.Machine.exec (.frameStart port vc) s =
        .next (s.updFrame n fun f => { f with begun := if f.begun.contains e then f.begun else e :: f.begun })) ∧
      (∀ wc full bytes, Sys2Proof.Machine.exec (.longPacket port vc 0x12 wc true true full bytes) s =
        .next (s.updFrame n fun x => { x with embedded := (x.embedded ++ bytes).take 256 })) ∧
      (∀ (dt : BitVec 6) wc a b full bytes, 0x10 ≤ dt.toNat → count e < f.cfg.height → f.cut = none →
        ((dt = 0x12 ∧ (a && b) = false) ∨ (dt ≠ 0x12 ∧ State.lineExposure f.cfg e dt.toNat = none)) →
        Sys2Proof.Machine.exec (.longPacket port vc dt wc a b full bytes) s = .next (cutAt e dropped)) ∧
      (∀ (dt : BitVec 6) wc full bytes x, 0x10 ≤ dt.toNat → dt ≠ 0x12 → State.lineExposure f.cfg e dt.toNat = some x →
        let y := count x
        let g := seen x
        let codes := unpack (rawBits f.cfg.dataType) f.cfg.width bytes
        (f.cfg.height ≤ y → Sys2Proof.Machine.exec (.longPacket port vc dt wc true true full bytes) s =
          .next (((s.updFrame n fun _ => { g with long := true, dropped := f.dropped + 1 }).bump64 0x6063 (n + 1) 1).raise 0x6001 2)) ∧
        (y < f.cfg.height → (∃ c, f.cut = some c ∧ c ≤ y) → Sys2Proof.Machine.exec (.longPacket port vc dt wc true true full bytes) s =
          .next (((s.updFrame n fun _ => { g with dropped := f.dropped + 1 }).bump64 0x6063 (n + 1) 1).raise 0x6001 2)) ∧
        (y < f.cfg.height → f.cut = none → x ∈ f.begun → wc = ceilDiv (f.cfg.width * rawBits f.cfg.dataType) 8 →
          Sys2Proof.Machine.exec (.longPacket port vc dt wc true true false bytes) s =
            .next (s.updFrame n fun _ => { g with lines := NMap.set (fun _ => []) f.lines (x * 16384 + y) codes })) ∧
        (y < f.cfg.height → f.cut = none → (full = true ∨ x ∉ f.begun ∨ wc ≠ ceilDiv (f.cfg.width * rawBits f.cfg.dataType) 8) →
          Sys2Proof.Machine.exec (.longPacket port vc dt wc true true full bytes) s = .next (cutAt x s)) ∧
        (∀ a b, (a && b) = false → y < f.cfg.height → f.cut = none →
          Sys2Proof.Machine.exec (.longPacket port vc dt wc a b full bytes) s = .next (cutAt x dropped))) ∧
      ((f.cfg.staggered = true ∨ f.cfg.exposures ≤ (if f.ended.contains e then f.ended else e :: f.ended).length) →
        Sys2Proof.Machine.exec (.frameEnd port vc) s = .next (s.endFrame n false)) ∧
      (f.cfg.staggered = false → (if f.ended.contains e then f.ended else e :: f.ended).length < f.cfg.exposures →
        Sys2Proof.Machine.exec (.frameEnd port vc) s = .next (s.updFrame n fun x => { x with ended := if f.ended.contains e then f.ended else e :: f.ended })))) ∧
  ((∀ (s : State) (n : Fin 16) (f : Frame), s.serves = true → (s.sensor n.val).frame = some f → f.long = false →
    Completes (.frameTimeout n) s fun t => (t.sensor n.val).frame = none ∧
      (f.pipe = none → f.cfg.rawSlots = 0 → t.mem = s.mem ∧ t.pipes = s.pipes ∧ t.rdn 0x6061 (n.val + 1) =
        if f.valid < f.cfg.height then (s.rdn 0x6061 (n.val + 1) + 1) % 4294967296 else s.rdn 0x6061 (n.val + 1)) ∧
      (∀ k pc, f.pipe = some (k, pc) → k < 8 → ∃ note, (t.pipe k).ready = (s.pipe k).ready ++ [⟨note, pc, !f.cfg.isBayer, none⟩] ∧
        note.frameSeq = f.seq ∧ note.sensor = n.val ∧ note.buffer = f.buffer ∧ note.dropped = (f.cutLines f.valid).1.dropped ∧ note.seq = s.rdn 0x6113 (k + 1) ∧
        note.rows = (if f.buffer = none then 0 else validOutRows f.cfg pc f.valid) ∧
        t.rdn 0x6113 (k + 1) = (s.rdn 0x6113 (k + 1) + 1) % 4294967296)) ∧
  (∀ (s : State) (k : Fin 8) (note : Notice) (pc : PipeCfg) (mono : Bool) (rest : List FrameDone),
    s.serves = true → (s.pipe k.val).ready = ⟨note, pc, mono, none⟩ :: rest → s.rdn 0x6500 1 ≠ k.val → s.rdn 0x6500 2 ≠ k.val →
    (∀ w ∈ (s.part (s.rdn 0x6101 (k.val + 1))).work, w.phase ≠ .held ∨ dWaitPipe w.raw ≠ k.val) →
    Completes (.frameNotice k) s fun t =>
      (t.pipe k.val).ready = rest ∧ (t.pipe k.val).recent = (⟨note, pc, mono, none⟩ :: (s.pipe k.val).recent).take 16 ∧
      (∀ b, note.buffer = some b → pc.autoLock = true → b < 32 → t.rdn 0x6110 (k.val + 1) = (s.rdn 0x6110 (k.val + 1) ||| 2 ^ b)) ∧
      (s.rdn 0x2100 3 = 1 → s.busMaster (pc.part + 1) = true →
        t.fromHost (s.busAddr pc.part (pc.noticeAddr + note.seq % pc.noticeCount * 32)) 32 = note.bytes ∧
        t.rd 0x6111 (k.val + 1) = s.rd 0x6111 (k.val + 1) + 1) ∧
      (s.rdn 0x2100 3 ≠ 1 → t.mem = s.mem ∧ t.rd 0x6001 1 = s.rd 0x6001 1 ||| 0x200)))

/-- REPROCESS and EDGE_RUN (R246, R267 to R270): a request that names no pipeline or engine of its partition ends FORMAT, and one for a held engine FENCED; a raw slot too small for its frame, of other geometry than its sensor, with a poisoned line, or short where its pipeline takes no short frame ends RANGE, FORMAT, MEM_UE or FRAME_SHORT; another slot's frame joins its pipeline's processed frames, its completion due with its notice; an edge run takes its engine, after FORMAT, SHAPE, RANGE, ADDRESS and MEM_UE in this order; when it ends, the engine is free, the run is counted with its time, its output is written unless it met an uncorrected line, and the descriptor completes. -/
def Obligations.PipelineJobs : Prop :=
  (∀ (s : State) (d : DescImage), Starts 0x60 d [] s →
    let p := d.part.val
    let b := begun d [] s
    let k := dBody d.raw 0 1
    let h := b.getWindow p (dBody d.raw 8 8) 64
    let c := b.sensorCfg (field h 4 1)
    let pc := b.pipeCfg k
    let line := ceil64 (field h 8 2 * (if rawBits (field h 6 1) ≤ 16 then 2 else 4))
    let rows := (List.range (field h 5 1)).flatMap fun e => (List.range (min (field h 0xC 2) (field h 0xA 2))).map fun y =>
      (dBody d.raw 8 8 + 64 + (e * field h 0xA 2 + y) * line, line)
    let bad := ((dBody d.raw 8 8, 64) :: rows).any (b.rowPoison p)
    (∀ met, (8 ≤ k ∨ b.rdn 0x6100 (k + 1) ≠ 0x10 ∨ b.rdn 0x6101 (k + 1) ≠ p ∨ field h 0 4 ≠ 0x57415243 ∨ 16 ≤ field h 4 1 ∨ c.exposures = 0) →
      Sys2Proof.Machine.exec (.reprocess d met) s = .next (endedIn d b 0x12 0 0)) ∧
    (k < 8 → b.rdn 0x6100 (k + 1) = 0x10 → b.rdn 0x6101 (k + 1) = p → field h 0 4 = 0x57415243 → field h 4 1 < 16 → c.exposures ≠ 0 →
      (dBody d.raw 4 4 < 64 + field h 5 1 * field h 0xA 2 * line → ∀ met, Sys2Proof.Machine.exec (.reprocess d met) s = .next (endedIn d b 0x10 0 0)) ∧
      (64 + field h 5 1 * field h 0xA 2 * line ≤ dBody d.raw 4 4 →
      ((field h 8 2 ≠ c.width ∨ field h 5 1 ≠ c.exposures ∨ field h 6 1 ≠ c.dataType) → ∀ met, Sys2Proof.Machine.exec (.reprocess d met) s = .next (endedIn d b 0x12 0 0)) ∧
      (field h 8 2 = c.width → field h 5 1 = c.exposures → field h 6 1 = c.dataType →
      (bad = true → Sys2Proof.Machine.exec (.reprocess d ⟨[], false⟩) s = .next (endedIn d b 0x20 0 0)) ∧
      (bad = false → field h 0xC 2 < field h 0xA 2 → pc.acceptShort = false → Sys2Proof.Machine.exec (.reprocess d ⟨[], false⟩) s = .next (endedIn d b 0x60 0 0)) ∧
      (bad = false → (field h 0xA 2 ≤ field h 0xC 2 ∨ pc.acceptShort = true) → Completes (.reprocess d ⟨[], false⟩) s fun t =>
        ∃ note, (t.pipe k).ready = (b.pipe k).ready ++ [⟨note, pc, !c.isBayer, some (p, d.slot.val, 0)⟩] ∧ note.frameSeq = field h 0x10 4 ∧
          note.buffer = (b.takeBuffer k pc.buffers).1 ∧ note.seq = b.rdn 0x6113 (k + 1)))))) ∧
  (∀ (s : State) (d : DescImage), Starts 0x61 d [] s →
    let p := d.part.val
    let b := begun d [] s
    let f (o n : Nat) := dBody d.raw o n
    let e := f 0 1
    let g := b.readProgram p (f 0x28 8)
    let line := (EdgeProg.outW g (f 4 2)).toNat * EdgeProg.elem g
    (∀ met, e ∈ b.faults.heldEdges → Sys2Proof.Machine.exec (.edgeRun d met) s = .next (endedIn d b 0x70 0 0)) ∧
    (e ∉ b.faults.heldEdges →
      (∀ met, (2 ≤ e ∨ b.rdn 0x6500 (e + 1) ≠ 0x10 ∨ b.rdn 0x6501 (e + 1) ≠ p ∨ f 4 2 = 0 ∨ 8192 < f 4 2 ∨ f 6 2 = 0 ∨ 16383 < f 6 2 ∨ f 0x14 4 < f 4 2) →
        Sys2Proof.Machine.exec (.edgeRun d met) s = .next (endedIn d b 0x12 0 0)) ∧
      (e < 2 → b.rdn 0x6500 (e + 1) = 0x10 → b.rdn 0x6501 (e + 1) = p → 0 < f 4 2 → f 4 2 ≤ 8192 → 0 < f 6 2 → f 6 2 ≤ 16383 → f 4 2 ≤ f 0x14 4 →
        ((EdgeProg.ok g = false ∨ f 0x24 4 < line) → ∀ met, Sys2Proof.Machine.exec (.edgeRun d met) s = .next (endedIn d b 0x12 0 0)) ∧
        (EdgeProg.ok g = true → line ≤ f 0x24 4 → (EdgeProg.outH g (f 6 2) ≤ 0 ∨ EdgeProg.outW g (f 4 2) ≤ 0) →
          ∀ met, Sys2Proof.Machine.exec (.edgeRun d met) s = .next (endedIn d b 0x13 0 0)) ∧
        (EdgeProg.ok g = true → 0 < EdgeProg.outH g (f 6 2) → 0 < EdgeProg.outW g (f 4 2) → line ≤ f 0x24 4 →
        (EdgeProg.cin g - 1) * f 0x10 4 + (f 6 2 - 1) * f 0x14 4 + f 4 2 ≤ f 0x30 4 →
        (EdgeProg.planes g - 1) * f 0x20 4 + ((EdgeProg.outH g (f 6 2)).toNat - 1) * f 0x24 4 + line ≤ f 0x34 4 →
        b.inWindow p (f 8 8) (f 0x30 4) = true → b.inWindow p (f 0x18 8) (f 0x34 4) = true → b.inWindow p (f 0x28 8) (EdgeProg.length g) = true →
        (b.rowPoison p (f 0x28 8, EdgeProg.length g) = true → Sys2Proof.Machine.exec (.edgeRun d ⟨[], false⟩) s = .next (endedIn d b 0x20 0 0)) ∧
        (b.rowPoison p (f 0x28 8, EdgeProg.length g) = false →
        ∃ j : EdgeJob, Sys2Proof.Machine.exec (.edgeRun d ⟨[], false⟩) s = .next (b.setEdge e { b.edge e with job := some j }) ∧
          j.live = false ∧ j.part = p ∧ j.slot = d.slot.val ∧ j.start = s.time ∧ j.program = g ∧ j.corrected = false ∧
          j.blank = b.blankOf (p * 64 + d.slot.val)))))) ∧
  (∀ (s : State) (e : Fin 2) (j : EdgeJob) (micros : W32), s.alive = true → (s.edge e.val).job = some j →
    (j.live = false → ∃ u : State, Sys2Proof.Machine.exec (.edgeRunDone e micros ⟨[], false⟩) s =
        .next (u.endWork j.part j.slot (if s.edgePoison j then 0x20 else if j.corrected then 1 else 0) 0 0 false) ∧ (u.edge e.val).job = none ∧
      u.mem = (if s.edgePoison j then s.mem else (s.edgeOutput j).mem) ∧ u.rd 0x650B (e.val + 1) = s.rd 0x650B (e.val + 1) + 1 ∧ u.rdn 0x650D (e.val + 1) = micros.toNat) ∧
    (j.live = true → Completes (.edgeRunDone e micros ⟨[], false⟩) s fun t => (t.edge e.val).job = none ∧
      t.rd 0x650B (e.val + 1) = s.rd 0x650B (e.val + 1) + 1 ∧ t.rdn 0x650D (e.val + 1) = micros.toNat))

/-- Settings and I²C (R240 to R242, R247): a bad settings record is refused with its flag, and a good one is the next generation and waits, in place of one that waited; the end of its I²C writes, once they have the bus, settles the frame from which it applies, or drops it after its first writes (how many is free, log entry 68); a host transaction needs a free master and a record in range, goes to the bus once nothing else has it or waits for it, and ends with its status and the bytes read. -/
def Obligations.SensorControl : Prop :=
  ∀ s : State,
    (∀ (fn : Iface) (n : Fin 16) (r : List Byte), Reaches s fn 0x6050 (n.val + 1) → s.xferOf (ifaceNo fn) = none →
      let gen := (s.rdn 0x6051 (n.val + 1) + 1) % 4294967296
      (settingsOk r = false → Sys2Proof.Machine.exec (.sensorSettingsWrite fn n r) s = .next (transferred fn (s.raise 0x6001 7))) ∧
      (settingsOk r = true → ∃ t : State, Sys2Proof.Machine.exec (.sensorSettingsWrite fn n r) s = .next (transferred fn t) ∧
        t.sensor n.val = { s.sensor n.val with waiting := some (parseSettings r gen) } ∧ t.rdn 0x6051 (n.val + 1) = gen ∧
        t.rdn 0x6054 (n.val + 1) = (if (s.sensor n.val).waiting = none then s.rdn 0x6054 (n.val + 1) else (s.rdn 0x6054 (n.val + 1) + 1) % 4294967296) ∧
        t.mem = s.mem)) ∧
    (∀ (n : Fin 16) (i : IssuedSettings), s.alive = true → ((s.sensor n.val).issued.find? fun i => i.applies = none) = some i →
      let m := bits i.i2c 15 14
      let sent (ws : List W32) (u : State) : State :=
        (ws.foldl (fun u w => u.emit (.i2c m (State.settingsWrite i.i2c w) 0)) u).freeI2c m
      (∀ ok, (s.i2cM m).bus ≠ some (some n.val) → Sys2Proof.Machine.exec (.settingsI2cDone n ok) s = .next s) ∧
      ((s.i2cM m).bus = some (some n.val) → ∃ k, Sys2Proof.Machine.exec (.settingsI2cDone n false) s =
        .next (((sent (i.set.writes.take (k + 1)) s.draw.2).setSensor n.val
          { s.sensor n.val with issued := (s.sensor n.val).issued.filter (· ≠ i) }).raise 0x6001 8)) ∧
      ((s.i2cM m).bus = some (some n.val) → let late := State.seqLe ((i.issuedAt + 1) % 4294967296) (s.rdn 0x6053 (n.val + 1))
       let j := { i with applies := some ((i.issuedAt + (if late then 1 else 0) + s.rdn 0x6026 (n.val + 1)) % 4294967296), late := late }
       let t := (sent i.set.writes s).setSensor n.val { s.sensor n.val with issued := (s.sensor n.val).issued.map fun y => if y = i then j else y }
       Sys2Proof.Machine.exec (.settingsI2cDone n true) s = .next (if late then t.raise 0x6001 5 else t))) ∧
    (∀ (fn : Iface) (m : Fin 4) (data : List Byte), Reaches s fn 0x6310 (m.val + 1) → s.xferOf (ifaceNo fn) = none →
      ((s.i2cM m.val).busy = true → Sys2Proof.Machine.exec (.i2cTransfer fn m data) s = .next (domainEnds fn 0x08000022 s)) ∧
      ((s.i2cM m.val).busy = false → data.length ≠ 36 → Sys2Proof.Machine.exec (.i2cTransfer fn m data) s = .next (domainEnds fn 0x06070010 s)) ∧
      ((s.i2cM m.val).busy = false → data.length = 36 → (32 < field data 1 1 ∨ 32 < field data 2 1 ∨ 128 ≤ field data 0 1 ∨ field data 3 1 ≠ 0) →
        Sys2Proof.Machine.exec (.i2cTransfer fn m data) s = .next (domainEnds fn 0x06090030 s)) ∧
      ((s.i2cM m.val).busy = false → data.length = 36 → field data 1 1 ≤ 32 → field data 2 1 ≤ 32 → field data 0 1 < 128 → field data 3 1 = 0 →
        Sys2Proof.Machine.exec (.i2cTransfer fn m data) s = .next (transferred fn
          ((s.setI2c m.val { s.i2cM m.val with busy := true, status := 4, data := [], readBytes := field data 2 1, host := slice data 0 1 ++ slice data 4 (field data 1 1) }).grantI2c m.val)))) ∧
    (∀ m, (s.i2cM m).busy = true → (s.i2cM m).bus = none → (s.i2cM m).queue = [] →
      s.grantI2c m = (s.setI2c m { s.i2cM m with bus := some none }).emit (.i2c m (s.i2cM m).host (s.i2cM m).readBytes)) ∧
    (∀ m n rest, (s.i2cM m).bus = none → (s.i2cM m).queue = n :: rest →
      s.grantI2c m = s.setI2c m { s.i2cM m with bus := some (some n), queue := rest }) ∧
    (∀ m, (s.i2cM m).bus ≠ none → s.grantI2c m = s) ∧
    (∀ (m : Fin 4) (st : Fin 4) (data : List Byte),
      (s.alive = true → (s.i2cM m.val).busy = true → (s.i2cM m.val).bus = some none → Sys2Proof.Machine.exec (.i2cTransferDone m st data) s =
        .next ((s.setI2c m.val { s.i2cM m.val with busy := false, status := st.val, data := if st.val = 0 then slice data 0 (s.i2cM m.val).readBytes else [] }).freeI2c m.val)) ∧
      ((s.i2cM m.val).busy = false ∨ (s.i2cM m.val).bus ≠ some none → Sys2Proof.Machine.exec (.i2cTransferDone m st data) s = .next s))

/-! ### Listening -/

/-- Microphones, port clocks and settling (R276, R280, R283, R284): a silent microphone that is decoded sets its flag; a port's clock becomes the one that its state asks for, with its mark and a new settling interval, and its microphones' CIC stages begin anew, a main path at another rate than 16 kHz as a whole; the interval ends with its mark; the refractory period ends once the ring has run on by its length. The ring and stage 0 (R277, R278, R281, R285, R286): what a hop's PDM bits give, each microphone's through its own ring path at its port's ratio, and zeros for a port without a clock, stands in the ring with its gain, and its index ends at the hop's; a roost whose plan is loaded then runs on the hop, and a hop that meets a running invocation is skipped with its flag; an invocation ends with its score, and a score below the threshold starts the count anew; a due load of a plan that is not there fails, and of no plan empties the roost. -/
def Obligations.Listening : Prop :=
  (∀ s : State, s.power.state ≠ 0 →
    (∀ m : Fin 32, Sys2Proof.Machine.exec (.micSilent m) s = .next (if s.decoded m.val then s.raise 0x6801 2 else s)) ∧
    (∀ (k : Fin 4) (active : Bool),
      let now := NMap.get (fun _ => 0) s.audio.clocks k.val
      (now = s.portClock k.val → Sys2Proof.Machine.exec (.pdmClockChange k active) s = .next s) ∧
      (now ≠ s.portClock k.val → active = decide (s.portClock k.val = 2) → Completes (.pdmClockChange k active) s fun t =>
        NMap.get (fun _ => 0) t.audio.clocks k.val = s.portClock k.val ∧
        (∀ i, i < 8 → let m := 8 * k.val + i
          t.ringChain m = { s.ringChain m with integ := Chain.zero.integ, comb := Chain.zero.comb } ∧
          t.mainChain m = if s.mainRatio k.val = 48 then { s.mainChain m with integ := Chain.zero.integ, comb := Chain.zero.comb } else Chain.zero) ∧
        (s.portClock k.val = 0 → t.od = s.od ∧ t.audio.marks = s.audio.marks) ∧
        (s.portClock k.val ≠ 0 → t.rd 0x6801 1 = s.rd 0x6801 1 ||| 2 ∧ t.audio.marks.getLast? = some ⟨s.ringIndex, s.time, if active then 3 else 2⟩ ∧
          t.audio.settle = some (s.ringIndex + State.microSamples (s.rdn 0x6802 2))))) ∧
    (∀ n, s.audio.settle = some n → s.audio.ringOn = true →
      (n < s.ringIndex + 160 → Completes .settleEnd s fun t => t.audio.settle = none ∧ t.audio.marks.getLast? = some ⟨n, s.time, 4⟩ ∧ t.od = s.od) ∧
      (s.ringIndex + 160 ≤ n → Sys2Proof.Machine.exec .settleEnd s = .next s)) ∧
    (s.audio.refractory = true →
      (s.rdn 0x6850 0xC + 16 * s.rdn 0x6840 5 < s.ringIndex + 160 → Sys2Proof.Machine.exec .stage0RefractoryEnd s =
        .next { s with audio := { s.audio with refractory := false } }) ∧
      (s.ringIndex + 160 ≤ s.rdn 0x6850 0xC + 16 * s.rdn 0x6840 5 → Sys2Proof.Machine.exec .stage0RefractoryEnd s = .next s))) ∧
  ((∀ (s : State) (words : List (List (BitVec 24))), 2 ≤ s.power.state → s.audio.ringOn = true → s.audio.stage1 ≠ 1 → s.audio.stage2 ≠ 1 →
    let n := (s.ringIndex / 160 + 1) * 160
    let d := s.ringDecimate (n - s.ringIndex) words
    (∀ x ∈ s.listening, ((words[x.1]?).getD []).length = pdmWords (s.ringRatio (x.2 / 8)) (n - s.ringIndex)) →
    (∀ c m, s.listening = [(c, m)] → let r := s.ringRatio (m / 8)
      d.2 = [(c, m, if r = 0 then List.replicate (n - s.ringIndex) 0 else
        ((s.ringChain m).samples r (s.pdmHpf (m / 8)) (n - s.ringIndex) (pdmBits ((words[c]?).getD []))).2)]) ∧
    Completes (.roostHop words) s fun t => t.rd 0x6831 1 = BitVec.ofNat 64 n ∧
      (s.mem.poisonTile = [] → ∀ x ∈ d.2, ∀ (i : Nat) (v : BitVec 24), x.2.2[i]? = some v →
        s.ringFrom ≤ s.ringIndex + i → t.ringSample x.1 ((s.ringIndex + i : Nat) : Int) = sample16 (stage5 v (s.micGain x.2.1))) ∧
      (s.roostLoaded = true → s.audio.loadDue = false → s.audio.hop = none → t.audio = { d.1.audio with hop := some n }) ∧
      (s.roostLoaded = true → s.audio.hop ≠ none → t.audio = { d.1.audio with hits := 0 } ∧ t.rd 0x6801 1 = s.rd 0x6801 1 ||| 8) ∧
      (s.roostLoaded = false → t.audio = { d.1.audio with hits := 0 }) ∧ t.parts = s.parts ∧ t.streams = s.streams) ∧
  (∀ (s : State) (n : Nat) (pl : Plan), 2 ≤ s.power.state → s.roostLoaded = true → s.audio.hop = some n → s.audio.plan = some pl →
    let s1 := Run.finish (State.roostCtx pl) s true (Run.part (State.roostCtx pl) 0 none s)
    let score := BitVec.ofNat 32 (leNat (s1.tileBytes (State.roostTile * 0x100000 + 0x71010) 4))
    (s.scoreHit score = false → Completes .stage0InvocationEnd s fun t =>
      t.audio.hop = none ∧ t.audio.hits = 0 ∧ t.rdn 0x6840 6 = score.toNat) ∧
    (s.scoreHit score = true → s.rdn 0x6840 4 ≤ s1.audio.hits + 1 → s1.audio.refractory = false →
      ∃ u : State, Sys2Proof.Machine.exec .stage0InvocationEnd s = .next (u.stage0Event n) ∧ u.audio.hop = none ∧ u.rdn 0x6840 6 = score.toNat)) ∧
  (∀ (s : State), s.audio.loadDue = true → s.audio.hop = none → s.serves = true → 3 ≤ s.power.state → s.faults.roostHeld = false →
    (∀ met, s.rdn 0x6840 1 = 0xFFFF → Sys2Proof.Machine.exec (.roostPlanLoad met) s =
      .next (({ s with audio := { s.audio with plan := none, loadDue := false, hits := 0 } } : State).wrn 0x6840 7 0)) ∧
    (s.rdn 0x6840 1 ≠ 0xFFFF → (256 ≤ s.rdn 0x6840 1 ∨ (s.model (s.rdn 0x6840 1)).state ≤ 1 ∨ s.modelPlan (s.rdn 0x6840 1) (s.rd 0x6840 2) = none) →
      Completes (.roostPlanLoad ⟨[], false⟩) s fun t => t.audio.plan = none ∧ t.audio.loadDue = false ∧ t.rdn 0x6840 7 = 3 ∧ t.rdn 0x6840 8 = 0x33 ∧
        t.rd 0x6801 1 = s.rd 0x6801 1 ||| 0x100) ∧
    (∀ e pl v w, s.rdn 0x6840 1 ≠ 0xFFFF → s.rdn 0x6840 1 < 256 → 1 < (s.model (s.rdn 0x6840 1)).state →
      s.modelPlan (s.rdn 0x6840 1) (s.rd 0x6840 2) = some e → s.checkImage State.roostPart (s.rdn 0x6840 1) e none = .ok pl →
      s.checkVariant State.roostPart (s.rdn 0x6840 1) pl = .ok v → s.roostOk pl = true → s.roostWeights (s.rdn 0x6840 1) pl = .ok w →
      Completes (.roostPlanLoad ⟨[], false⟩) s fun t => t.audio.plan = some pl ∧ t.audio.loadDue = false ∧ t.audio.hits = 0 ∧
        t.rdn 0x6840 7 = 1 ∧ t.rdn 0x6840 8 = 0 ∧ t.parts = s.parts)))

/-- Feeds (R288 to R292): a feed without a running group, a free context or its frames is in FAULT; one that starts opens its context, IDLE in its group, from its start index, with its pre-roll staged from the ring; a chunk of a feed that has its samples and a free slot is sealed and counted; a stop with no chunk in a step frees the context and leaves the feed OFF, and one with such a chunk waits for it. The cascade (R287, R293, Table 10-5): a trigger marks the ring and, while the cascade is enabled, starts stage 1, which wakes the device to WATCH, or extends its window; a stop and a window that has run out leave the stage neither starting nor running, a window without a hit with its flag; before its end a window changes nothing; a stage that is starting runs with its feed once its group's plan runs and the device is in its state, and is in FAULT with its flag where it names no feed. -/
def Obligations.FeedsAndCascade : Prop :=
  (∀ (s : State) (f : Fin 8),
    (∀ fn, Reaches s fn 0x6906 (f.val + 1) →
      let p := s.feedPart f.val
      let n := s.streamNo p (s.feedStream f.val)
      let first : Int := if s.preroll f.val then (s.ringIndex : Int) - 32000 else s.ringIndex
      (((∀ g, s.feedGroup f.val = some g → s.groupRunning g = false) ∨ 128 ≤ p ∨ s.streamCount p ≤ s.feedStream f.val ∨ (s.part p).fenced = true ∨ (s.stream n).state ≠ .free) →
        Sys2Proof.Machine.exec (.feedStart fn f) s = .next (answered fn (s.failFeed f.val))) ∧
      (∀ g t, s.feedGroup f.val = some g → p < 128 → s.feedStream f.val < s.streamCount p → s.groupRunning g = true → (s.part p).fenced = false →
        (s.stream n).state = .free → (s.tryPin p (Params.swapFrames (s.params g)) (.swap n)).bind (fun u => u.stagePreroll f.val s.ringIndex) = some t →
        ∃ u : State, Sys2Proof.Machine.exec (.feedStart fn f) s = .next (answered fn u) ∧ u.feedState f.val = 2 ∧ u.feed f.val = ⟨some n, 0, (t.feed f.val).staged⟩ ∧
          (u.stream n).state = .idle ∧ (u.stream n).group = g ∧ (u.stream n).next = 0 ∧ u.rd 0x6908 (f.val + 1) = BitVec.ofInt 64 first ∧
          ∀ m, m ≠ n → u.stream m = s.stream m) ∧
      (∀ g, s.feedGroup f.val = some g → p < 128 →
        (s.tryPin p (Params.swapFrames (s.params g)) (.swap n)).bind (fun u => u.stagePreroll f.val s.ringIndex) = none →
        Sys2Proof.Machine.exec (.feedStart fn f) s = .next (answered fn (s.failFeed f.val))) ∧
      ((s.feed f.val).stream = none → Sys2Proof.Machine.exec (.feedStop fn f) s = .next (answered fn (s.wrn 0x6907 (f.val + 1) 0))) ∧
      (∀ k, (s.feed f.val).stream = some k → s.feedState f.val = 3 → Sys2Proof.Machine.exec (.feedStop fn f) s = .next (answered fn s)) ∧
      (∀ k, (s.feed f.val).stream = some k → s.feedState f.val ≠ 3 → s.closeWaits k = false → p < 128 →
        ∃ u : State, Sys2Proof.Machine.exec (.feedStop fn f) s = .next (answered fn u) ∧ u.feedState f.val = 0 ∧ u.feed f.val = Feed.off ∧ u.stream k = Stream.free) ∧
      (∀ k, (s.feed f.val).stream = some k → s.feedState f.val ≠ 3 → s.closeWaits k = true → p < 128 →
        ∃ u : State, Sys2Proof.Machine.exec (.feedStop fn f) s = .next (answered fn u) ∧ u.feedState f.val = 3 ∧ (u.feed f.val).stream = some k)) ∧
    (∀ e t, s.preroll f.val = true → (s.feed f.val).staged = [] → s.stagePreroll f.val e = some t →
      (t.feed f.val).staged = (s.feedMics f.val).map (fun m => match s.channelOf m with
        | some c => (List.range 32000).map fun (k : Nat) => s.ringSample c ((e : Int) - 32000 + (k : Int))
        | none => List.replicate 32000 0) ∧
      ((e : Int) - 32000 < s.ringFrom → t.rd 0x6801 1 = s.rd 0x6801 1 ||| 0x200)) ∧
    (∀ e, s.preroll f.val = false → s.stagePreroll f.val e = some s) ∧
    (s.serves = true → s.feedState f.val = 2 → s.feedChunk f.val ≠ 0 → s.feedSlotFree f.val = true → (s.feedGroup f.val).isSome = true → s.feedPart f.val < 128 →
      let x := s.feed f.val
      let sealed_ (t : State) : Prop := (t.feed f.val).next = x.next + 1 ∧ (t.feed f.val).stream = x.stream ∧ t.rd 0x6909 (f.val + 1) = s.rd 0x6909 (f.val + 1) + 1
      (∀ main, s.preroll f.val = true → (s.rd 0x6908 (f.val + 1)).toInt + ((x.next + 1) * s.feedChunk f.val : Nat) ≤ (s.ringIndex : Int) →
        Completes (.feedChunkSeal f main) s sealed_) ∧
      (∀ main, s.preroll f.val = true → (s.ringIndex : Int) < (s.rd 0x6908 (f.val + 1)).toInt + ((x.next + 1) * s.feedChunk f.val : Nat) →
        Sys2Proof.Machine.exec (.feedChunkSeal f main) s = .next s) ∧
      (∀ main, s.preroll f.val = false → main.length = (s.feedMics f.val).length →
        (∀ m ∈ s.feedMics f.val, NMap.get (fun _ => 0) s.audio.clocks (m / 8) = 2) →
        (∀ c ∈ main.zip (s.feedMics f.val), c.1.length = pdmWords (s.mainRatio (c.2 / 8)) (s.feedChunk f.val)) →
        Completes (.feedChunkSeal f main) s sealed_))) ∧
  (∀ s : State,
    (∀ fn, Reaches s fn 0x6850 0xB →
      (s.cascadeOn = false → Completes (.cascadeTrigger fn) s fun t => ∃ u : State, t = answered fn u ∧ u.audio.stage1 = s.audio.stage1 ∧
        u.audio.marks.getLast? = some ⟨s.ringIndex, s.time, 5⟩ ∧ u.rd 0x6801 1 = s.rd 0x6801 1 ||| 0x10 ∧ u.power = s.power) ∧
      (s.cascadeOn = true → State.stageOff s.audio.stage1 = true → s.power.state = 2 →
        ∃ u : State, Sys2Proof.Machine.exec (.cascadeTrigger fn) s = .next (answered fn u) ∧ u.audio.stage1 = 1 ∧ u.audio.start1 = s.ringIndex ∧
          u.audio.hit1 = false ∧ u.audio.window1 = s.time + s.rdn 0x6850 3 * 1000 ∧ 3 ≤ u.power.wakeDemand ∧ u.power.woken = true) ∧
      (s.cascadeOn = true → State.stageOn s.audio.stage1 = true →
        ∃ u : State, Sys2Proof.Machine.exec (.cascadeTrigger fn) s = .next (answered fn u) ∧ u.audio.stage1 = s.audio.stage1 ∧
          u.audio.window1 = s.time + s.rdn 0x6850 3 * 1000) ∧
      ∃ u : State, Sys2Proof.Machine.exec (.cascadeStop fn) s = .next (answered fn u) ∧ State.stageOn u.audio.stage1 = false ∧ State.stageOn u.audio.stage2 = false) ∧
    (s.alive = true →
      (State.stageOn s.audio.stage1 = true → s.audio.window1 ≤ s.time → Completes .stage1WindowEnd s fun t => State.stageOn t.audio.stage1 = false ∧
        (s.audio.hit1 = false → t = (s.raise 0x6801 7).stopStage 1)) ∧
      ((State.stageOn s.audio.stage1 = false ∨ s.time < s.audio.window1) → Sys2Proof.Machine.exec .stage1WindowEnd s = .next s) ∧
      (State.stageOn s.audio.stage2 = true → s.audio.window2 ≤ s.time → Completes .stage2WindowEnd s fun t => State.stageOn t.audio.stage2 = false ∧
        (s.audio.hit2 = false → t = (s.raise 0x6801 7).stopStage 2)) ∧
      ((State.stageOn s.audio.stage2 = false ∨ s.time < s.audio.window2) → Sys2Proof.Machine.exec .stage2WindowEnd s = .next s)) ∧
    (∀ k, s.stageOf k = 1 → k + 2 ≤ s.power.state → s.serves = true →
      let f := s.stageFeed k
      (8 ≤ f → s.runStage k = (s.setStage k 4).raise 0x6801 8) ∧
      (∀ g, f < 8 → s.preroll f = false → s.feedGroup f = some g → s.groupRunning g = true →
        let t := (s.startFeed f (if k = 1 then s.audio.start1 else s.audio.start2)).dropPreroll f
        s.runStage k = t.setStage k (if t.feedState f = 2 then 2 else 4))))

/-! ### Power and the link -/

/-- Changes of state (R320, R321, R324, R328): when the hold of a state above the target has ended the device steps down one state: in WATCH the retained partitions, the streams and the sequences stay; in LISTEN no plan and no frame of a weight cache stays, and the core is off; in DORMANT the ring has stopped. A device below its target enters it. Otherwise nothing happens. -/
def Obligations.PowerSteps : Prop :=
  ∀ s : State,
    ((s.powerRuns = false ∨ s.power.state ≤ s.powerTarget) → Sys2Proof.Machine.exec .holdExpiry s = .next s) ∧
    (s.powerRuns = true → s.powerTarget < 4 → s.power.state = 4 → Completes .holdExpiry s fun t => t.power.state = 3 ∧
      t.rd 0x8001 1 &&& 1 = 1 ∧ t.streams = s.streams ∧ t.seqs = s.seqs ∧ (∀ p, s.retained p = true → t.part p = s.part p) ∧
      ∀ a, a < 0x20000000 → s.offInWatch (512 + a / 0x100000) = false → t.tileBytes a 1 = s.tileBytes a 1) ∧
    (s.powerRuns = true → s.powerTarget < 3 → s.power.state = 3 → Completes .holdExpiry s fun t => t.power.state = 2 ∧
      t.rd 0x8001 1 &&& 0x801 = 0x801 ∧ t.power.coreEn = false ∧ t.power.woken = false ∧ t.can 0 = Can.off ∧ t.can 1 = Can.off ∧
      ∀ p, p < 128 → (t.part p).plans = [] ∧ (t.part p).frames = []) ∧
    (s.powerRuns = true → s.powerTarget < 2 → s.power.state = 2 → Completes .holdExpiry s fun t => t.power.state = 1 ∧
      t.rd 0x8001 1 &&& 1 = 1 ∧ t.audio.ringOn = false) ∧
    ((s.powerRuns = false ∨ s.powerTarget ≤ s.power.state) → Sys2Proof.Machine.exec .stateStepUp s = .next s) ∧
    (s.powerRuns = true → s.power.state < s.powerTarget → s.powerTarget ≤ 4 → Completes .stateStepUp s fun t =>
      t.power.state = s.powerTarget ∧ t.power.wakeDemand = 0 ∧ (s.power.state < 3 → 3 ≤ s.powerTarget → t.power.coreEn = true) ∧
      (s.power.state = 1 → s.power.xtal = true → t.audio.ringOn = true) ∧
      (s.audio.stage1 ≠ 1 → s.audio.stage2 ≠ 1 → t.parts = s.parts ∧ t.streams = s.streams))

/-- Wake events (R326, R397, R441, Table 12-14): each event takes its target from its field of `WakeConfig`; a zero field is no wake; the first wake of a DORMANT or LISTEN period is recorded with its source and its time, and demands its target; above LISTEN no wake is recorded. The call frame sets its flag, too, and a frame that is not the call frame wakes by its own field. Power events of the link (R396): each sets the state of the function or of the link that it names; the exits from D3cold and from L1.2 are wakes. The link and the crystal (R386, R395, R397, R398): PERST_N high releases WAKE_N; training gives width and speed, and a link below eight lanes or 32 GT/s is flagged; a lost link is flagged; the crystal starts the ring in LISTEN and above. -/
def Obligations.WakesAndLink : Prop :=
  (∀ s : State, s.alive = true →
    let wakes (c : Instr) (s0 : State) (code lo : Nat) : Prop :=
      let f := bits (s.rdn 0x8004 4) (lo + 1) lo
      ((f = 0 ∨ 3 ≤ s.power.state) → Sys2Proof.Machine.exec c s = .next s0) ∧
      (f ≠ 0 → s.power.state < 3 → s.power.woken = false → Completes c s fun t =>
        t.rdn 0x8004 2 = code ∧ t.rd 0x8004 3 = BitVec.ofNat 64 s.time ∧ t.rd 0x8001 1 = s.rd 0x8001 1 ||| 2 ∧ t.power.woken = true ∧
        t.power.wakeDemand = max s.power.wakeDemand (if f + 1 ≤ s.power.state then 0 else f + 1) ∧ t.parts = s.parts ∧ t.mem = s.mem)
    (s.link.aspm = 3 → wakes .linkL12Exit { s with link := { s.link with aspm := 0 } } 1 0) ∧
    (s.link.aspm ≠ 3 → Sys2Proof.Machine.exec .linkL12Exit s = .next s) ∧
    (s.link.dstate = 4 → wakes .linkD3coldExit { s with link := { s.link with dstate := 0, aspm := 0 } } 2 0) ∧
    (s.link.dstate ≠ 4 → Sys2Proof.Machine.exec .linkD3coldExit s = .next s) ∧
    (∀ pin : Fin 16, bit (s.rdn 0x8004 5) pin.val = true → wakes (.gpioWake pin) s (6 + 16 * pin.val) 6) ∧
    (∀ pin : Fin 16, bit (s.rdn 0x8004 5) pin.val = false → Sys2Proof.Machine.exec (.gpioWake pin) s = .next s) ∧
    (∀ f, s.power.state < 3 → s.callFrame f = true →
      wakes (.canCall f) (s.raise 0x2013 7) (3 + 16 * s.wakeController) 2 ∧ Sys2Proof.Machine.exec (.canAny f) s = .next s) ∧
    (∀ f, s.power.state < 3 → s.callFrame f = false →
      wakes (.canAny f) s (4 + 16 * s.wakeController) 4 ∧ Sys2Proof.Machine.exec (.canCall f) s = .next s) ∧
    (∀ f, 3 ≤ s.power.state → Sys2Proof.Machine.exec (.canCall f) s = .next s ∧ Sys2Proof.Machine.exec (.canAny f) s = .next s)) ∧
  (∀ s : State, s.power.state ≠ 0 →
    (s.link.dstate ≠ 4 → Sys2Proof.Machine.exec (.linkPowerChange .d0) s = .next { s with link := { s.link with dstate := 0 } }) ∧
    (s.link.dstate = 4 → Sys2Proof.Machine.exec (.linkPowerChange .d0) s = Sys2Proof.Machine.exec .linkD3coldExit s) ∧
    (∀ e, s.link.dstate ≠ 4 → Sys2Proof.Machine.exec (.linkPowerChange (.d3hot e)) s = .next { s with link := { s.link with dstate := 3, pmeEn := e } }) ∧
    (∀ e, Sys2Proof.Machine.exec (.linkPowerChange (.d3cold e)) s = .next { s with link := { s.link with dstate := 4, pmeEn := e } }) ∧
    (s.link.aspm ≠ 3 → Sys2Proof.Machine.exec (.linkPowerChange .l0) s = .next { s with link := { s.link with aspm := 0 } }) ∧
    (s.link.aspm = 3 → Sys2Proof.Machine.exec (.linkPowerChange .l0) s = Sys2Proof.Machine.exec .linkL12Exit s) ∧
    Sys2Proof.Machine.exec (.linkPowerChange .l1) s = .next { s with link := { s.link with aspm := 1 } } ∧
    Sys2Proof.Machine.exec (.linkPowerChange .l11) s = .next { s with link := { s.link with aspm := 2 } } ∧
    Sys2Proof.Machine.exec (.linkPowerChange .l12) s = .next { s with link := { s.link with aspm := 3 } }) ∧
  (∀ s : State,
    Sys2Proof.Machine.exec .perstDeassert s = .next { s with link := { s.link with perst := false, wakeN := false } } ∧
    (s.power.state = 0 → Sys2Proof.Machine.exec .linkDown s = .next s ∧ Sys2Proof.Machine.exec .xtal32Start s = .next s ∧
      ∀ w v, Sys2Proof.Machine.exec (.linkTrained w v) s = .next s) ∧
    (s.power.state ≠ 0 →
      (∀ w v : BitVec 4, s.link.perst = false → Completes (.linkTrained w v) s fun t =>
        t.link = { s.link with width := w.toNat, speed := v.toNat, aspm := 0 } ∧ t.parts = s.parts ∧
        t.rd 0x2101 1 = if w.toNat < 8 ∨ v.toNat < 5 then s.rd 0x2101 1 ||| 2 else s.rd 0x2101 1) ∧
      (∀ w v, s.link.perst = true → Sys2Proof.Machine.exec (.linkTrained w v) s = .next s) ∧
      (s.linkUp = true → Completes .linkDown s fun t => t.link = { s.link with width := 0, speed := 0 } ∧ t.linkUp = false ∧
        t.rd 0x2101 1 = s.rd 0x2101 1 ||| 1 ∧ t.parts = s.parts) ∧
      (s.linkUp = false → Sys2Proof.Machine.exec .linkDown s = .next s) ∧
      (s.power.xtal = false → Completes .xtal32Start s fun t => t.power = { s.power with xtal := true } ∧ t.time = s.time ∧
        (2 ≤ s.power.state → t.audio.ringOn = true)) ∧
      (s.power.xtal = true → Sys2Proof.Machine.exec .xtal32Start s = .next s)))

/-- The cap (R332 to R335): a window's estimate is the fixed power and each class's demand at the factor that was in force; the factors that follow never rise by more than 1/32 of their range, keep their floors, and, when the floors fit in the budget, keep the estimate at the same demand within the cap. -/
def Obligations.PowerCap : Prop :=
  ∀ (s : State) (c m l fixed ma : Nat), s.alive = true →
    let p := fixed + (c * s.computeFactor + m * s.power.km + l * s.power.kl) / 65536
    let budget := s.rdn 0x8002 2 - fixed
    Completes (.powerWindow c m l fixed ma) s fun t =>
      t.rdn 0x8005 1 = p % 4294967296 ∧ t.power.energyNano = s.power.energyNano + 2 * p ∧
      t.power.history = (p :: s.power.history).take 50000 ∧
      (7281 ≤ s.power.kc → 16384 ≤ s.power.km → 16384 ≤ s.power.kl → 7281 ≤ t.power.kc ∧ 16384 ≤ t.power.km ∧ 16384 ≤ t.power.kl) ∧
      t.power.kc ≤ s.power.kc + 1820 ∧ t.power.km ≤ s.power.km + 1536 ∧ t.power.kl ≤ s.power.kl + 1536 ∧
      (s.power.tripped = false → 4 ∉ s.link.restarting →
        State.floorPower 1 c + State.floorPower 2 m + State.floorPower 3 l ≤ budget * 65536 →
        c * t.power.kc + m * t.power.km + l * t.power.kl ≤ budget * 65536) ∧
      (s.power.tripped = true → t.power.kc = s.power.kc ∧ t.power.km = s.power.km ∧ t.power.kl = s.power.kl) ∧
      t.parts = s.parts ∧ t.streams = s.streams ∧ t.mem = s.mem ∧ t.fabric = s.fabric ∧ t.power.kt = s.power.kt

/-- Temperature (R336, Table 13-4): at 115 °C every class goes to its floor; below `ThermalThrottleC` a trip ends; a sample between the two only takes note; the thermal factor falls by one step at or above the limit, rises by one step more than 2 °C below it, and stays between. The supply (R337): a read counts its failures, and the third in a row loses AVSBus; a good read gives the output, and the second low one in a row, or an undervoltage of the input, limits the clocks; the limit ends 10 ms after its cause; one successful retry brings AVSBus back. Droop and the gauges (R339, R341, R342): a powered tile's crossing opens a stretch, which its end closes with its length, and neither touches another tile; a gauge is read on an idle tile, or on a running one that is due and stands at a usable PREEMPT point; a reading below the least margin raises the offset, while it has room, or lowers the tile's ageing ceiling. -/
def Obligations.PowerLimits : Prop :=
  (∀ s : State, s.alive = true →
    (∀ v : Int, 1150 ≤ v → s.power.tripped = false → Completes (.thermalSample v) s fun t =>
      t.power.tripped = true ∧ t.power.kc = 7281 ∧ t.power.km = 16384 ∧ t.power.kl = 16384 ∧ t.power.hottest = v ∧
      t.rd 0x8001 1 = s.rd 0x8001 1 ||| 0x20 ∧ t.faults.faultN = true ∧ t.parts = s.parts) ∧
    (∀ v : Int, 1150 ≤ v → s.power.tripped = true →
      Sys2Proof.Machine.exec (.thermalSample v) s = .next { s with power := { s.power with hottest := v } }) ∧
    (∀ v : Int, v < 1150 → s.throttleDeci ≤ v →
      Sys2Proof.Machine.exec (.thermalSample v) s = .next { s with power := { s.power with hottest := v } }) ∧
    (∀ v : Int, v < 1150 → v < s.throttleDeci →
      Sys2Proof.Machine.exec (.thermalSample v) s = .next { s with power := { s.power with hottest := v, tripped := false } }) ∧
    (4 ∉ s.link.restarting →
      (s.throttleDeci ≤ s.power.hottest →
        Sys2Proof.Machine.exec .thermalFactorStep s = .next { s with power := { s.power with kt := s.power.kt - 1 } }) ∧
      (s.power.hottest < s.throttleDeci - 20 →
        Sys2Proof.Machine.exec .thermalFactorStep s = .next { s with power := { s.power with kt := min 256 (s.power.kt + 1) } }) ∧
      (s.power.hottest < s.throttleDeci → s.throttleDeci - 20 ≤ s.power.hottest → Sys2Proof.Machine.exec .thermalFactorStep s = .next s)) ∧
    (4 ∈ s.link.restarting → Sys2Proof.Machine.exec .thermalFactorStep s = .next s)) ∧
  (∀ s : State, s.alive = true → 3 ≤ s.power.state →
    (∀ ok mv uv, s.power.avsFault = true → Sys2Proof.Machine.exec (.avsRead ok mv uv) s = .next s) ∧
    (∀ mv uv, s.power.avsFault = false → s.power.avsFails < 2 →
      Sys2Proof.Machine.exec (.avsRead false mv uv) s = .next { s with power := { s.power with avsFails := s.power.avsFails + 1 } }) ∧
    (∀ mv uv, s.power.avsFault = false → 2 ≤ s.power.avsFails → Completes (.avsRead false mv uv) s fun t =>
      t.power.avsFault = true ∧ t.power.avsFails = 0 ∧ t.rd 0x8001 1 = s.rd 0x8001 1 ||| 0x100 ∧ t.faults.faultN = true ∧ t.parts = s.parts) ∧
    (∀ mv uv, s.power.avsFault = false → Completes (.avsRead true mv uv) s fun t =>
      let low := decide (mv.toNat * 100 < s.power.railMv * 97)
      t.rdn 0x8005 4 = mv.toNat ∧ t.power.avsFails = 0 ∧ t.power.lowReads = (if low then s.power.lowReads + 1 else 0) ∧
      ((low = true ∧ 1 ≤ s.power.lowReads) ∨ uv = true → t.power.lowSupply = true ∧ t.power.lowTail = false ∧
        (s.power.lowSupply = false → t.rd 0x8001 1 = s.rd 0x8001 1 ||| 0x80)) ∧
      ((low = false ∨ s.power.lowReads = 0) → uv = false → t.power.lowSupply = s.power.lowSupply ∧ t.rd 0x8001 1 = s.rd 0x8001 1)) ∧
    (s.power.avsFault = true → Sys2Proof.Machine.exec (.avsRetry true) s = .next { s with power := { s.power with avsFault := false, avsFails := 0 } }) ∧
    Sys2Proof.Machine.exec (.avsRetry false) s = .next s ∧
    (s.power.lowSupply = true → s.power.lowTail = true →
      Sys2Proof.Machine.exec .lowSupplyEnd s = .next { s with power := { s.power with lowSupply := false, lowTail := false } }) ∧
    ((s.power.lowSupply = false ∨ s.power.lowTail = false) → Sys2Proof.Machine.exec .lowSupplyEnd s = .next s)) ∧
  (∀ (s : State) (n : Fin 512), s.alive = true →
    (s.tilePowered n.val = true → n.val ∉ s.fabric.drooping → Completes (.droopCrossing n) s fun t =>
      n.val ∈ t.fabric.drooping ∧ (∀ m, m ≠ n.val → (m ∈ t.fabric.drooping ↔ m ∈ s.fabric.drooping)) ∧
      t.rd 0x8011 1 = s.rd 0x8011 1 + 1 ∧ t.rd 0x8001 1 = s.rd 0x8001 1 ||| 0x40 ∧ t.parts = s.parts ∧ t.mem = s.mem) ∧
    ((s.tilePowered n.val = false ∨ n.val ∈ s.fabric.drooping) → Sys2Proof.Machine.exec (.droopCrossing n) s = .next s) ∧
    (∀ ns : W64, n.val ∈ s.fabric.drooping → 50 ≤ ns.toNat → Completes (.droopStretchEnd n ns) s fun t =>
      n.val ∉ t.fabric.drooping ∧ (∀ m, m ≠ n.val → (m ∈ t.fabric.drooping ↔ m ∈ s.fabric.drooping)) ∧
      t.rd 0x8011 2 = s.rd 0x8011 2 + ns ∧ t.parts = s.parts ∧ t.mem = s.mem) ∧
    (∀ ns : W64, n.val ∉ s.fabric.drooping → Sys2Proof.Machine.exec (.droopStretchEnd n ns) s = .next s) ∧
    (s.powerRuns = true → s.tilePowered n.val = true →
      (s.tileMode n.val = 3 → Completes (.gaugeDue n) s fun t =>
        n.val ∈ t.fabric.gaugeDue ∧ (∀ m, m ≠ n.val → (m ∈ t.fabric.gaugeDue ↔ m ∈ s.fabric.gaugeDue)) ∧ t.od = s.od ∧ t.parts = s.parts) ∧
      (s.tileMode n.val ≠ 3 → Sys2Proof.Machine.exec (.gaugeDue n) s = .next s) ∧
      (∀ mv : Int, s.tileMode n.val = 3 → (n.val ∉ s.fabric.gaugeDue ∨ s.atPreempt n.val = false) →
        Sys2Proof.Machine.exec (.gaugeReading n mv) s = .next s) ∧
      (∀ mv : Int, s.tileMode n.val ≠ 3 ∨ (n.val ∈ s.fabric.gaugeDue ∧ s.atPreempt n.val = true) → Completes (.gaugeReading n mv) s fun t =>
        t.rdObj 0x8120 n.val = (BitVec.ofInt 16 mv).toNat ∧ t.rdObj 0x8130 n.val = s.time % 2 ^ 64 ∧ n.val ∉ t.fabric.gaugeDue ∧
        ((s.rdn 0x8012 3 : Int) ≤ mv → t.rd 0x8012 1 = s.rd 0x8012 1 ∧ t.persist = s.persist) ∧
        (mv < (s.rdn 0x8012 3 : Int) → s.rdn 0x8012 1 + 5 ≤ s.rdn 0x8000 6 →
          t.rdn 0x8012 1 = s.rdn 0x8012 1 + 5 ∧ t.rd 0x8001 1 = s.rd 0x8001 1 ||| 0x200 ∧ t.persist = s.persist) ∧
        (mv < (s.rdn 0x8012 3 : Int) → s.rdn 0x8000 6 < s.rdn 0x8012 1 + 5 →
          t.rd 0x8012 1 = s.rd 0x8012 1 ∧ t.rd 0x8001 1 = s.rd 0x8001 1 ||| 0x400 ∧
          NMap.get (fun _ => 0) t.persist.lowered (s.phys n.val) = NMap.get (fun _ => 0) s.persist.lowered (s.phys n.val) + 25))))

/-! ### Faults -/

/-- Unit-fatal faults (R48 to R50, R349, R350, R357, Table 13-4): a fault of a unit that still serves opens a record, or merges into the one that is HANDLING, puts the device into FAULT and drives FAULT_N; the tile or channel is fenced, another unit held. A tile whose row is shifting waits for that shift; one that a spare can replace (with no unusable tile in its way: the model's choice, log entry 70) starts a shift. A fault of a unit that is fenced or held already changes nothing. -/
def Obligations.UnitFaults : Prop :=
  ∀ (s : State) (src : UnitSource), s.alive = true →
    let c := State.sourceCode src
    let noted (kind unit : Nat) (t : State) : Prop :=
      t.rdn 0x9003 6 = (s.rdn 0x9003 6 + 1) % 4294967296 ∧ t.faults.mode = .fault ∧ t.faults.faultN = true ∧
      (s.anyHandling = true → t.rd 0x9001 1 &&& 2 = 2) ∧
      (s.anyHandling = false → ∃ r ∈ t.faults.records, r.seq = s.faults.nextSeq ∧ r.source = c ∧ r.cls = 2 ∧ r.kind = kind ∧ r.unit = unit ∧
        r.handling = true ∧ r.raiseTime = s.time)
    (∀ p : Fin 528, State.sourceFits c (.tile p) = true →
      let y := p.val / 66
      ((p.val ∈ s.fabric.fenced ∨ ∃ h ∈ s.fabric.shifts, p.val ∈ h.waiting) → Sys2Proof.Machine.exec (.unitFatalFault src (.tile p)) s = .next s) ∧
      (p.val ∉ s.fabric.fenced → (∀ h ∈ s.fabric.shifts, p.val ∉ h.waiting) → Completes (.unitFatalFault src (.tile p)) s fun t =>
        noted 1 p.val t ∧
        ((∃ h ∈ s.fabric.shifts, h.row = y) → t.fabric.fenced = s.fabric.fenced ∧ ∃ h ∈ t.fabric.shifts, h.row = y ∧ p.val ∈ h.waiting) ∧
        ((∀ h ∈ s.fabric.shifts, h.row ≠ y) → p.val ∈ t.fabric.fenced ∧ t.rdn 0x3001 8 = p.val ∧ t.rdn 0x3001 7 = (s.rdn 0x3001 7 + 1) % 4294967296 ∧
          ((s.logical p.val).isSome = true → s.rdn 0x3002 1 = 1 → s.canShift y (p.val % 66) = true →
            ∃ clocks, t.fabric.shifts = s.fabric.shifts ++ [⟨y, p.val % 66, false, clocks, []⟩]) ∧
          ((s.logical p.val = none ∨ s.rdn 0x3002 1 ≠ 1 ∨ s.canShift y (p.val % 66) = false) →
            p.val ∈ t.persist.fencedTiles ∧ p.val ∈ t.fuse.fieldFenced ∧ t.fabric.shifts = s.fabric.shifts)))) ∧
    (∀ k : Fin 256, State.sourceFits c (.channel k) = true →
      (k.val ∈ s.persist.fencedChannels → Sys2Proof.Machine.exec (.unitFatalFault src (.channel k)) s = .next s) ∧
      (k.val ∉ s.persist.fencedChannels → Completes (.unitFatalFault src (.channel k)) s fun t =>
        noted 2 k.val t ∧ k.val ∈ t.persist.fencedChannels ∧ ∀ p, s.channelOwner k.val = some p → (t.part p).fenced = true)) ∧
    (∀ k : Fin 8, State.sourceFits c (.pipeline k) = true →
      (k.val ∈ s.faults.heldPipes → Sys2Proof.Machine.exec (.unitFatalFault src (.pipeline k)) s = .next s) ∧
      (k.val ∉ s.faults.heldPipes → Completes (.unitFatalFault src (.pipeline k)) s fun t => noted 3 k.val t ∧ k.val ∈ t.faults.heldPipes)) ∧
    (∀ e : Fin 2, State.sourceFits c (.edgeEngine e) = true →
      (e.val ∈ s.faults.heldEdges → Sys2Proof.Machine.exec (.unitFatalFault src (.edgeEngine e)) s = .next s) ∧
      (e.val ∉ s.faults.heldEdges → Completes (.unitFatalFault src (.edgeEngine e)) s fun t =>
        noted 4 e.val t ∧ e.val ∈ t.faults.heldEdges ∧ (t.edge e.val).job = none)) ∧
    (∀ n : Fin 2, State.sourceFits c (.canController n) = true →
      (n.val ∈ s.faults.heldCans → Sys2Proof.Machine.exec (.unitFatalFault src (.canController n)) s = .next s) ∧
      (n.val ∉ s.faults.heldCans → Completes (.unitFatalFault src (.canController n)) s fun t =>
        noted 5 n.val t ∧ n.val ∈ t.faults.heldCans ∧ t.canServes n.val = false)) ∧
    (State.sourceFits c .roost = true →
      (s.faults.roostHeld = true → Sys2Proof.Machine.exec (.unitFatalFault src .roost) s = .next s) ∧
      (s.faults.roostHeld = false → Completes (.unitFatalFault src .roost) s fun t =>
        noted 6 0 t ∧ t.faults.roostHeld = true ∧ t.audio.hop = none ∧ t.audio.hits = 0 ∧ t.audio.ringOn = s.audio.ringOn))

/-- Device-fatal faults and the end of a reaction (R349, R353, R408): a device-fatal fault halts the device with a crash dump that names its source, and a halted device takes no further one; HANDLING ends with its duration in the record that it names, not before the substitution of its tile, and leaves every other record. The quiet exit (R352, Table 13-4): before its time nothing changes; when every held unit passes its retest the device is NORMAL with no unit held, and FAULT_N is released; a unit that fails its retest stays held, and the device stays in FAULT. Substitution shifts (Table 2-16, R50): a shift moves once its row has stopped, but not during a hold; when it is done the row skips the failed column, the fence is kept for good, and SUBSTITUTION is flagged; without a moving shift nothing happens. -/
def Obligations.Recovery : Prop :=
  (∀ s : State,
    (∀ src cp comp, s.alive = true → Completes (.deviceFatalFault src cp comp) s fun t =>
      t.faults.mode = .halted ∧ t.faults.faultN = true ∧ t.persist.fatalPending = true ∧ t.parts = s.parts ∧ t.mem = s.mem ∧
      ∃ d, t.link.dump = some d ∧ d.source = State.fatalCode src ∧ d.cp = cp.toNat ∧ d.component = comp.toNat ∧ d.time = s.time) ∧
    (∀ src cp comp, s.alive = false → Sys2Proof.Machine.exec (.deviceFatalFault src cp comp) s = .next s) ∧
    (∀ record micros, s.alive = true → Completes (.handlingComplete record micros) s fun t =>
      t.faults.records.length = s.faults.records.length ∧ t.faults.mode = s.faults.mode ∧ t.od = s.od ∧
      ∀ r ∈ s.faults.records,
        (r.seq = record.toNat → r.handling = true → r.kind ≠ 1 → r.secondKind ≠ 1 → { r with handling := false, handleMicros := micros } ∈ t.faults.records) ∧
        ((r.seq ≠ record.toNat ∨ r.handling = false ∨ (r.kind = 1 ∧ s.shiftPending r.unit = true)) → r ∈ t.faults.records))) ∧
  (∀ s : State, s.alive = true →
    (∀ failed, s.quiet = false → Sys2Proof.Machine.exec (.quietExit failed) s = .next s) ∧
    (s.quiet = true → Completes (.quietExit []) s fun t => t.faults.mode = .normal ∧ t.faults.faultN = false ∧ t.faults.roostHeld = false ∧
      (∀ k < 8, k ∉ t.faults.heldPipes) ∧ (∀ k < 2, k ∉ t.faults.heldEdges) ∧ (∀ k < 2, k ∉ t.faults.heldCans) ∧
      (s.faults.roostHeld = true → t.audio.loadDue = true) ∧ t.rd 0x9001 1 = s.rd 0x9001 1 ||| 4 ∧
      t.rdn 0x9003 2 = (s.rdn 0x9003 2 + 1) % 4294967296 ∧ t.parts = s.parts) ∧
    (∀ (failed : List FaultUnit) (k : Fin 8), s.quiet = true → FaultUnit.pipeline k ∈ failed → k.val ∈ s.faults.heldPipes →
      Completes (.quietExit failed) s fun t => t.faults.mode = .fault ∧ k.val ∈ t.faults.heldPipes ∧ t.rd 0x9001 1 &&& 0x80 = 0x80)) ∧
  (∀ (s : State) (y : Fin 8), s.alive = true →
    ((s.link.hold = true ∨ s.rowStopped y.val = false) → Sys2Proof.Machine.exec (.substitutionShiftStart y) s = .next s) ∧
    (s.link.hold = false → s.rowStopped y.val = true → Completes (.substitutionShiftStart y) s fun t => t.fabric.shifts.length = s.fabric.shifts.length ∧ t.od = s.od ∧
      (∀ h ∈ s.fabric.shifts, h.row = y.val → { h with moving := true } ∈ t.fabric.shifts) ∧
      ∀ h ∈ s.fabric.shifts, h.row ≠ y.val → h ∈ t.fabric.shifts) ∧
    ((∀ h ∈ s.fabric.shifts, h.row = y.val → h.moving = false) → Sys2Proof.Machine.exec (.substitutionShiftDone y) s = .next s) ∧
    (∀ h, (s.fabric.shifts.find? fun g => g.row = y.val && g.moving) = some h → h.waiting = [] →
      Completes (.substitutionShiftDone y) s fun t =>
        t.skipsOf y.val = insertNat h.col (s.skipsOf y.val) ∧ (∀ z, z ≠ y.val → t.skipsOf z = s.skipsOf z) ∧
        (∀ g ∈ t.fabric.shifts, g.row ≠ y.val) ∧ y.val * 66 + h.col ∈ t.persist.fencedTiles ∧ y.val * 66 + h.col ∈ t.fuse.fieldFenced ∧
        t.rd 0x3001 1 &&& 1 = 1))

/-! ### Firmware and security -/

/-- Loading Virkin (R398 to R400, Table 15-9): a load while one runs, or over a running image without UPDATE, is BUSY; the fetch needs Bus Master Enable and a host without fault; the checks of format, signature, floor and compatibility answer in that order, and a failed load changes nothing but its report; an image that passes runs, and its floor holds; an image for UPDATE waits for its hand-off. -/
def Obligations.VirkinLoads : Prop :=
  ∀ (s : State) (n : W32) (a : W64) (image : List Byte), s.alive = true →
    let b := slice image 0 n.toNat
    let i := Virkin.parse b
    let fails (c : Instr) (u : State) (st : Nat) : Prop := Completes c s fun t =>
      t.rdn 0x2200 5 = st ∧ t.rd 0x2220 1 = s.rd 0x2220 1 ||| 8 ∧ t.rd 0x2200 1 = s.rd 0x2200 1 ∧ t.link = s.link ∧ t.parts = s.parts ∧ t.cans = s.cans ∧
      t.persist = s.persist ∧ t = u.answerLoad st
    (∀ f, (s.link.image ≠ none ∨ s.rdn 0x2200 1 = 1 ∨ s.rdn 0x2200 1 = 3) → fails (.virkinLoadStart n a image f) s 1) ∧
    (∀ f, (s.rdn 0x2200 1 = 1 ∨ s.rdn 0x2200 1 = 3) → fails (.virkinLoadUpdate n a image f) s 1) ∧
    (s.link.image = none → s.rdn 0x2200 1 ≠ 1 → s.rdn 0x2200 1 ≠ 3 →
      (∀ f, s.busMaster 0 = false → fails (.virkinLoadStart n a image f) s.busBlocked 3) ∧
      (s.busMaster 0 = true → fails (.virkinLoadStart n a image true) (s.raise 0x4001 10) 3 ∧
        (Virkin.formatOk b n.toNat = false → fails (.virkinLoadStart n a image false) s 2) ∧
        (Virkin.formatOk b n.toNat = true → Virkin.authentic b = false → fails (.virkinLoadStart n a image false) s 4) ∧
        (Virkin.formatOk b n.toNat = true → Virkin.authentic b = true → i.secVersion.toNat < s.securityFloor →
          fails (.virkinLoadStart n a image false) s 5) ∧
        (Virkin.formatOk b n.toNat = true → Virkin.authentic b = true → s.securityFloor ≤ i.secVersion.toNat →
          Completes (.virkinLoadStart n a image false) s fun t =>
            t.link = { s.link with image := some i, startDigest := i.digest } ∧ t.rdn 0x2200 1 = 2 ∧ t.rdn 0x2200 2 = i.version.toNat ∧
            t.rdn 0x2200 5 = 0 ∧ t.rd 0x2201 1 = i.features ∧ t.serves = true ∧ t.parts = s.parts ∧ t.mem = s.mem ∧
            t.persist.floor = (if i.raiseFloor = true ∧ s.securityFloor < i.secVersion.toNat then i.secVersion else s.persist.floor)))) ∧
    (s.rdn 0x2200 1 ≠ 1 → s.rdn 0x2200 1 ≠ 3 → s.busMaster 0 = true →
      Virkin.formatOk b n.toNat = true → Virkin.authentic b = true → s.securityFloor ≤ i.secVersion.toNat →
      (s.compatible b i = false → fails (.virkinLoadUpdate n a image false) s 6) ∧
      (s.compatible b i = true → Sys2Proof.Machine.exec (.virkinLoadUpdate n a image false) s =
        .next (({ s with link := { s.link with update := some i } } : State).wrn 0x2200 1 3)))

/-- The hand-off (R406, R407, Table 15-12): the hold starts once no export drains; an adopted image runs, with the update counted, and a refused one leaves the old image running; either way the hold ends, and a hand-off through which nothing waited moves no partition, no stream and no byte of memory. Components, Bus Master Enable and DOE Discovery (R391, R404, R405, Tables 15-6, 15-11): a component that traps restarts; one without a restart, or a second trap within 60 minutes, is a crash that halts the device; a restart ends with the component back; a function's Bus Master Enable releases its messages; Discovery answers with the protocols of the function. -/
def Obligations.HandOffAndComponents : Prop :=
  (∀ s : State,
    (s.serves = true → s.rdn 0x2200 1 = 3 → s.link.hold = false → s.exportRuns = false →
      Sys2Proof.Machine.exec .handoffHold s = .next { s with link := { s.link with hold := true } }) ∧
    ((s.serves = false ∨ s.rdn 0x2200 1 ≠ 3 ∨ s.link.hold = true ∨ s.exportRuns = true) → Sys2Proof.Machine.exec .handoffHold s = .next s) ∧
    (∀ ok, (s.serves = false ∨ s.link.hold = false ∨ s.link.update = none) → Sys2Proof.Machine.exec (.handoffAdopt ok) s = .next s) ∧
    (∀ i, s.serves = true → s.link.hold = true → s.link.update = some i → s.link.heldFlrs = [] → s.link.heldWrites = [] →
      s.link.heldAttests = [] → s.link.lateMarks = [] → s.fabric.lateFalls = [] →
      (Completes (.handoffAdopt true) s fun t => t.link = { s.link with image := some i, hold := false, update := none } ∧ t.rdn 0x2200 1 = 2 ∧
        t.rdn 0x2200 2 = i.version.toNat ∧ t.rdn 0x2200 5 = 0 ∧ t.rdn 0x2200 7 = (s.rdn 0x2200 7 + 1) % 4294967296 ∧ t.rd 0x2220 1 = s.rd 0x2220 1 ||| 2 ∧
        t.parts = s.parts ∧ t.streams = s.streams ∧ t.seqs = s.seqs ∧ t.mem = s.mem ∧ t.cans = s.cans ∧ t.power = s.power) ∧
      (Completes (.handoffAdopt false) s fun t => t.link = { s.link with hold := false, update := none } ∧ t.rdn 0x2200 1 = 2 ∧ t.rdn 0x2200 5 = 7 ∧
        t.rd 0x2220 1 = s.rd 0x2220 1 ||| 0xC ∧ t.parts = s.parts ∧ t.streams = s.streams ∧ t.seqs = s.seqs ∧ t.mem = s.mem ∧ t.cans = s.cans))) ∧
  (∀ s : State,
    (∀ n : Fin 7, s.serves = true → s.link.hold = false →
      let again := ∃ t, NMap.get (fun _ => none) s.link.lastTrap n.val = some t ∧ s.time ≤ t + 3600000000
      ((n.val < 5 ∧ ¬ again) → Completes (.componentTrap n) s fun t => n.val ∈ t.link.restarting ∧
        t.rdn 0x2210 (n.val + 1) = (s.rdn 0x2210 (n.val + 1) + 1) % 4294967296 ∧ t.rd 0x2220 1 = s.rd 0x2220 1 ||| 1 ∧
        NMap.get (fun _ => none) t.link.lastTrap n.val = some s.time ∧ t.faults = s.faults ∧ t.parts = s.parts ∧ t.mem = s.mem) ∧
      ((5 ≤ n.val ∨ again) → Completes (.componentTrap n) s fun t => t.faults.mode = .halted ∧
        ∃ d, t.link.dump = some d ∧ d.source = 0xF0 ∧ d.component = n.val ∧ d.time = s.time)) ∧
    (∀ n : Fin 7, s.serves = false → Sys2Proof.Machine.exec (.componentTrap n) s = .next s) ∧
    (∀ n : Fin 7, (s.serves = false ∨ n.val ∉ s.link.restarting) → Sys2Proof.Machine.exec (.componentRestartDone n) s = .next s) ∧
    (∀ n : Fin 7, s.serves = true → n.val ∈ s.link.restarting → s.link.heldWrites = [] → Sys2Proof.Machine.exec (.componentRestartDone n) s =
      .next { s with link := { s.link with restarting := s.link.restarting.filter (· ≠ n.val) } }) ∧
    (∀ fn, onLink fn = true → s.power.state ≠ 0 → Completes (.busMasterEnableSet fn) s fun t =>
      t.busMaster (State.ifaceFn fn) = true ∧ (s.alive = true → ∀ x ∈ t.link.msgs, x.1 ≠ State.ifaceFn fn)) ∧
    (∀ (fn : Iface) (i : Byte), s.alive = true → onLink fn = true →
      let ps := State.doeProtocols fn
      (∀ v k, ps[i.toNat]? = some (v, k) → Sys2Proof.Machine.exec (.doeDiscovery fn i) s = .next (s.emit (.doe fn 0
        (leBytes 2 v ++ leBytes 1 k ++ leBytes 1 (if i.toNat + 1 < ps.length then i.toNat + 1 else 0))))) ∧
      (ps.length ≤ i.toNat → ∃ b : Byte, Sys2Proof.Machine.exec (.doeDiscovery fn i) s =
        .next (({ s with free := s.free + 1 } : State).emit (.doe fn 0 [0xFF, 0xFF, b, 0])))))

/-- FLEET_ENROL and FLEET_REMOVE (R372, Table 14-3): the first check that the record fails gives the result and leaves the fleets as they are; a record that passes replaces its fleet's membership or adds it, with result 1; a removed fleet is no longer held. Attestation (R381, R386, Table 15-6): a nonce begins a report over the interface's scope, and the report that is ready carries it, the scope and one entry for each plan of the scope; DOE ATTEST answers with such a report, DOE CERT with the certificate, DOE Discovery with the function's protocols in order. The random source (R371): a health failure is counted; retries that fail put the source into FAILED and log the event, retries that succeed leave it running; one later success ends the failure. CRASH_DUMP_CLEAR (R409): the dump areas hold no dump any more. -/
def Obligations.SecurityServices : Prop :=
  (∀ (s : State) (fn : Iface) (r : List Byte) (id : W64), (∀ p, fn ≠ .vf p) →
    let fid := BitVec.ofNat 64 (field r 8 8)
    let epoch := BitVec.ofNat 32 (field r 0x20 4)
    let held := s.sec.fleets.find? fun x => x.id = fid
    (Reaches s fn 0xA010 1 → s.xferOf (ifaceNo fn) = none → ∃ t, Sys2Proof.Machine.exec (.fleetEnrol fn r) s = .next (transferred fn t) ∧
      t.rdn 0xA010 2 = (
        if s.without 9 = true ∨ State.fleetFormat r = false then 2
        else if State.fleetAuthentic r = false then 3
        else if slice r 0x10 16 ≠ s.serialBytes then 4
        else if held.any (fun x => epoch.toNat < x.epoch.toNat) = true then 5
        else if held = none ∧ 8 ≤ s.sec.fleets.length then 6
        else if unwrapWith kemSeed (slice r 0x30 1088) (r.take 0x30) (slice r 0x470 72) = none then 3 else 1) ∧
      (t.rdn 0xA010 2 ≠ 1 → t.sec.fleets = s.sec.fleets) ∧
      (t.rdn 0xA010 2 = 1 → ∃ f ∈ t.sec.fleets, f.id = fid ∧ f.epoch = epoch) ∧
      t.mem = s.mem ∧ t.streams = s.streams) ∧
    (Reaches s fn 0xA010 3 →
      ((∃ x ∈ s.sec.fleets, x.id = id) → ∃ t, Sys2Proof.Machine.exec (.fleetRemove fn id) s = .next (answered fn t) ∧
        t.rdn 0xA010 2 = 1 ∧ (∀ x, x ∈ t.sec.fleets ↔ x ∈ s.sec.fleets ∧ x.id ≠ id) ∧ t.parts = s.parts) ∧
      ((∀ x ∈ s.sec.fleets, x.id ≠ id) →
        Sys2Proof.Machine.exec (.fleetRemove fn id) s = .next (answered fn (s.wrn 0xA010 2 7))))) ∧
  (∀ (s : State) (fn : Iface) (nonce : BitVec 256), (∀ n, fn ≠ .can n) →
    (Reaches s fn 0xA030 1 → s.xferOf (ifaceNo fn) = none → s.randomFailed = false → ∃ t, Sys2Proof.Machine.exec (.attestNonce fn nonce) s = .next (transferred fn t) ∧
      t.attest fn = some ⟨nonce, State.attestScope fn (s.rdI (ifaceNo fn) 0xA030 2).toNat,
        s.attestPlans (State.attestScope fn (s.rdI (ifaceNo fn) 0xA030 2).toNat), []⟩ ∧ { t with sec := s.sec } = s) ∧
    (∀ a, s.alive = true → s.link.hold = false → s.attest fn = some a → a.report = [] → Completes (.attestReportReady fn) s fun t =>
      (∃ r, t.attest fn = some { a with report := r } ∧ r.take 8 = leBytes 4 0x54545341 ++ leBytes 2 0x0100 ++ leBytes 2 0 ∧
        field r 12 1 = a.scope % 256 ∧ slice r 16 32 = leBytes 32 a.nonce.toNat) ∧ { t with sec := s.sec } = s) ∧
    (∀ scope : Byte, s.alive = true → s.link.hold = false → s.randomFailed = false → (State.attestScope fn scope.toNat < 128 ∨ State.attestScope fn scope.toNat = 0xFF) →
      0xC0 + 80 * (s.attestPlans (State.attestScope fn scope.toNat)).length + 3312 ≤ 1048576 →
      Sys2Proof.Machine.exec (.doeAttest fn nonce scope) s = .next (s.emit (.doe fn 0 ([0, 0, 0, 0] ++
        s.attestReport ⟨nonce, State.attestScope fn scope.toNat, s.attestPlans (State.attestScope fn scope.toNat), []⟩)))) ∧
    (s.alive = true → Sys2Proof.Machine.exec (.doeCert fn) s = .next (s.emit (.doe fn 0 ([0, 0, 0, 0] ++ State.ownCert)))) ∧
    (s.alive = true → Sys2Proof.Machine.exec (.doeDiscovery .pf 0) s = .next (s.emit (.doe .pf 0 [1, 0, 0, 1])) ∧
      Sys2Proof.Machine.exec (.doeDiscovery .pf 3) s = .next (s.emit (.doe .pf 0 [0xD3, 0x1F, 3, 0])) ∧
      (∀ p, Sys2Proof.Machine.exec (.doeDiscovery (.vf p) 1) s = .next (s.emit (.doe (.vf p) 0 [0xD3, 0x1F, 2, 2]))) ∧
      ∀ i : Byte, 4 ≤ i.toNat → ∃ b, Sys2Proof.Machine.exec (.doeDiscovery .pf i) s =
        .next ({ s with free := s.free + 1 }.emit (.doe .pf 0 [0xFF, 0xFF, b, 0])))) ∧
  (∀ s : State, s.alive = true →
    (Sys2Proof.Machine.exec (.randomHealthFail false) s = .next ((s.bump32 0xA040 2 1).wrn 0xA040 1 0)) ∧
    (Completes (.randomHealthFail true) s fun t =>
      t.rdn 0xA040 1 = 2 ∧ t.rdn 0xA040 2 = (s.rdn 0xA040 2 + 1) % 4294967296 ∧ t.rd 0xA001 1 = s.rd 0xA001 1 ||| 0x80 ∧
      t.sec.nextSeq = s.sec.nextSeq + 1 ∧ t.mem = s.mem ∧ t.parts = s.parts) ∧
    (s.rdn 0xA040 1 = 2 → Sys2Proof.Machine.exec (.randomRetry true) s = .next (s.wrn 0xA040 1 0)) ∧
    Sys2Proof.Machine.exec (.randomRetry false) s = .next s) ∧
  (∀ (s : State) (fn : Iface), Reaches s fn 0x2230 4 → ∃ t,
    Sys2Proof.Machine.exec (.crashDumpClear fn) s = .next (answered fn t) ∧ t.link.dump = none ∧ t.dumpLength = 0 ∧
      { t with link := s.link } = s ∧ { t.link with dump := s.link.dump } = s.link)

/-! ### The field port and the TAP -/

/-- NMT commands (R429 to R431): Start, Stop and Enter Pre-operational set the state of a controller that runs; Reset Node and Reset Communication apply its configuration and the chosen node-ID, end its transfer without an abort frame and send the boot-up message; a controller that is off, unconfigured or held takes none of them. -/
def Obligations.NmtCommands : Prop :=
  ∀ (s : State) (n : Fin 2),
    let runs := s.canServes n.val = true ∧ 2 ≤ (s.can n.val).nmt ∧ (s.can n.val).nmt ≤ 4
    (runs →
      Sys2Proof.Machine.exec (.nmtStart n) s = .next (s.setCan n.val { s.can n.val with nmt := 3 }) ∧
      Sys2Proof.Machine.exec (.nmtStop n) s = .next (s.setCan n.val { s.can n.val with nmt := 4 }) ∧
      Sys2Proof.Machine.exec (.nmtEnterPreOperational n) s = .next (s.setCan n.val { s.can n.val with nmt := 2 }) ∧
      ∀ c, c = Instr.nmtResetNode n ∨ c = Instr.nmtResetCommunication n → Completes c s fun t =>
        let cfg := BitVec.ofNat 32 (s.rdn 0x2011 (n.val + 1))
        (t.can n.val).cfg = cfg ∧ t.parts = s.parts ∧ t.mem = s.mem ∧
        (bit cfg.toNat 0 = false → t.can n.val = { Can.off with cfg := cfg }) ∧
        (bit cfg.toNat 0 = true →
          (t.can n.val).sdo = none ∧ (t.can n.val).lss = Lss.idle ∧ (t.can n.val).rate = bits cfg.toNat 19 16 ∧
          (t.can n.val).node = s.nodeChoice.1 ∧ t.rdn 0x2010 2 = s.nodeChoice.1 ∧ t.rdn 0x2010 3 = s.nodeChoice.2 ∧
          (s.nodeChoice.1 = 0xFF → (t.can n.val).nmt = 5 ∧ t.out = s.out) ∧
          (s.nodeChoice.1 ≠ 0xFF → (t.can n.val).nmt = (if bit cfg.toNat 3 = true then 3 else 2) ∧
            t.out = Output.can n.val (0x700 + s.nodeChoice.1) [0] :: s.out))) ∧
    (¬ runs → ∀ c, c = Instr.nmtStart n ∨ c = Instr.nmtStop n ∨ c = Instr.nmtEnterPreOperational n ∨ c = Instr.nmtResetNode n ∨
      c = Instr.nmtResetCommunication n → Sys2Proof.Machine.exec c s = .next s)

/-- SDO and USDO accesses (R432, Table 16-4): an expedited write has the width of its entry, and acts as a dictionary write; a whole block or a USDO write does the same with the bytes that it carries; an upload answers with the entry's bytes, at once when they fit; what the dictionary refuses is an abort with its code. A controller in FD mode serves USDO alone, one in classic mode SDO alone. SDO segments and ends of transfers (R432): a segment without a transfer, and one with the wrong toggle, abort; a download gathers seven bytes of each segment and writes the whole at the last; an upload answers with the next bytes until none is left; the client's abort ends the transfer in silence, and a second of silence with an abort. -/
def Obligations.SdoServices : Prop :=
  (∀ (s : State) (n : Fin 2) (e : Entry), Running s → s.sdoRuns n.val = true →
    let i := e.index.toNat
    let j := e.sub.toNat
    let k : Iface := .can n
    let u := s.setCan n.val { s.can n.val with sdo := none }
    let rw (r : Od.Row) := Od.lookup i j = some r ∧ r.acc = .rw ∧ Od.Ty.bytes r.ty ≠ 0 ∧ i ≠ 0x1003 ∧ i ≠ 0x1011 ∧ i ≠ 0x7019 ∧ i ≠ 0x8002
    let written (t : State) (r : Od.Row) (d : List Byte) : State :=
      match t.judgeRw i j (BitVec.ofNat 64 (leNat d) &&& BitVec.ofNat 64 r.mask).toNat with
      | .ok y => (t.wrI (State.copyOf k i j) i j (BitVec.ofNat 64 y)).sdoAnswer n.val 0 []
      | .error c => t.sdoAnswer n.val c []
    (s.canFd n.val = false →
      (∀ size data, Od.lookup i j = none → Sys2Proof.Machine.exec (.sdoDownload n e true size data) s = .next (u.sdoAnswer n.val 0x06020000 [])) ∧
      (∀ size data r, Od.lookup i j = some r → Od.Ty.bytes r.ty ≠ 0 → Od.Ty.bytes r.ty ≠ min size 4 →
        Sys2Proof.Machine.exec (.sdoDownload n e true size data) s = .next (u.sdoAnswer n.val 0x06070010 [])) ∧
      (∀ size (data : W64) r, rw r → Od.Ty.bytes r.ty = min size 4 →
        Sys2Proof.Machine.exec (.sdoDownload n e true size data) s = .next (written u r (leBytes (min size 4) data.toNat))) ∧
      (∀ size data, Sys2Proof.Machine.exec (.sdoDownload n e false size data) s =
        .next ((s.setCan n.val { s.can n.val with sdo := some ⟨i, j, true, false, [], false⟩ }).sdoAnswer n.val 0 [])) ∧
      (∀ d, Sys2Proof.Machine.exec (.sdoBlockDownload n e d false) s = .next (u.sdoAnswer n.val 0x05040004 [])) ∧
      (∀ d r, rw r → d.length = Od.Ty.bytes r.ty → Sys2Proof.Machine.exec (.sdoBlockDownload n e d true) s = .next (written u r d)) ∧
      (∀ c, u.readEntry k i j = .error c → Sys2Proof.Machine.exec (.sdoUpload n e) s = .next (u.sdoAnswer n.val c []) ∧
        Sys2Proof.Machine.exec (.sdoBlockUpload n e) s = .next (u.sdoAnswer n.val c [])) ∧
      (∀ bs, u.readEntry k i j = .ok bs →
        (bs.length ≤ 4 → Sys2Proof.Machine.exec (.sdoUpload n e) s = .next (u.sdoAnswer n.val 0 bs)) ∧
        (4 < bs.length → Sys2Proof.Machine.exec (.sdoUpload n e) s =
          .next ((s.setCan n.val { s.can n.val with sdo := some ⟨i, j, false, false, bs, false⟩ }).sdoAnswer n.val 0 (leBytes 4 bs.length))) ∧
        Sys2Proof.Machine.exec (.sdoBlockUpload n e) s =
          .next ((s.setCan n.val { s.can n.val with sdo := some ⟨i, j, false, false, bs, true⟩ }).sdoAnswer n.val 0 (leBytes 4 bs.length))) ∧
      ∀ w d, Sys2Proof.Machine.exec (.usdoRequest n e w d) s = .next s) ∧
    (s.canFd n.val = true →
      (∀ d c, s.readEntry k i j = .error c → Sys2Proof.Machine.exec (.usdoRequest n e false d) s = .next (s.sdoAnswer n.val c [])) ∧
      (∀ d bs, s.readEntry k i j = .ok bs → Sys2Proof.Machine.exec (.usdoRequest n e false d) s = .next (s.sdoAnswer n.val 0 bs)) ∧
      (∀ d r, rw r → d.length = Od.Ty.bytes r.ty → Sys2Proof.Machine.exec (.usdoRequest n e true d) s = .next (written s r d)) ∧
      ∀ x size data, Sys2Proof.Machine.exec (.sdoDownload n e x size data) s = .next s ∧ Sys2Proof.Machine.exec (.sdoUpload n e) s = .next s)) ∧
  (∀ (s : State) (n : Fin 2), Running s → s.sdoRuns n.val = true →
    let at_ (x : Option Sdo) : State := s.setCan n.val { s.can n.val with sdo := x }
    (s.canFd n.val = false →
      (∀ g l d, (s.can n.val).sdo = none → Sys2Proof.Machine.exec (.sdoSegment n g l d) s = .next (s.sdoAnswer n.val 0x05040001 [])) ∧
      (∀ x g l d, (s.can n.val).sdo = some x → x.block = false → g ≠ x.toggle →
        Sys2Proof.Machine.exec (.sdoSegment n g l d) s = .next ((at_ none).sdoAnswer n.val 0x05030000 [])) ∧
      (∀ x d, (s.can n.val).sdo = some x → x.write = true → x.block = false →
        Sys2Proof.Machine.exec (.sdoSegment n x.toggle false d) s =
          .next ((at_ (some { x with toggle := !x.toggle, data := x.data ++ d.take 7 })).sdoAnswer n.val 0 []) ∧
        ∀ e : Entry, e.index.toNat = x.index → e.sub.toNat = x.sub →
          Sys2Proof.Machine.exec (.sdoSegment n x.toggle true d) s = Sys2Proof.Machine.exec (.sdoBlockDownload n e (x.data ++ d.take 7) true) s) ∧
      (∀ x l d, (s.can n.val).sdo = some x → x.write = false →
        let k := if x.block = true then 889 else 7
        Sys2Proof.Machine.exec (.sdoSegment n x.toggle l d) s = .next ((at_ (if x.data.length ≤ k then none else
          some { x with toggle := !x.toggle, data := x.data.drop k })).sdoAnswer n.val 0 (x.data.take k)))) ∧
    Sys2Proof.Machine.exec (.sdoAbortTransfer n) s = .next (at_ none) ∧
    ((s.can n.val).sdo ≠ none → Sys2Proof.Machine.exec (.sdoTimeout n) s = .next ((at_ none).sdoAnswer n.val 0x05040000 [])) ∧
    ((s.can n.val).sdo = none → Sys2Proof.Machine.exec (.sdoTimeout n) s = .next s))

/-- PDOs (R434, R435): a receive PDO acts only while it is valid and runs; a short one sets its flag and is dropped; one of a synchronous type waits for the SYNC, another writes the mapped entry at once. A transmit PDO of types 1 to 240 goes at the SYNC that its type counts to; one of types 254 and 255 goes on a change, when its inhibit time has passed, and at its event timer. -/
def Obligations.Pdos : Prop :=
  ∀ s : State, Running s →
    (∀ (n : Fin 2) (k : Fin 4) (d : List Byte),
      let es := s.mapped (0x1600 + k.val)
      let w := State.mapBytes es
      let runs := s.pdoValid (0x1400 + k.val) = true ∧ s.pdoRuns n.val w = true
      (¬ runs → Sys2Proof.Machine.exec (.rpdo n k d) s = .next s) ∧
      (runs → d.length < w → Completes (.rpdo n k d) s fun t => t.rd 0x2013 1 = s.rd 0x2013 1 ||| 0x10 ∧ t.parts = s.parts ∧ t.mem = s.mem ∧
        t.rpdoWait = s.rpdoWait) ∧
      (runs → w ≤ d.length → s.rdn (0x1400 + k.val) 2 ≤ 240 →
        Sys2Proof.Machine.exec (.rpdo n k d) s = .next { s with rpdoWait := s.rpdoWait ++ [(n.val, k.val, d.take w)] }) ∧
      (∀ i j r, runs → w ≤ d.length → 240 < s.rdn (0x1400 + k.val) 2 → es = [(i, j, w)] → Od.lookup i j = some r → r.acc = .rw →
        Od.Ty.bytes r.ty ≠ 0 → i ≠ 0x1003 → i ≠ 0x1011 → i ≠ 0x7019 → i ≠ 0x8002 →
        Sys2Proof.Machine.exec (.rpdo n k d) s = .next (match s.judgeRw i j (BitVec.ofNat 64 (leNat (d.take w)) &&& BitVec.ofNat 64 r.mask).toNat with
          | .ok y => s.wrI (State.copyOf (.can n) i j) i j (BitVec.ofNat 64 y)
          | .error _ => s))) ∧
    (∀ n : Fin 2, (s.canServes n.val = false ∨ (s.can n.val).nmt ≠ 3) → Sys2Proof.Machine.exec (.sync n) s = .next s) ∧
    (∀ (n : Fin 2) (k : Fin 8), s.canServes n.val = true → (s.can n.val).nmt = 3 → (∀ x ∈ s.rpdoWait, x.1 ≠ n.val) →
      s.tpdoLive k.val = true → 1 ≤ s.rdn (0x1800 + k.val) 2 → s.rdn (0x1800 + k.val) 2 ≤ 240 → Completes (.sync n) s fun t =>
        (s.rdn (0x1800 + k.val) 2 ≤ (s.tpdo k.val).syncs + 1 → (t.tpdo k.val).syncs = 0 ∧ (t.tpdo k.val).lastSent = some s.time) ∧
        ((s.tpdo k.val).syncs + 1 < s.rdn (0x1800 + k.val) 2 →
          (t.tpdo k.val).syncs = (s.tpdo k.val).syncs + 1 ∧ (t.tpdo k.val).lastSent = (s.tpdo k.val).lastSent) ∧
        t.od = s.od ∧ t.cans = s.cans ∧ t.parts = s.parts) ∧
    (∀ k : Fin 8, s.tpdoLive k.val = true → 254 ≤ s.rdn (0x1800 + k.val) 2 → (s.tpdo k.val).changed = true → Completes .tpdoChangeCheck s fun t =>
      ((∀ v, (s.tpdo k.val).lastSent = some v → v + s.rdn (0x1800 + k.val) 3 * 100 ≤ s.time) →
        (t.tpdo k.val).lastSent = some s.time ∧ (t.tpdo k.val).changed = false) ∧
      (∀ v, (s.tpdo k.val).lastSent = some v → s.time < v + s.rdn (0x1800 + k.val) 3 * 100 →
        (t.tpdo k.val).lastSent = some v ∧ (t.tpdo k.val).changed = true) ∧
      t.od = s.od ∧ t.cans = s.cans ∧ t.parts = s.parts) ∧
    (∀ k : Fin 8,
      (s.tpdoLive k.val = true → 254 ≤ s.rdn (0x1800 + k.val) 2 → s.rdn (0x1800 + k.val) 5 ≠ 0 → Completes (.tpdoEventTimer k) s fun t =>
        (t.tpdo k.val).lastSent = some s.time ∧ (∀ j, j ≠ k.val → t.tpdo j = s.tpdo j) ∧ t.od = s.od ∧ t.cans = s.cans) ∧
      ((s.tpdoLive k.val = false ∨ s.rdn (0x1800 + k.val) 2 < 254 ∨ s.rdn (0x1800 + k.val) 5 = 0) →
        Sys2Proof.Machine.exec (.tpdoEventTimer k) s = .next s))

/-- Where RPDO, SYNC, TPDO_CHANGE_CHECK and TPDO_EVENT_TIMER complete with their own effect (R434, R435): an RPDO that is valid on an Operational controller which allows its length, with all its bytes, waits for the SYNC or is written at once; a SYNC on an Operational controller writes that controller's waiting values and then lets each transmit PDO count, send or take note; the check and the event timer send or take note for each live transmit PDO, and leave the others. -/
def Obligations.PdosComplete : Prop :=
  ∀ s : State, Running s →
    (∀ (n : Fin 2) (k : Fin 4) (d : List Byte),
      let w := State.mapBytes (s.mapped (0x1600 + k.val))
      s.canServes n.val = true → (s.can n.val).nmt = 3 → (w ≤ 8 ∨ s.canFd n.val = true) → s.pdoValid (0x1400 + k.val) = true → w ≤ d.length →
      Completes (.rpdo n k d) s fun t =>
        (s.rdn (0x1400 + k.val) 2 ≤ 240 → t = { s with rpdoWait := s.rpdoWait ++ [(n.val, k.val, d.take w)] }) ∧
        (240 < s.rdn (0x1400 + k.val) 2 → t = State.writeRpdo n.val k.val (d.take w) s) ∧
        (∀ i j r y, 240 < s.rdn (0x1400 + k.val) 2 → s.mapped (0x1600 + k.val) = [(i, j, w)] → Od.lookup i j = some r → r.acc = .rw →
          Od.Ty.bytes r.ty ≠ 0 → i ≠ 0x1003 → i ≠ 0x1011 → i ≠ 0x7019 → i ≠ 0x8002 →
          s.judgeRw i j (BitVec.ofNat 64 (leNat (d.take w)) &&& BitVec.ofNat 64 r.mask).toNat = .ok y →
          t = s.wrI (State.copyOf (.can n) i j) i j (BitVec.ofNat 64 y))) ∧
    (∀ n : Fin 2, s.canServes n.val = true → (s.can n.val).nmt = 3 →
      let mine := s.rpdoWait.filter fun x => x.1 = n.val
      let u := mine.foldl (fun v x => State.writeRpdo n.val x.2.1 x.2.2 v) { s with rpdoWait := s.rpdoWait.filter fun x => x.1 ≠ n.val }
      Completes (.sync n) s fun t => t = (List.range 8).foldl State.syncTpdo u ∧
        ∀ k, mine = [] → k < 8 →
          ((s.tpdoLive k = false ∨ 240 < s.rdn (0x1800 + k) 2) → t.tpdo k = s.tpdo k) ∧
          (s.tpdoLive k = true → s.rdn (0x1800 + k) 2 = 0 → t.tpdo k = if s.tpdoChanged k = true
            then { s.tpdo k with lastSent := some s.time, lastValue := s.tpdoNow k, changed := false }
            else { s.tpdo k with lastValue := s.tpdoNow k })) ∧
    (Completes .tpdoChangeCheck s fun t => t.od = s.od ∧ t.cans = s.cans ∧ t.parts = s.parts ∧ t.mem = s.mem ∧ ∀ k, k < 8 →
      let type := s.rdn (0x1800 + k) 2
      let open_ := ∀ v, (s.tpdo k).lastSent = some v → v + s.rdn (0x1800 + k) 3 * 100 ≤ s.time
      ((s.tpdoLive k = false ∨ (1 ≤ type ∧ type < 254)) → t.tpdo k = s.tpdo k) ∧
      (s.tpdoLive k = true → 254 ≤ type → s.tpdoChanged k = true → open_ →
        t.tpdo k = { s.tpdo k with lastSent := some s.time, lastValue := s.tpdoNow k, changed := false }) ∧
      (s.tpdoLive k = true → (type = 0 ∨ (254 ≤ type ∧ (s.tpdoChanged k = false ∨ ¬ open_))) →
        t.tpdo k = { s.tpdo k with lastValue := s.tpdoNow k, changed := s.tpdoChanged k })) ∧
    (∀ k : Fin 8, s.tpdoLive k.val = true → 254 ≤ s.rdn (0x1800 + k.val) 2 → s.rdn (0x1800 + k.val) 5 ≠ 0 →
      Completes (.tpdoEventTimer k) s fun t =>
        t.tpdo k.val = { s.tpdo k.val with lastSent := some s.time, lastValue := s.tpdoNow k.val, changed := false } ∧
        (∀ j, j ≠ k.val → t.tpdo j = s.tpdo j) ∧ t.od = s.od ∧ t.cans = s.cans ∧ t.parts = s.parts ∧ t.mem = s.mem)

/-- Heartbeats (R436, R437): a producer sends its state; a consumer that hears its node is armed, and no longer missing; an armed consumer that misses it sets its flag, and the error register shows it; the inhibit time lets one queued EMCY message go. Error confinement (R437, R438): error passive, bus-off and their ends set the state of the controller and its counters, with their flags; while a controller is error passive or bus-off the error register shows it; a bus-off controller sends nothing until it recovers, through Reset Communication; a lost frame is flagged. -/
def Obligations.HeartbeatsAndErrors : Prop :=
  (∀ s : State,
    (∀ n : Fin 2,
      let c := s.can n.val
      (s.canServes n.val = true → s.rdn 0x1017 0 ≠ 0 → c.node ≤ 127 →
        (c.nmt = 2 → Sys2Proof.Machine.exec (.heartbeatProduce n) s = .next (s.emit (.can n.val (0x700 + c.node) [127]))) ∧
        (c.nmt = 3 → Sys2Proof.Machine.exec (.heartbeatProduce n) s = .next (s.emit (.can n.val (0x700 + c.node) [5]))) ∧
        (c.nmt = 4 → Sys2Proof.Machine.exec (.heartbeatProduce n) s = .next (s.emit (.can n.val (0x700 + c.node) [4])))) ∧
      ((s.canServes n.val = false ∨ s.rdn 0x1017 0 = 0 ∨ c.nmt < 2 ∨ 4 < c.nmt) → Sys2Proof.Machine.exec (.heartbeatProduce n) s = .next s) ∧
      (∀ (node : BitVec 7) (k : Nat), s.canServes n.val = true → 2 ≤ c.nmt → c.nmt ≤ 4 → node ≠ 0 → k < 4 → s.consumes k node.toNat = true →
        Completes (.heartbeatReceived n node) s fun t => (k, n.val) ∈ t.hbArmed ∧ k ∉ t.hbLost ∧ t.parts = s.parts) ∧
      (∀ node : BitVec 7, (s.canServes n.val = false ∨ c.nmt < 2 ∨ 4 < c.nmt ∨ node = 0) → Sys2Proof.Machine.exec (.heartbeatReceived n node) s = .next s) ∧
      (s.emcyRuns n.val = true → c.inhibited = true →
        (c.emcy = [] → Sys2Proof.Machine.exec (.emcyInhibitExpiry n) s = .next (s.setCan n.val { c with inhibited := false })) ∧
        ∀ m rest, c.emcy = m :: rest → Completes (.emcyInhibitExpiry n) s fun t => (t.can n.val).emcy = rest ∧
          t.out = Output.can n.val (s.cobValue n.val (s.rd 0x1014 0) % 2048) (State.emcyBytes m) :: s.out ∧ t.od = s.od) ∧
      ((s.emcyRuns n.val = false ∨ c.inhibited = false) → Sys2Proof.Machine.exec (.emcyInhibitExpiry n) s = .next s)) ∧
    (∀ k : Fin 4,
      ((∀ x ∈ s.hbArmed, x.1 ≠ k.val) → Sys2Proof.Machine.exec (.heartbeatConsumerTimeout k) s = .next s) ∧
      (∀ n, (s.hbArmed.find? fun x => x.1 = k.val) = some (k.val, n) → s.canServes n = true →
        Completes (.heartbeatConsumerTimeout k) s fun t => k.val ∈ t.hbLost ∧ (∀ x ∈ t.hbArmed, x.1 ≠ k.val) ∧
          t.rd 0x2013 1 = s.rd 0x2013 1 ||| 8 ∧ t.errReg &&& 0x11 = 0x11))) ∧
  (∀ (s : State) (n : Fin 2),
    (s.canServes n.val = true →
      (∀ tec : Byte, Completes (.errorPassive n tec) s fun t => (t.can n.val).err = 1 ∧ (t.can n.val).txErr = tec.toNat ∧
        (tec.toNat < 128 → 128 ≤ (t.can n.val).rxErr) ∧ t.rd 0x2013 1 = s.rd 0x2013 1 ||| 2 ∧ t.errReg &&& 0x11 = 0x11) ∧
      (Completes (.rxOverrun n) s fun t => t.rd 0x2013 1 = s.rd 0x2013 1 ||| 4 ∧ t.parts = s.parts) ∧
      (Completes (.busOff n) s fun t => (t.can n.val).err = 2 ∧ (t.can n.val).txErr = 256 ∧ t.rd 0x2013 1 = s.rd 0x2013 1 ||| 1 ∧
        t.canSends n.val = false ∧ t.errReg &&& 0x11 = 0x11) ∧
      ((s.can n.val).err = 1 → Completes (.canErrorActive n) s fun t => (t.can n.val).err = 0 ∧ (t.can n.val).txErr < 128 ∧ (t.can n.val).rxErr < 128) ∧
      ((s.can n.val).err ≠ 1 → Sys2Proof.Machine.exec (.canErrorActive n) s = .next s)) ∧
    (s.canServes n.val = false → ∀ c, (∃ tec, c = Instr.errorPassive n tec) ∨ c = Instr.rxOverrun n ∨ c = Instr.busOff n ∨ c = Instr.canErrorActive n →
      Sys2Proof.Machine.exec c s = .next s) ∧
    (s.serves = true → 3 ≤ s.power.state → (s.can n.val).err = 2 → n.val ∉ s.faults.heldCans → bit (s.rdn 0x2011 (n.val + 1) % 4294967296) 0 = true →
      Completes (.busOffRecovery n) s fun t => (t.can n.val).err = 0 ∧ (t.can n.val).txErr = 0 ∧ (t.can n.val).rxErr = 0 ∧
        (t.can n.val).node = s.nodeChoice.1 ∧ (t.can n.val).sdo = none) ∧
    ((s.serves = false ∨ s.power.state < 3 ∨ (s.can n.val).err ≠ 2 ∨ n.val ∈ s.faults.heldCans) → Sys2Proof.Machine.exec (.busOffRecovery n) s = .next s))

/-- Switching and configuring (R439): a switch opens or closes configuration, a selective one for the controller whose identity it names; in configuration a node-ID waits for the store unless the straps give it, a bit rate waits for its activation, and the switch delay brings it into force. A controller that does not serve, or is not in configuration, takes no configuration service. Storing, inquiring and identifying (R439, R425): the store writes the pending node-ID and bit rate as an rwp write would; the inquiries answer with a part of the identity and with the node-ID; a controller whose identity lies in a range, and one without a node-ID, identifies itself; fastscan narrows an unconfigured controller part by part until the last opens configuration. -/
def Obligations.LayerSettings : Prop :=
  (∀ (s : State) (n : Fin 2),
    let c := s.can n.val
    let at_ (l : Lss) : State := s.setCan n.val { c with lss := l }
    (s.canServes n.val = true →
      Sys2Proof.Machine.exec (.lssSwitchStateGlobal n true) s = .next (at_ { c.lss with configuration := true }) ∧
      ((c.lss.configuration = false ∨ c.nmt ≠ 5 ∨ s.nodeChoice.1 = 0xFF) →
        Sys2Proof.Machine.exec (.lssSwitchStateGlobal n false) s = .next (at_ { c.lss with configuration := false })) ∧
      (c.lss.configuration = true → c.nmt = 5 → s.nodeChoice.1 ≠ 0xFF → bit (s.rdn 0x2011 (n.val + 1) % 4294967296) 0 = true →
        Completes (.lssSwitchStateGlobal n false) s fun t =>
          (t.can n.val).node = s.nodeChoice.1 ∧ (t.can n.val).nmt ≠ 5 ∧ (t.can n.val).lss.configuration = false) ∧
      (∀ a, (∀ k < 4, State.addrPart a.toNat k = s.lssPart k) → Sys2Proof.Machine.exec (.lssSwitchStateSelective n a) s =
        .next ((at_ { c.lss with configuration := true }).emit (.lss n.val 0x44 0))) ∧
      (∀ a, (∃ k < 4, State.addrPart a.toNat k ≠ s.lssPart k) → Sys2Proof.Machine.exec (.lssSwitchStateSelective n a) s = .next s) ∧
      (c.lss.configuration = true →
        (∀ id : Byte, 1 ≤ s.rdn 0x2010 4 → s.rdn 0x2010 4 ≤ 127 → Completes (.lssConfigureNodeId n id) s fun t => t.cans = s.cans ∧ t.od = s.od) ∧
        (∀ id : Byte, (s.rdn 0x2010 4 = 0 ∨ 127 < s.rdn 0x2010 4) →
          ((1 ≤ id.toNat ∧ id.toNat ≤ 127) ∨ id = 0xFF →
            Sys2Proof.Machine.exec (.lssConfigureNodeId n id) s = .next ((at_ { c.lss with pendingNode := some id.toNat }).emit (.lss n.val 0x11 0))) ∧
          (id = 0 ∨ (128 ≤ id.toNat ∧ id ≠ 0xFF) → Sys2Proof.Machine.exec (.lssConfigureNodeId n id) s = .next (s.emit (.lss n.val 0x11 1)))) ∧
        (∀ table index : Byte,
          (table = 0 → index.toNat ≤ 8 → index ≠ 5 → Sys2Proof.Machine.exec (.lssConfigureBitTiming n table index) s =
            .next ((at_ { c.lss with pendingRate := some index.toNat }).emit (.lss n.val 0x13 0))) ∧
          ((table ≠ 0 ∨ 8 < index.toNat ∨ index = 5) →
            Sys2Proof.Machine.exec (.lssConfigureBitTiming n table index) s = .next (s.emit (.lss n.val 0x13 1)))) ∧
        ∀ (ms : W16) (r : Nat), c.lss.pendingRate = some r →
          Sys2Proof.Machine.exec (.lssActivateBitTiming n ms) s = .next (at_ { c.lss with activating := some (r, ms.toNat) })) ∧
      (∀ r d, c.lss.activating = some (r, d) → Sys2Proof.Machine.exec (.lssBitTimingSwitch n) s =
        .next (s.setCan n.val { c with rate := r, lss := { c.lss with activating := none } })) ∧
      (c.lss.activating = none → Sys2Proof.Machine.exec (.lssBitTimingSwitch n) s = .next s)) ∧
    ((s.canServes n.val = false ∨ c.lss.configuration = false) → ∀ i,
      (∃ id, i = Instr.lssConfigureNodeId n id) ∨ (∃ a b, i = Instr.lssConfigureBitTiming n a b) ∨ (∃ ms, i = Instr.lssActivateBitTiming n ms) ∨
      i = Instr.lssStoreConfiguration n ∨ (∃ k, i = Instr.lssInquireIdentity n k) ∨ i = Instr.lssInquireNodeId n → Sys2Proof.Machine.exec i s = .next s)) ∧
  (∀ (s : State) (n : Fin 2), s.canServes n.val = true →
    let c := s.can n.val
    (c.lss.configuration = true →
      (c.lss.pendingNode = none → c.lss.pendingRate = none → Sys2Proof.Machine.exec (.lssStoreConfiguration n) s = .next (s.emit (.lss n.val 0x17 0))) ∧
      (∀ id, c.lss.pendingNode = some id → c.lss.pendingRate = none → (1 ≤ id ∧ id ≤ 127 ∨ id = 0xFF) →
        odKey 0 0x2010 1 ∉ s.persist.locked → s.judgeRwp (.can n) 0x2010 1 id = .ok id → Completes (.lssStoreConfiguration n) s fun t =>
          t.rdn 0x2010 1 = id ∧ t.cans = s.cans ∧ t.out = Output.lss n.val 0x17 0 :: s.out) ∧
      (∀ k : Fin 4, Sys2Proof.Machine.exec (.lssInquireIdentity n k) s =
        .next (s.emit (.lss n.val (BitVec.ofNat 8 (0x5A + k.val)) (BitVec.ofNat 32 (s.lssPart k.val))))) ∧
      Sys2Proof.Machine.exec (.lssInquireNodeId n) s = .next (s.emit (.lss n.val 0x5E (BitVec.ofNat 32 c.node)))) ∧
    (∀ lo hi, (∀ k < 4, State.addrPart lo.toNat k ≤ s.lssPart k ∧ s.lssPart k ≤ State.addrPart hi.toNat k) →
      Sys2Proof.Machine.exec (.lssIdentifyRemoteSlave n lo hi) s = .next (s.emit (.lss n.val 0x4F 0))) ∧
    (∀ lo hi, (∃ k < 4, s.lssPart k < State.addrPart lo.toNat k ∨ State.addrPart hi.toNat k < s.lssPart k) →
      Sys2Proof.Machine.exec (.lssIdentifyRemoteSlave n lo hi) s = .next s) ∧
    (c.nmt = 5 → Sys2Proof.Machine.exec (.lssIdentifyNonConfigured n) s = .next (s.emit (.lss n.val 0x50 0))) ∧
    (c.nmt ≠ 5 → Sys2Proof.Machine.exec (.lssIdentifyNonConfigured n) s = .next s ∧
      ∀ id b sub next, Sys2Proof.Machine.exec (.lssFastscan n id b sub next) s = .next s) ∧
    (c.nmt = 5 → c.lss.configuration = false → ∀ (id : W32) (b sub next : Byte),
      (b = 0x80 → Sys2Proof.Machine.exec (.lssFastscan n id b sub next) s =
        .next ((s.setCan n.val { c with lss := { c.lss with scan := 0 } }).emit (.lss n.val 0x4F 0))) ∧
      (b.toNat ≤ 31 → sub.toNat ≤ 3 → next.toNat ≤ 3 → sub.toNat = c.lss.scan →
        (s.lssPart sub.toNat / 2 ^ b.toNat ≠ id.toNat / 2 ^ b.toNat → Sys2Proof.Machine.exec (.lssFastscan n id b sub next) s = .next s) ∧
        (s.lssPart sub.toNat / 2 ^ b.toNat = id.toNat / 2 ^ b.toNat →
          (b ≠ 0 → Sys2Proof.Machine.exec (.lssFastscan n id b sub next) s = .next (s.emit (.lss n.val 0x4F 0))) ∧
          (b = 0 → Sys2Proof.Machine.exec (.lssFastscan n id b sub next) s =
            .next ((s.setCan n.val { c with lss := { c.lss with scan := next.toNat, configuration := decide (next.toNat < sub.toNat) } }).emit (.lss n.val 0x4F 0)))))))

/-- Boundary scan (R454): with its rails on, the TAP takes each instruction: IDCODE reads the device's code, SAMPLE/PRELOAD reads the pins and loads the cells, and EXTEST drives the cells while PERST_N is low; BYPASS and IDCODE keep the cells. With the rails off nothing happens. -/
def Obligations.BoundaryScan : Prop :=
  ∀ s : State,
    (s.power.state ≠ 0 → s.power.coreEn = true →
      Sys2Proof.Machine.exec .tapBypass s = .next ({ s with tap := ⟨.bypass, s.tap.cells⟩ }.emit (.tap "BYPASS" 0)) ∧
      Sys2Proof.Machine.exec .tapIdcode s = .next ({ s with tap := ⟨.idcode, s.tap.cells⟩ }.emit (.tap "IDCODE" 0x22564A3B)) ∧
      (∀ pins pre, Sys2Proof.Machine.exec (.tapSamplePreload pins pre) s =
        .next ({ s with tap := ⟨.samplePreload, pre⟩ }.emit (.tap "SAMPLE/PRELOAD" pins.toNat))) ∧
      (Completes .tapExtest s fun t => t.tap = ⟨.extest, s.tap.cells⟩ ∧ t.od = s.od ∧ t.mem = s.mem ∧ t.parts = s.parts ∧ t.tapDrives = s.link.perst ∧
        (s.link.perst = true → t.out = Output.tap "EXTEST" s.tap.cells.toNat :: s.out))) ∧
    ((s.power.state = 0 ∨ s.power.coreEn = false) → ∀ c, c = Instr.tapBypass ∨ c = Instr.tapIdcode ∨ (∃ a b, c = Instr.tapSamplePreload a b) ∨ c = Instr.tapExtest →
      Sys2Proof.Machine.exec c s = .next s)
end

