-- ==== Sys2Proof/Laws/Access.lean ====
section
/-! SUPPORT. What an access to the dictionary comes to when the device serves it. -/

namespace Sys2Proof

open Sys2Proof.Machine

/-- A 32-bit value reaches an entry of 32 bits whole. -/
theorem mask32_toNat (v : W32) : (v.setWidth 64 &&& BitVec.ofNat 64 0xFFFFFFFF).toNat = v.toNat := by
  rw [BitVec.toNat_and]
  have h := v.isLt
  have h2 : (BitVec.ofNat 64 0xFFFFFFFF).toNat = 2 ^ 32 - 1 := by decide
  rw [h2, Nat.and_two_pow_sub_one_eq_mod, BitVec.toNat_setWidth]
  omega

/-- A 16-bit value reaches an entry of 16 bits whole. -/
theorem mask16_toNat (v : W16) : (v.setWidth 64 &&& BitVec.ofNat 64 0xFFFF).toNat = v.toNat := by
  rw [BitVec.toNat_and]
  have h := v.isLt
  have h2 : (BitVec.ofNat 64 0xFFFF).toNat = 2 ^ 16 - 1 := by decide
  rw [h2, Nat.and_two_pow_sub_one_eq_mod, BitVec.toNat_setWidth]
  omega

theorem serves_alive {s : State} (h : s.serves = true) : s.alive = true := by
  simp only [State.serves, State.alive, Bool.and_eq_true] at h ⊢; exact ⟨h.1.2, h.2⟩

theorem serves_barServes {s : State} (h : s.serves = true) (i sub : Nat) : s.barServes i sub = true := by
  simp only [State.serves, State.barServes, Bool.and_eq_true, Bool.or_eq_true, decide_eq_true_eq] at h ⊢
  omega

theorem running_accessWaits {s : State} (h : Running s) (i sub : Nat) : s.accessWaits i sub = false := by
  simp [State.accessWaits, h.2.1, h.2.2]

/-- An access of a device that serves is carried out at once. -/
theorem access_running {s : State} (h : Running s) (w : HeldWrite) : s.access w = s.carry w := by
  simp [State.access, serves_alive h.1, running_accessWaits h]

/-- A write that reaches its entry and ends well leaves its effect, answered. -/
theorem put_reaches {s t : State} {fn : Iface} {i sub : Nat} {v : W64} (h : Reaches s fn i sub)
    (hw : s.writeEntry fn i sub v s.time = (t, .done)) : s.put fn i sub v = answered fn t := by
  unfold State.put
  rw [access_running h.1]
  cases fn with
  | pf => simp [State.carry, State.carryBar, serves_barServes h.1.1, State.vfDiscards, hw, answered]
  | vf p =>
    have h2 : s.vfWrites p.val i sub = true := h.2
    simp [State.carry, State.carryBar, serves_barServes h.1.1, State.vfDiscards, h2, hw, answered]
  | can n =>
    have h2 : s.sdoRuns n.val = true := h.2
    simp [State.carry, State.carryCan, h2, hw, answered, WriteEnd.code]

/-- A write that an entry's class or range rejects. -/
theorem put_rejected {s : State} {fn : Iface} {i sub c : Nat} {v : W64} (h : Reaches s fn i sub)
    (hw : s.writeEntry fn i sub v s.time = (s, .rejected c)) : s.put fn i sub v = rejected fn c s := by
  unfold State.put
  rw [access_running h.1]
  cases fn with
  | pf => simp [State.carry, State.carryBar, serves_barServes h.1.1, State.vfDiscards, hw, rejected]
  | vf p =>
    have h2 : s.vfWrites p.val i sub = true := h.2
    simp [State.carry, State.carryBar, serves_barServes h.1.1, State.vfDiscards, h2, hw, rejected]
  | can n =>
    have h2 : s.sdoRuns n.val = true := h.2
    simp [State.carry, State.carryCan, h2, hw, rejected, WriteEnd.code]

/-- A write that the entry refuses: an abort over CAN, nothing elsewhere. -/
theorem put_refused {s : State} {fn : Iface} {i sub c : Nat} {v : W64} (h : Reaches s fn i sub)
    (hw : s.writeEntry fn i sub v s.time = (s, .refused c)) :
    s.put fn i sub v = match fn with | .can n => s.sdoAnswer n.val c [] | _ => s := by
  unfold State.put
  rw [access_running h.1]
  cases fn with
  | pf => simp [State.carry, State.carryBar, serves_barServes h.1.1, State.vfDiscards, hw]
  | vf p =>
    have h2 : s.vfWrites p.val i sub = true := h.2
    simp [State.carry, State.carryBar, serves_barServes h.1.1, State.vfDiscards, h2, hw]
  | can n =>
    have h2 : s.sdoRuns n.val = true := h.2
    simp [State.carry, State.carryCan, h2, hw, WriteEnd.code]

/-- A write of a command entry acts as its command. -/
theorem writeEntry_command {s : State} {fn : Iface} {i sub t : Nat} {v : W64} {r : Od.Row} (hl : Od.lookup i sub = some r)
    (hw : Od.Ty.bytes r.ty ≠ 0) (ha : r.acc = .wo) :
    s.writeEntry fn i sub v t = s.command fn i sub (v &&& BitVec.ofNat 64 r.mask).toNat t := by
  simp [State.writeEntry, hl, hw, ha]

/-- A write of bytes that reaches its entry. -/
theorem putDomain_bar {s : State} {fn : Iface} (h : Running s) (hc : ∀ n, fn ≠ .can n) (i sub : Nat) (bs : List Byte) :
    s.putDomain fn i sub bs = s.directDomain fn i sub bs s.time := by
  unfold State.putDomain
  rw [access_running h]
  cases fn with
  | can n => exact absurd rfl (hc n)
  | pf => simp [State.carry, State.carryBar, serves_barServes h.1]
  | vf p => simp [State.carry, State.carryBar, serves_barServes h.1]

end Sys2Proof
end

