-- ==== Sys2Proof/Laws/Map.lean ====
section
/-! SUPPORT. The laws of the finite maps: reading back what was written, leaving every other key alone, and keeping the canonical form. -/

namespace Sys2Proof.Machine.NMap

variable {α : Type}

@[simp] theorem find_nil (k : Nat) : find k ([] : NMap α) = none := rfl

theorem find_erase_same (k : Nat) (m : NMap α) : find k (erase k m) = none := by
  induction m with
  | nil => rfl
  | cons p m ih =>
    obtain ⟨a, v⟩ := p
    by_cases h : a = k <;> simp [erase, find, h, ih]

theorem find_erase_other {k j : Nat} (h : j ≠ k) (m : NMap α) : find j (erase k m) = find j m := by
  induction m with
  | nil => rfl
  | cons p m ih =>
    obtain ⟨a, v⟩ := p
    by_cases ha : a = k
    · subst ha; simp [erase, find, ih, h.symm]
    · by_cases hj : a = j
      · subst hj; simp [erase, find, ha]
      · simp [erase, find, ha, hj, ih]

theorem find_insert_same (k : Nat) (v : α) (m : NMap α) : find k (insert k v m) = some v := by
  induction m with
  | nil => simp [insert, find]
  | cons p m ih =>
    obtain ⟨a, w⟩ := p
    by_cases hl : k < a
    · simp [insert, find, hl]
    · by_cases ha : a = k <;> simp [insert, find, hl, ha, ih]

theorem find_insert_other {k j : Nat} (h : j ≠ k) (v : α) (m : NMap α) :
    find j (insert k v m) = find j m := by
  induction m with
  | nil => simp [insert, find, h.symm]
  | cons p m ih =>
    obtain ⟨a, w⟩ := p
    by_cases hl : k < a
    · simp [insert, find, hl, h.symm]
    · by_cases ha : a = k
      · subst ha; simp [insert, find, h.symm]
      · by_cases hj : a = j
        · subst hj; simp [insert, find, hl, ha]
        · simp [insert, find, hl, ha, hj, ih]

/-- Reading a key after writing it gives the value written. -/
@[simp] theorem get_set_same [DecidableEq α] (d : Nat → α) (m : NMap α) (k : Nat) (v : α) :
    get d (set d m k v) k = v := by
  unfold get set
  split
  · next h => simp [find_erase_same, h]
  · simp [find_insert_same]

/-- Writing a key leaves every other key alone. -/
theorem get_set_other [DecidableEq α] (d : Nat → α) (m : NMap α) {k j : Nat} (v : α) (h : j ≠ k) :
    get d (set d m k v) j = get d m j := by
  unfold get set
  split
  · simp [find_erase_other h]
  · simp [find_insert_other h]

@[simp] theorem get_nil (d : Nat → α) (k : Nat) : get d [] k = d k := rfl

theorem mem_erase {k : Nat} {m : NMap α} {p : Nat × α} (h : p ∈ erase k m) : p ∈ m := by
  induction m with
  | nil => simp [erase] at h
  | cons q m ih =>
    obtain ⟨a, v⟩ := q
    by_cases ha : a = k
    · simp [erase, ha] at h; exact List.mem_cons_of_mem _ (ih h)
    · simp [erase, ha] at h
      rcases h with h | h
      · simp [h]
      · exact List.mem_cons_of_mem _ (ih h)

theorem mem_insert {k : Nat} {v : α} {m : NMap α} {p : Nat × α} (h : p ∈ insert k v m) :
    p = (k, v) ∨ p ∈ m := by
  induction m with
  | nil => simpa [insert] using h
  | cons q m ih =>
    obtain ⟨a, w⟩ := q
    by_cases hl : k < a
    · simp [insert, hl] at h
      rcases h with h | h | h <;> simp [h]
    · by_cases ha : a = k
      · simp [insert, ha] at h
        rcases h with h | h <;> simp [h]
      · simp [insert, hl, ha] at h
        rcases h with h | h
        · simp [h]
        · rcases ih h with h | h <;> simp [h]

theorem pairwise_erase {k : Nat} {m : NMap α} (h : m.Pairwise (fun a b => a.1 < b.1)) :
    (erase k m).Pairwise (fun a b => a.1 < b.1) := by
  induction m with
  | nil => simp [erase]
  | cons q m ih =>
    obtain ⟨a, v⟩ := q
    rw [List.pairwise_cons] at h
    by_cases ha : a = k
    · simp [erase, ha, ih h.2]
    · simp only [erase, ha, if_false, List.pairwise_cons]
      exact ⟨fun p hp => h.1 p (mem_erase hp), ih h.2⟩

theorem pairwise_insert {k : Nat} {v : α} {m : NMap α} (h : m.Pairwise (fun a b => a.1 < b.1)) :
    (insert k v m).Pairwise (fun a b => a.1 < b.1) := by
  induction m with
  | nil => simp [insert]
  | cons q m ih =>
    obtain ⟨a, w⟩ := q
    have h' := h
    rw [List.pairwise_cons] at h
    by_cases hl : k < a
    · simp only [insert, hl, if_true, List.pairwise_cons]
      refine ⟨?_, h.1, h.2⟩
      intro p hp
      rcases List.mem_cons.1 hp with hp | hp
      · simpa [hp] using hl
      · exact Nat.lt_trans hl (h.1 p hp)
    · by_cases ha : a = k
      · subst ha
        simp only [insert, hl, if_false, if_true, List.pairwise_cons]
        exact ⟨h.1, h.2⟩
      · simp only [insert, hl, ha, if_false, List.pairwise_cons]
        refine ⟨?_, ih h.2⟩
        intro p hp
        rcases mem_insert hp with hp | hp
        · subst hp; show a < k; omega
        · exact h.1 p hp

/-- A write keeps the canonical form. -/
theorem wf_set [DecidableEq α] {d : Nat → α} {m : NMap α} (k : Nat) (v : α) (h : wf d m) :
    wf d (set d m k v) := by
  unfold set
  split
  · exact ⟨pairwise_erase h.1, fun p hp => h.2 p (mem_erase hp)⟩
  · next hv =>
    refine ⟨pairwise_insert h.1, fun p hp => ?_⟩
    rcases mem_insert hp with hp | hp
    · subst hp; exact hv
    · exact h.2 p hp

theorem wf_nil (d : Nat → α) : wf d ([] : NMap α) := by simp [wf]

end Sys2Proof.Machine.NMap
end

