-- ==== Sys2Proof/Laws/State.lean ====
section
/-! SUPPORT. What each update of the state leaves: one lemma per field per update, true by computation. -/

namespace Sys2Proof.Machine.State

variable (s : State)

@[simp] theorem wrI_time (fn i j : Nat) (v : W64) : (s.wrI fn i j v).time = s.time := by cases s; rfl
@[simp] theorem wrI_free (fn i j : Nat) (v : W64) : (s.wrI fn i j v).free = s.free := by cases s; rfl
@[simp] theorem wrI_fuse (fn i j : Nat) (v : W64) : (s.wrI fn i j v).fuse = s.fuse := by cases s; rfl
@[simp] theorem wrI_persist (fn i j : Nat) (v : W64) : (s.wrI fn i j v).persist = s.persist := by cases s; rfl
@[simp] theorem wrI_dom (fn i j : Nat) (v : W64) : (s.wrI fn i j v).dom = s.dom := by cases s; rfl
@[simp] theorem wrI_staged (fn i j : Nat) (v : W64) : (s.wrI fn i j v).staged = s.staged := by cases s; rfl
@[simp] theorem wrI_stagedDom (fn i j : Nat) (v : W64) : (s.wrI fn i j v).stagedDom = s.stagedDom := by cases s; rfl
@[simp] theorem wrI_snap (fn i j : Nat) (v : W64) : (s.wrI fn i j v).snap = s.snap := by cases s; rfl
@[simp] theorem wrI_xfer (fn i j : Nat) (v : W64) : (s.wrI fn i j v).xfer = s.xfer := by cases s; rfl
@[simp] theorem wrI_fabric (fn i j : Nat) (v : W64) : (s.wrI fn i j v).fabric = s.fabric := by cases s; rfl
@[simp] theorem wrI_mem (fn i j : Nat) (v : W64) : (s.wrI fn i j v).mem = s.mem := by cases s; rfl
@[simp] theorem wrI_parts (fn i j : Nat) (v : W64) : (s.wrI fn i j v).parts = s.parts := by cases s; rfl
@[simp] theorem wrI_stats (fn i j : Nat) (v : W64) : (s.wrI fn i j v).stats = s.stats := by cases s; rfl
@[simp] theorem wrI_streams (fn i j : Nat) (v : W64) : (s.wrI fn i j v).streams = s.streams := by cases s; rfl
@[simp] theorem wrI_groups (fn i j : Nat) (v : W64) : (s.wrI fn i j v).groups = s.groups := by cases s; rfl
@[simp] theorem wrI_tickets (fn i j : Nat) (v : W64) : (s.wrI fn i j v).tickets = s.tickets := by cases s; rfl
@[simp] theorem wrI_tdm (fn i j : Nat) (v : W64) : (s.wrI fn i j v).tdm = s.tdm := by cases s; rfl
@[simp] theorem wrI_seqs (fn i j : Nat) (v : W64) : (s.wrI fn i j v).seqs = s.seqs := by cases s; rfl
@[simp] theorem wrI_pools (fn i j : Nat) (v : W64) : (s.wrI fn i j v).pools = s.pools := by cases s; rfl
@[simp] theorem wrI_faults (fn i j : Nat) (v : W64) : (s.wrI fn i j v).faults = s.faults := by cases s; rfl
@[simp] theorem wrI_bedrock (fn i j : Nat) (v : W64) : (s.wrI fn i j v).bedrock = s.bedrock := by cases s; rfl
@[simp] theorem wrI_sensors (fn i j : Nat) (v : W64) : (s.wrI fn i j v).sensors = s.sensors := by cases s; rfl
@[simp] theorem wrI_pipes (fn i j : Nat) (v : W64) : (s.wrI fn i j v).pipes = s.pipes := by cases s; rfl
@[simp] theorem wrI_i2cs (fn i j : Nat) (v : W64) : (s.wrI fn i j v).i2cs = s.i2cs := by cases s; rfl
@[simp] theorem wrI_edges (fn i j : Nat) (v : W64) : (s.wrI fn i j v).edges = s.edges := by cases s; rfl
@[simp] theorem wrI_audio (fn i j : Nat) (v : W64) : (s.wrI fn i j v).audio = s.audio := by cases s; rfl
@[simp] theorem wrI_power (fn i j : Nat) (v : W64) : (s.wrI fn i j v).power = s.power := by cases s; rfl
@[simp] theorem wrI_sec (fn i j : Nat) (v : W64) : (s.wrI fn i j v).sec = s.sec := by cases s; rfl
@[simp] theorem wrI_link (fn i j : Nat) (v : W64) : (s.wrI fn i j v).link = s.link := by cases s; rfl
@[simp] theorem wrI_cans (fn i j : Nat) (v : W64) : (s.wrI fn i j v).cans = s.cans := by cases s; rfl
@[simp] theorem wrI_tpdos (fn i j : Nat) (v : W64) : (s.wrI fn i j v).tpdos = s.tpdos := by cases s; rfl
@[simp] theorem wrI_rpdoWait (fn i j : Nat) (v : W64) : (s.wrI fn i j v).rpdoWait = s.rpdoWait := by cases s; rfl
@[simp] theorem wrI_hbArmed (fn i j : Nat) (v : W64) : (s.wrI fn i j v).hbArmed = s.hbArmed := by cases s; rfl
@[simp] theorem wrI_hbLost (fn i j : Nat) (v : W64) : (s.wrI fn i j v).hbLost = s.hbLost := by cases s; rfl
@[simp] theorem wrI_tap (fn i j : Nat) (v : W64) : (s.wrI fn i j v).tap = s.tap := by cases s; rfl
@[simp] theorem wrI_holds (fn i j : Nat) (v : W64) : (s.wrI fn i j v).holds = s.holds := by cases s; rfl
@[simp] theorem wrI_out (fn i j : Nat) (v : W64) : (s.wrI fn i j v).out = s.out := by cases s; rfl
@[simp] theorem wrI_pending (fn i j : Nat) (v : W64) : (s.wrI fn i j v).pending = s.pending := by cases s; rfl

@[simp] theorem wr_time (i j : Nat) (v : W64) : (s.wr i j v).time = s.time := by cases s; rfl
@[simp] theorem wr_free (i j : Nat) (v : W64) : (s.wr i j v).free = s.free := by cases s; rfl
@[simp] theorem wr_fuse (i j : Nat) (v : W64) : (s.wr i j v).fuse = s.fuse := by cases s; rfl
@[simp] theorem wr_persist (i j : Nat) (v : W64) : (s.wr i j v).persist = s.persist := by cases s; rfl
@[simp] theorem wr_dom (i j : Nat) (v : W64) : (s.wr i j v).dom = s.dom := by cases s; rfl
@[simp] theorem wr_staged (i j : Nat) (v : W64) : (s.wr i j v).staged = s.staged := by cases s; rfl
@[simp] theorem wr_stagedDom (i j : Nat) (v : W64) : (s.wr i j v).stagedDom = s.stagedDom := by cases s; rfl
@[simp] theorem wr_snap (i j : Nat) (v : W64) : (s.wr i j v).snap = s.snap := by cases s; rfl
@[simp] theorem wr_xfer (i j : Nat) (v : W64) : (s.wr i j v).xfer = s.xfer := by cases s; rfl
@[simp] theorem wr_fabric (i j : Nat) (v : W64) : (s.wr i j v).fabric = s.fabric := by cases s; rfl
@[simp] theorem wr_mem (i j : Nat) (v : W64) : (s.wr i j v).mem = s.mem := by cases s; rfl
@[simp] theorem wr_parts (i j : Nat) (v : W64) : (s.wr i j v).parts = s.parts := by cases s; rfl
@[simp] theorem wr_stats (i j : Nat) (v : W64) : (s.wr i j v).stats = s.stats := by cases s; rfl
@[simp] theorem wr_streams (i j : Nat) (v : W64) : (s.wr i j v).streams = s.streams := by cases s; rfl
@[simp] theorem wr_groups (i j : Nat) (v : W64) : (s.wr i j v).groups = s.groups := by cases s; rfl
@[simp] theorem wr_tickets (i j : Nat) (v : W64) : (s.wr i j v).tickets = s.tickets := by cases s; rfl
@[simp] theorem wr_tdm (i j : Nat) (v : W64) : (s.wr i j v).tdm = s.tdm := by cases s; rfl
@[simp] theorem wr_seqs (i j : Nat) (v : W64) : (s.wr i j v).seqs = s.seqs := by cases s; rfl
@[simp] theorem wr_pools (i j : Nat) (v : W64) : (s.wr i j v).pools = s.pools := by cases s; rfl
@[simp] theorem wr_faults (i j : Nat) (v : W64) : (s.wr i j v).faults = s.faults := by cases s; rfl
@[simp] theorem wr_bedrock (i j : Nat) (v : W64) : (s.wr i j v).bedrock = s.bedrock := by cases s; rfl
@[simp] theorem wr_sensors (i j : Nat) (v : W64) : (s.wr i j v).sensors = s.sensors := by cases s; rfl
@[simp] theorem wr_pipes (i j : Nat) (v : W64) : (s.wr i j v).pipes = s.pipes := by cases s; rfl
@[simp] theorem wr_i2cs (i j : Nat) (v : W64) : (s.wr i j v).i2cs = s.i2cs := by cases s; rfl
@[simp] theorem wr_edges (i j : Nat) (v : W64) : (s.wr i j v).edges = s.edges := by cases s; rfl
@[simp] theorem wr_audio (i j : Nat) (v : W64) : (s.wr i j v).audio = s.audio := by cases s; rfl
@[simp] theorem wr_power (i j : Nat) (v : W64) : (s.wr i j v).power = s.power := by cases s; rfl
@[simp] theorem wr_sec (i j : Nat) (v : W64) : (s.wr i j v).sec = s.sec := by cases s; rfl
@[simp] theorem wr_link (i j : Nat) (v : W64) : (s.wr i j v).link = s.link := by cases s; rfl
@[simp] theorem wr_cans (i j : Nat) (v : W64) : (s.wr i j v).cans = s.cans := by cases s; rfl
@[simp] theorem wr_tpdos (i j : Nat) (v : W64) : (s.wr i j v).tpdos = s.tpdos := by cases s; rfl
@[simp] theorem wr_rpdoWait (i j : Nat) (v : W64) : (s.wr i j v).rpdoWait = s.rpdoWait := by cases s; rfl
@[simp] theorem wr_hbArmed (i j : Nat) (v : W64) : (s.wr i j v).hbArmed = s.hbArmed := by cases s; rfl
@[simp] theorem wr_hbLost (i j : Nat) (v : W64) : (s.wr i j v).hbLost = s.hbLost := by cases s; rfl
@[simp] theorem wr_tap (i j : Nat) (v : W64) : (s.wr i j v).tap = s.tap := by cases s; rfl
@[simp] theorem wr_holds (i j : Nat) (v : W64) : (s.wr i j v).holds = s.holds := by cases s; rfl
@[simp] theorem wr_out (i j : Nat) (v : W64) : (s.wr i j v).out = s.out := by cases s; rfl
@[simp] theorem wr_pending (i j : Nat) (v : W64) : (s.wr i j v).pending = s.pending := by cases s; rfl

@[simp] theorem wrn_time (i j v : Nat) : (s.wrn i j v).time = s.time := by cases s; rfl
@[simp] theorem wrn_free (i j v : Nat) : (s.wrn i j v).free = s.free := by cases s; rfl
@[simp] theorem wrn_fuse (i j v : Nat) : (s.wrn i j v).fuse = s.fuse := by cases s; rfl
@[simp] theorem wrn_persist (i j v : Nat) : (s.wrn i j v).persist = s.persist := by cases s; rfl
@[simp] theorem wrn_dom (i j v : Nat) : (s.wrn i j v).dom = s.dom := by cases s; rfl
@[simp] theorem wrn_staged (i j v : Nat) : (s.wrn i j v).staged = s.staged := by cases s; rfl
@[simp] theorem wrn_stagedDom (i j v : Nat) : (s.wrn i j v).stagedDom = s.stagedDom := by cases s; rfl
@[simp] theorem wrn_snap (i j v : Nat) : (s.wrn i j v).snap = s.snap := by cases s; rfl
@[simp] theorem wrn_xfer (i j v : Nat) : (s.wrn i j v).xfer = s.xfer := by cases s; rfl
@[simp] theorem wrn_fabric (i j v : Nat) : (s.wrn i j v).fabric = s.fabric := by cases s; rfl
@[simp] theorem wrn_mem (i j v : Nat) : (s.wrn i j v).mem = s.mem := by cases s; rfl
@[simp] theorem wrn_parts (i j v : Nat) : (s.wrn i j v).parts = s.parts := by cases s; rfl
@[simp] theorem wrn_stats (i j v : Nat) : (s.wrn i j v).stats = s.stats := by cases s; rfl
@[simp] theorem wrn_streams (i j v : Nat) : (s.wrn i j v).streams = s.streams := by cases s; rfl
@[simp] theorem wrn_groups (i j v : Nat) : (s.wrn i j v).groups = s.groups := by cases s; rfl
@[simp] theorem wrn_tickets (i j v : Nat) : (s.wrn i j v).tickets = s.tickets := by cases s; rfl
@[simp] theorem wrn_tdm (i j v : Nat) : (s.wrn i j v).tdm = s.tdm := by cases s; rfl
@[simp] theorem wrn_seqs (i j v : Nat) : (s.wrn i j v).seqs = s.seqs := by cases s; rfl
@[simp] theorem wrn_pools (i j v : Nat) : (s.wrn i j v).pools = s.pools := by cases s; rfl
@[simp] theorem wrn_faults (i j v : Nat) : (s.wrn i j v).faults = s.faults := by cases s; rfl
@[simp] theorem wrn_bedrock (i j v : Nat) : (s.wrn i j v).bedrock = s.bedrock := by cases s; rfl
@[simp] theorem wrn_sensors (i j v : Nat) : (s.wrn i j v).sensors = s.sensors := by cases s; rfl
@[simp] theorem wrn_pipes (i j v : Nat) : (s.wrn i j v).pipes = s.pipes := by cases s; rfl
@[simp] theorem wrn_i2cs (i j v : Nat) : (s.wrn i j v).i2cs = s.i2cs := by cases s; rfl
@[simp] theorem wrn_edges (i j v : Nat) : (s.wrn i j v).edges = s.edges := by cases s; rfl
@[simp] theorem wrn_audio (i j v : Nat) : (s.wrn i j v).audio = s.audio := by cases s; rfl
@[simp] theorem wrn_power (i j v : Nat) : (s.wrn i j v).power = s.power := by cases s; rfl
@[simp] theorem wrn_sec (i j v : Nat) : (s.wrn i j v).sec = s.sec := by cases s; rfl
@[simp] theorem wrn_link (i j v : Nat) : (s.wrn i j v).link = s.link := by cases s; rfl
@[simp] theorem wrn_cans (i j v : Nat) : (s.wrn i j v).cans = s.cans := by cases s; rfl
@[simp] theorem wrn_tpdos (i j v : Nat) : (s.wrn i j v).tpdos = s.tpdos := by cases s; rfl
@[simp] theorem wrn_rpdoWait (i j v : Nat) : (s.wrn i j v).rpdoWait = s.rpdoWait := by cases s; rfl
@[simp] theorem wrn_hbArmed (i j v : Nat) : (s.wrn i j v).hbArmed = s.hbArmed := by cases s; rfl
@[simp] theorem wrn_hbLost (i j v : Nat) : (s.wrn i j v).hbLost = s.hbLost := by cases s; rfl
@[simp] theorem wrn_tap (i j v : Nat) : (s.wrn i j v).tap = s.tap := by cases s; rfl
@[simp] theorem wrn_holds (i j v : Nat) : (s.wrn i j v).holds = s.holds := by cases s; rfl
@[simp] theorem wrn_out (i j v : Nat) : (s.wrn i j v).out = s.out := by cases s; rfl
@[simp] theorem wrn_pending (i j v : Nat) : (s.wrn i j v).pending = s.pending := by cases s; rfl

@[simp] theorem bump32_time (i j n : Nat) : (s.bump32 i j n).time = s.time := by cases s; rfl
@[simp] theorem bump32_free (i j n : Nat) : (s.bump32 i j n).free = s.free := by cases s; rfl
@[simp] theorem bump32_fuse (i j n : Nat) : (s.bump32 i j n).fuse = s.fuse := by cases s; rfl
@[simp] theorem bump32_persist (i j n : Nat) : (s.bump32 i j n).persist = s.persist := by cases s; rfl
@[simp] theorem bump32_dom (i j n : Nat) : (s.bump32 i j n).dom = s.dom := by cases s; rfl
@[simp] theorem bump32_staged (i j n : Nat) : (s.bump32 i j n).staged = s.staged := by cases s; rfl
@[simp] theorem bump32_stagedDom (i j n : Nat) : (s.bump32 i j n).stagedDom = s.stagedDom := by cases s; rfl
@[simp] theorem bump32_snap (i j n : Nat) : (s.bump32 i j n).snap = s.snap := by cases s; rfl
@[simp] theorem bump32_xfer (i j n : Nat) : (s.bump32 i j n).xfer = s.xfer := by cases s; rfl
@[simp] theorem bump32_fabric (i j n : Nat) : (s.bump32 i j n).fabric = s.fabric := by cases s; rfl
@[simp] theorem bump32_mem (i j n : Nat) : (s.bump32 i j n).mem = s.mem := by cases s; rfl
@[simp] theorem bump32_parts (i j n : Nat) : (s.bump32 i j n).parts = s.parts := by cases s; rfl
@[simp] theorem bump32_stats (i j n : Nat) : (s.bump32 i j n).stats = s.stats := by cases s; rfl
@[simp] theorem bump32_streams (i j n : Nat) : (s.bump32 i j n).streams = s.streams := by cases s; rfl
@[simp] theorem bump32_groups (i j n : Nat) : (s.bump32 i j n).groups = s.groups := by cases s; rfl
@[simp] theorem bump32_tickets (i j n : Nat) : (s.bump32 i j n).tickets = s.tickets := by cases s; rfl
@[simp] theorem bump32_tdm (i j n : Nat) : (s.bump32 i j n).tdm = s.tdm := by cases s; rfl
@[simp] theorem bump32_seqs (i j n : Nat) : (s.bump32 i j n).seqs = s.seqs := by cases s; rfl
@[simp] theorem bump32_pools (i j n : Nat) : (s.bump32 i j n).pools = s.pools := by cases s; rfl
@[simp] theorem bump32_faults (i j n : Nat) : (s.bump32 i j n).faults = s.faults := by cases s; rfl
@[simp] theorem bump32_bedrock (i j n : Nat) : (s.bump32 i j n).bedrock = s.bedrock := by cases s; rfl
@[simp] theorem bump32_sensors (i j n : Nat) : (s.bump32 i j n).sensors = s.sensors := by cases s; rfl
@[simp] theorem bump32_pipes (i j n : Nat) : (s.bump32 i j n).pipes = s.pipes := by cases s; rfl
@[simp] theorem bump32_i2cs (i j n : Nat) : (s.bump32 i j n).i2cs = s.i2cs := by cases s; rfl
@[simp] theorem bump32_edges (i j n : Nat) : (s.bump32 i j n).edges = s.edges := by cases s; rfl
@[simp] theorem bump32_audio (i j n : Nat) : (s.bump32 i j n).audio = s.audio := by cases s; rfl
@[simp] theorem bump32_power (i j n : Nat) : (s.bump32 i j n).power = s.power := by cases s; rfl
@[simp] theorem bump32_sec (i j n : Nat) : (s.bump32 i j n).sec = s.sec := by cases s; rfl
@[simp] theorem bump32_link (i j n : Nat) : (s.bump32 i j n).link = s.link := by cases s; rfl
@[simp] theorem bump32_cans (i j n : Nat) : (s.bump32 i j n).cans = s.cans := by cases s; rfl
@[simp] theorem bump32_tpdos (i j n : Nat) : (s.bump32 i j n).tpdos = s.tpdos := by cases s; rfl
@[simp] theorem bump32_rpdoWait (i j n : Nat) : (s.bump32 i j n).rpdoWait = s.rpdoWait := by cases s; rfl
@[simp] theorem bump32_hbArmed (i j n : Nat) : (s.bump32 i j n).hbArmed = s.hbArmed := by cases s; rfl
@[simp] theorem bump32_hbLost (i j n : Nat) : (s.bump32 i j n).hbLost = s.hbLost := by cases s; rfl
@[simp] theorem bump32_tap (i j n : Nat) : (s.bump32 i j n).tap = s.tap := by cases s; rfl
@[simp] theorem bump32_holds (i j n : Nat) : (s.bump32 i j n).holds = s.holds := by cases s; rfl
@[simp] theorem bump32_out (i j n : Nat) : (s.bump32 i j n).out = s.out := by cases s; rfl
@[simp] theorem bump32_pending (i j n : Nat) : (s.bump32 i j n).pending = s.pending := by cases s; rfl

@[simp] theorem bump64_time (i j n : Nat) : (s.bump64 i j n).time = s.time := by cases s; rfl
@[simp] theorem bump64_free (i j n : Nat) : (s.bump64 i j n).free = s.free := by cases s; rfl
@[simp] theorem bump64_fuse (i j n : Nat) : (s.bump64 i j n).fuse = s.fuse := by cases s; rfl
@[simp] theorem bump64_persist (i j n : Nat) : (s.bump64 i j n).persist = s.persist := by cases s; rfl
@[simp] theorem bump64_dom (i j n : Nat) : (s.bump64 i j n).dom = s.dom := by cases s; rfl
@[simp] theorem bump64_staged (i j n : Nat) : (s.bump64 i j n).staged = s.staged := by cases s; rfl
@[simp] theorem bump64_stagedDom (i j n : Nat) : (s.bump64 i j n).stagedDom = s.stagedDom := by cases s; rfl
@[simp] theorem bump64_snap (i j n : Nat) : (s.bump64 i j n).snap = s.snap := by cases s; rfl
@[simp] theorem bump64_xfer (i j n : Nat) : (s.bump64 i j n).xfer = s.xfer := by cases s; rfl
@[simp] theorem bump64_fabric (i j n : Nat) : (s.bump64 i j n).fabric = s.fabric := by cases s; rfl
@[simp] theorem bump64_mem (i j n : Nat) : (s.bump64 i j n).mem = s.mem := by cases s; rfl
@[simp] theorem bump64_parts (i j n : Nat) : (s.bump64 i j n).parts = s.parts := by cases s; rfl
@[simp] theorem bump64_stats (i j n : Nat) : (s.bump64 i j n).stats = s.stats := by cases s; rfl
@[simp] theorem bump64_streams (i j n : Nat) : (s.bump64 i j n).streams = s.streams := by cases s; rfl
@[simp] theorem bump64_groups (i j n : Nat) : (s.bump64 i j n).groups = s.groups := by cases s; rfl
@[simp] theorem bump64_tickets (i j n : Nat) : (s.bump64 i j n).tickets = s.tickets := by cases s; rfl
@[simp] theorem bump64_tdm (i j n : Nat) : (s.bump64 i j n).tdm = s.tdm := by cases s; rfl
@[simp] theorem bump64_seqs (i j n : Nat) : (s.bump64 i j n).seqs = s.seqs := by cases s; rfl
@[simp] theorem bump64_pools (i j n : Nat) : (s.bump64 i j n).pools = s.pools := by cases s; rfl
@[simp] theorem bump64_faults (i j n : Nat) : (s.bump64 i j n).faults = s.faults := by cases s; rfl
@[simp] theorem bump64_bedrock (i j n : Nat) : (s.bump64 i j n).bedrock = s.bedrock := by cases s; rfl
@[simp] theorem bump64_sensors (i j n : Nat) : (s.bump64 i j n).sensors = s.sensors := by cases s; rfl
@[simp] theorem bump64_pipes (i j n : Nat) : (s.bump64 i j n).pipes = s.pipes := by cases s; rfl
@[simp] theorem bump64_i2cs (i j n : Nat) : (s.bump64 i j n).i2cs = s.i2cs := by cases s; rfl
@[simp] theorem bump64_edges (i j n : Nat) : (s.bump64 i j n).edges = s.edges := by cases s; rfl
@[simp] theorem bump64_audio (i j n : Nat) : (s.bump64 i j n).audio = s.audio := by cases s; rfl
@[simp] theorem bump64_power (i j n : Nat) : (s.bump64 i j n).power = s.power := by cases s; rfl
@[simp] theorem bump64_sec (i j n : Nat) : (s.bump64 i j n).sec = s.sec := by cases s; rfl
@[simp] theorem bump64_link (i j n : Nat) : (s.bump64 i j n).link = s.link := by cases s; rfl
@[simp] theorem bump64_cans (i j n : Nat) : (s.bump64 i j n).cans = s.cans := by cases s; rfl
@[simp] theorem bump64_tpdos (i j n : Nat) : (s.bump64 i j n).tpdos = s.tpdos := by cases s; rfl
@[simp] theorem bump64_rpdoWait (i j n : Nat) : (s.bump64 i j n).rpdoWait = s.rpdoWait := by cases s; rfl
@[simp] theorem bump64_hbArmed (i j n : Nat) : (s.bump64 i j n).hbArmed = s.hbArmed := by cases s; rfl
@[simp] theorem bump64_hbLost (i j n : Nat) : (s.bump64 i j n).hbLost = s.hbLost := by cases s; rfl
@[simp] theorem bump64_tap (i j n : Nat) : (s.bump64 i j n).tap = s.tap := by cases s; rfl
@[simp] theorem bump64_holds (i j n : Nat) : (s.bump64 i j n).holds = s.holds := by cases s; rfl
@[simp] theorem bump64_out (i j n : Nat) : (s.bump64 i j n).out = s.out := by cases s; rfl
@[simp] theorem bump64_pending (i j n : Nat) : (s.bump64 i j n).pending = s.pending := by cases s; rfl

@[simp] theorem raise_time (i b : Nat) : (s.raise i b).time = s.time := by cases s; rfl
@[simp] theorem raise_free (i b : Nat) : (s.raise i b).free = s.free := by cases s; rfl
@[simp] theorem raise_fuse (i b : Nat) : (s.raise i b).fuse = s.fuse := by cases s; rfl
@[simp] theorem raise_persist (i b : Nat) : (s.raise i b).persist = s.persist := by cases s; rfl
@[simp] theorem raise_dom (i b : Nat) : (s.raise i b).dom = s.dom := by cases s; rfl
@[simp] theorem raise_staged (i b : Nat) : (s.raise i b).staged = s.staged := by cases s; rfl
@[simp] theorem raise_stagedDom (i b : Nat) : (s.raise i b).stagedDom = s.stagedDom := by cases s; rfl
@[simp] theorem raise_snap (i b : Nat) : (s.raise i b).snap = s.snap := by cases s; rfl
@[simp] theorem raise_xfer (i b : Nat) : (s.raise i b).xfer = s.xfer := by cases s; rfl
@[simp] theorem raise_fabric (i b : Nat) : (s.raise i b).fabric = s.fabric := by cases s; rfl
@[simp] theorem raise_mem (i b : Nat) : (s.raise i b).mem = s.mem := by cases s; rfl
@[simp] theorem raise_parts (i b : Nat) : (s.raise i b).parts = s.parts := by cases s; rfl
@[simp] theorem raise_stats (i b : Nat) : (s.raise i b).stats = s.stats := by cases s; rfl
@[simp] theorem raise_streams (i b : Nat) : (s.raise i b).streams = s.streams := by cases s; rfl
@[simp] theorem raise_groups (i b : Nat) : (s.raise i b).groups = s.groups := by cases s; rfl
@[simp] theorem raise_tickets (i b : Nat) : (s.raise i b).tickets = s.tickets := by cases s; rfl
@[simp] theorem raise_tdm (i b : Nat) : (s.raise i b).tdm = s.tdm := by cases s; rfl
@[simp] theorem raise_seqs (i b : Nat) : (s.raise i b).seqs = s.seqs := by cases s; rfl
@[simp] theorem raise_pools (i b : Nat) : (s.raise i b).pools = s.pools := by cases s; rfl
@[simp] theorem raise_faults (i b : Nat) : (s.raise i b).faults = s.faults := by cases s; rfl
@[simp] theorem raise_bedrock (i b : Nat) : (s.raise i b).bedrock = s.bedrock := by cases s; rfl
@[simp] theorem raise_sensors (i b : Nat) : (s.raise i b).sensors = s.sensors := by cases s; rfl
@[simp] theorem raise_pipes (i b : Nat) : (s.raise i b).pipes = s.pipes := by cases s; rfl
@[simp] theorem raise_i2cs (i b : Nat) : (s.raise i b).i2cs = s.i2cs := by cases s; rfl
@[simp] theorem raise_edges (i b : Nat) : (s.raise i b).edges = s.edges := by cases s; rfl
@[simp] theorem raise_audio (i b : Nat) : (s.raise i b).audio = s.audio := by cases s; rfl
@[simp] theorem raise_power (i b : Nat) : (s.raise i b).power = s.power := by cases s; rfl
@[simp] theorem raise_sec (i b : Nat) : (s.raise i b).sec = s.sec := by cases s; rfl
@[simp] theorem raise_link (i b : Nat) : (s.raise i b).link = s.link := by cases s; rfl
@[simp] theorem raise_cans (i b : Nat) : (s.raise i b).cans = s.cans := by cases s; rfl
@[simp] theorem raise_tpdos (i b : Nat) : (s.raise i b).tpdos = s.tpdos := by cases s; rfl
@[simp] theorem raise_rpdoWait (i b : Nat) : (s.raise i b).rpdoWait = s.rpdoWait := by cases s; rfl
@[simp] theorem raise_hbArmed (i b : Nat) : (s.raise i b).hbArmed = s.hbArmed := by cases s; rfl
@[simp] theorem raise_hbLost (i b : Nat) : (s.raise i b).hbLost = s.hbLost := by cases s; rfl
@[simp] theorem raise_tap (i b : Nat) : (s.raise i b).tap = s.tap := by cases s; rfl
@[simp] theorem raise_holds (i b : Nat) : (s.raise i b).holds = s.holds := by cases s; rfl
@[simp] theorem raise_out (i b : Nat) : (s.raise i b).out = s.out := by cases s; rfl
@[simp] theorem raise_pending (i b : Nat) : (s.raise i b).pending = s.pending := by cases s; rfl

@[simp] theorem emit_time (o : Output) : (s.emit o).time = s.time := by cases s; rfl
@[simp] theorem emit_free (o : Output) : (s.emit o).free = s.free := by cases s; rfl
@[simp] theorem emit_fuse (o : Output) : (s.emit o).fuse = s.fuse := by cases s; rfl
@[simp] theorem emit_persist (o : Output) : (s.emit o).persist = s.persist := by cases s; rfl
@[simp] theorem emit_od (o : Output) : (s.emit o).od = s.od := by cases s; rfl
@[simp] theorem emit_dom (o : Output) : (s.emit o).dom = s.dom := by cases s; rfl
@[simp] theorem emit_staged (o : Output) : (s.emit o).staged = s.staged := by cases s; rfl
@[simp] theorem emit_stagedDom (o : Output) : (s.emit o).stagedDom = s.stagedDom := by cases s; rfl
@[simp] theorem emit_snap (o : Output) : (s.emit o).snap = s.snap := by cases s; rfl
@[simp] theorem emit_xfer (o : Output) : (s.emit o).xfer = s.xfer := by cases s; rfl
@[simp] theorem emit_fabric (o : Output) : (s.emit o).fabric = s.fabric := by cases s; rfl
@[simp] theorem emit_mem (o : Output) : (s.emit o).mem = s.mem := by cases s; rfl
@[simp] theorem emit_parts (o : Output) : (s.emit o).parts = s.parts := by cases s; rfl
@[simp] theorem emit_stats (o : Output) : (s.emit o).stats = s.stats := by cases s; rfl
@[simp] theorem emit_streams (o : Output) : (s.emit o).streams = s.streams := by cases s; rfl
@[simp] theorem emit_groups (o : Output) : (s.emit o).groups = s.groups := by cases s; rfl
@[simp] theorem emit_tickets (o : Output) : (s.emit o).tickets = s.tickets := by cases s; rfl
@[simp] theorem emit_tdm (o : Output) : (s.emit o).tdm = s.tdm := by cases s; rfl
@[simp] theorem emit_seqs (o : Output) : (s.emit o).seqs = s.seqs := by cases s; rfl
@[simp] theorem emit_pools (o : Output) : (s.emit o).pools = s.pools := by cases s; rfl
@[simp] theorem emit_faults (o : Output) : (s.emit o).faults = s.faults := by cases s; rfl
@[simp] theorem emit_bedrock (o : Output) : (s.emit o).bedrock = s.bedrock := by cases s; rfl
@[simp] theorem emit_sensors (o : Output) : (s.emit o).sensors = s.sensors := by cases s; rfl
@[simp] theorem emit_pipes (o : Output) : (s.emit o).pipes = s.pipes := by cases s; rfl
@[simp] theorem emit_i2cs (o : Output) : (s.emit o).i2cs = s.i2cs := by cases s; rfl
@[simp] theorem emit_edges (o : Output) : (s.emit o).edges = s.edges := by cases s; rfl
@[simp] theorem emit_audio (o : Output) : (s.emit o).audio = s.audio := by cases s; rfl
@[simp] theorem emit_power (o : Output) : (s.emit o).power = s.power := by cases s; rfl
@[simp] theorem emit_sec (o : Output) : (s.emit o).sec = s.sec := by cases s; rfl
@[simp] theorem emit_link (o : Output) : (s.emit o).link = s.link := by cases s; rfl
@[simp] theorem emit_cans (o : Output) : (s.emit o).cans = s.cans := by cases s; rfl
@[simp] theorem emit_tpdos (o : Output) : (s.emit o).tpdos = s.tpdos := by cases s; rfl
@[simp] theorem emit_rpdoWait (o : Output) : (s.emit o).rpdoWait = s.rpdoWait := by cases s; rfl
@[simp] theorem emit_hbArmed (o : Output) : (s.emit o).hbArmed = s.hbArmed := by cases s; rfl
@[simp] theorem emit_hbLost (o : Output) : (s.emit o).hbLost = s.hbLost := by cases s; rfl
@[simp] theorem emit_tap (o : Output) : (s.emit o).tap = s.tap := by cases s; rfl
@[simp] theorem emit_holds (o : Output) : (s.emit o).holds = s.holds := by cases s; rfl
@[simp] theorem emit_pending (o : Output) : (s.emit o).pending = s.pending := by cases s; rfl

@[simp] theorem toHost_time (a : Nat) (bs : List Byte) : (s.toHost a bs).time = s.time := by cases s; rfl
@[simp] theorem toHost_free (a : Nat) (bs : List Byte) : (s.toHost a bs).free = s.free := by cases s; rfl
@[simp] theorem toHost_fuse (a : Nat) (bs : List Byte) : (s.toHost a bs).fuse = s.fuse := by cases s; rfl
@[simp] theorem toHost_persist (a : Nat) (bs : List Byte) : (s.toHost a bs).persist = s.persist := by cases s; rfl
@[simp] theorem toHost_od (a : Nat) (bs : List Byte) : (s.toHost a bs).od = s.od := by cases s; rfl
@[simp] theorem toHost_dom (a : Nat) (bs : List Byte) : (s.toHost a bs).dom = s.dom := by cases s; rfl
@[simp] theorem toHost_staged (a : Nat) (bs : List Byte) : (s.toHost a bs).staged = s.staged := by cases s; rfl
@[simp] theorem toHost_stagedDom (a : Nat) (bs : List Byte) : (s.toHost a bs).stagedDom = s.stagedDom := by cases s; rfl
@[simp] theorem toHost_snap (a : Nat) (bs : List Byte) : (s.toHost a bs).snap = s.snap := by cases s; rfl
@[simp] theorem toHost_xfer (a : Nat) (bs : List Byte) : (s.toHost a bs).xfer = s.xfer := by cases s; rfl
@[simp] theorem toHost_fabric (a : Nat) (bs : List Byte) : (s.toHost a bs).fabric = s.fabric := by cases s; rfl
@[simp] theorem toHost_parts (a : Nat) (bs : List Byte) : (s.toHost a bs).parts = s.parts := by cases s; rfl
@[simp] theorem toHost_stats (a : Nat) (bs : List Byte) : (s.toHost a bs).stats = s.stats := by cases s; rfl
@[simp] theorem toHost_streams (a : Nat) (bs : List Byte) : (s.toHost a bs).streams = s.streams := by cases s; rfl
@[simp] theorem toHost_groups (a : Nat) (bs : List Byte) : (s.toHost a bs).groups = s.groups := by cases s; rfl
@[simp] theorem toHost_tickets (a : Nat) (bs : List Byte) : (s.toHost a bs).tickets = s.tickets := by cases s; rfl
@[simp] theorem toHost_tdm (a : Nat) (bs : List Byte) : (s.toHost a bs).tdm = s.tdm := by cases s; rfl
@[simp] theorem toHost_seqs (a : Nat) (bs : List Byte) : (s.toHost a bs).seqs = s.seqs := by cases s; rfl
@[simp] theorem toHost_pools (a : Nat) (bs : List Byte) : (s.toHost a bs).pools = s.pools := by cases s; rfl
@[simp] theorem toHost_faults (a : Nat) (bs : List Byte) : (s.toHost a bs).faults = s.faults := by cases s; rfl
@[simp] theorem toHost_bedrock (a : Nat) (bs : List Byte) : (s.toHost a bs).bedrock = s.bedrock := by cases s; rfl
@[simp] theorem toHost_sensors (a : Nat) (bs : List Byte) : (s.toHost a bs).sensors = s.sensors := by cases s; rfl
@[simp] theorem toHost_pipes (a : Nat) (bs : List Byte) : (s.toHost a bs).pipes = s.pipes := by cases s; rfl
@[simp] theorem toHost_i2cs (a : Nat) (bs : List Byte) : (s.toHost a bs).i2cs = s.i2cs := by cases s; rfl
@[simp] theorem toHost_edges (a : Nat) (bs : List Byte) : (s.toHost a bs).edges = s.edges := by cases s; rfl
@[simp] theorem toHost_audio (a : Nat) (bs : List Byte) : (s.toHost a bs).audio = s.audio := by cases s; rfl
@[simp] theorem toHost_power (a : Nat) (bs : List Byte) : (s.toHost a bs).power = s.power := by cases s; rfl
@[simp] theorem toHost_sec (a : Nat) (bs : List Byte) : (s.toHost a bs).sec = s.sec := by cases s; rfl
@[simp] theorem toHost_link (a : Nat) (bs : List Byte) : (s.toHost a bs).link = s.link := by cases s; rfl
@[simp] theorem toHost_cans (a : Nat) (bs : List Byte) : (s.toHost a bs).cans = s.cans := by cases s; rfl
@[simp] theorem toHost_tpdos (a : Nat) (bs : List Byte) : (s.toHost a bs).tpdos = s.tpdos := by cases s; rfl
@[simp] theorem toHost_rpdoWait (a : Nat) (bs : List Byte) : (s.toHost a bs).rpdoWait = s.rpdoWait := by cases s; rfl
@[simp] theorem toHost_hbArmed (a : Nat) (bs : List Byte) : (s.toHost a bs).hbArmed = s.hbArmed := by cases s; rfl
@[simp] theorem toHost_hbLost (a : Nat) (bs : List Byte) : (s.toHost a bs).hbLost = s.hbLost := by cases s; rfl
@[simp] theorem toHost_tap (a : Nat) (bs : List Byte) : (s.toHost a bs).tap = s.tap := by cases s; rfl
@[simp] theorem toHost_holds (a : Nat) (bs : List Byte) : (s.toHost a bs).holds = s.holds := by cases s; rfl
@[simp] theorem toHost_out (a : Nat) (bs : List Byte) : (s.toHost a bs).out = s.out := by cases s; rfl
@[simp] theorem toHost_pending (a : Nat) (bs : List Byte) : (s.toHost a bs).pending = s.pending := by cases s; rfl

@[simp] theorem setPart_time (p : Nat) (x : Part) : (s.setPart p x).time = s.time := by cases s; rfl
@[simp] theorem setPart_free (p : Nat) (x : Part) : (s.setPart p x).free = s.free := by cases s; rfl
@[simp] theorem setPart_fuse (p : Nat) (x : Part) : (s.setPart p x).fuse = s.fuse := by cases s; rfl
@[simp] theorem setPart_persist (p : Nat) (x : Part) : (s.setPart p x).persist = s.persist := by cases s; rfl
@[simp] theorem setPart_od (p : Nat) (x : Part) : (s.setPart p x).od = s.od := by cases s; rfl
@[simp] theorem setPart_dom (p : Nat) (x : Part) : (s.setPart p x).dom = s.dom := by cases s; rfl
@[simp] theorem setPart_staged (p : Nat) (x : Part) : (s.setPart p x).staged = s.staged := by cases s; rfl
@[simp] theorem setPart_stagedDom (p : Nat) (x : Part) : (s.setPart p x).stagedDom = s.stagedDom := by cases s; rfl
@[simp] theorem setPart_snap (p : Nat) (x : Part) : (s.setPart p x).snap = s.snap := by cases s; rfl
@[simp] theorem setPart_xfer (p : Nat) (x : Part) : (s.setPart p x).xfer = s.xfer := by cases s; rfl
@[simp] theorem setPart_fabric (p : Nat) (x : Part) : (s.setPart p x).fabric = s.fabric := by cases s; rfl
@[simp] theorem setPart_mem (p : Nat) (x : Part) : (s.setPart p x).mem = s.mem := by cases s; rfl
@[simp] theorem setPart_stats (p : Nat) (x : Part) : (s.setPart p x).stats = s.stats := by cases s; rfl
@[simp] theorem setPart_streams (p : Nat) (x : Part) : (s.setPart p x).streams = s.streams := by cases s; rfl
@[simp] theorem setPart_groups (p : Nat) (x : Part) : (s.setPart p x).groups = s.groups := by cases s; rfl
@[simp] theorem setPart_tickets (p : Nat) (x : Part) : (s.setPart p x).tickets = s.tickets := by cases s; rfl
@[simp] theorem setPart_tdm (p : Nat) (x : Part) : (s.setPart p x).tdm = s.tdm := by cases s; rfl
@[simp] theorem setPart_seqs (p : Nat) (x : Part) : (s.setPart p x).seqs = s.seqs := by cases s; rfl
@[simp] theorem setPart_pools (p : Nat) (x : Part) : (s.setPart p x).pools = s.pools := by cases s; rfl
@[simp] theorem setPart_faults (p : Nat) (x : Part) : (s.setPart p x).faults = s.faults := by cases s; rfl
@[simp] theorem setPart_bedrock (p : Nat) (x : Part) : (s.setPart p x).bedrock = s.bedrock := by cases s; rfl
@[simp] theorem setPart_sensors (p : Nat) (x : Part) : (s.setPart p x).sensors = s.sensors := by cases s; rfl
@[simp] theorem setPart_pipes (p : Nat) (x : Part) : (s.setPart p x).pipes = s.pipes := by cases s; rfl
@[simp] theorem setPart_i2cs (p : Nat) (x : Part) : (s.setPart p x).i2cs = s.i2cs := by cases s; rfl
@[simp] theorem setPart_edges (p : Nat) (x : Part) : (s.setPart p x).edges = s.edges := by cases s; rfl
@[simp] theorem setPart_audio (p : Nat) (x : Part) : (s.setPart p x).audio = s.audio := by cases s; rfl
@[simp] theorem setPart_power (p : Nat) (x : Part) : (s.setPart p x).power = s.power := by cases s; rfl
@[simp] theorem setPart_sec (p : Nat) (x : Part) : (s.setPart p x).sec = s.sec := by cases s; rfl
@[simp] theorem setPart_link (p : Nat) (x : Part) : (s.setPart p x).link = s.link := by cases s; rfl
@[simp] theorem setPart_cans (p : Nat) (x : Part) : (s.setPart p x).cans = s.cans := by cases s; rfl
@[simp] theorem setPart_tpdos (p : Nat) (x : Part) : (s.setPart p x).tpdos = s.tpdos := by cases s; rfl
@[simp] theorem setPart_rpdoWait (p : Nat) (x : Part) : (s.setPart p x).rpdoWait = s.rpdoWait := by cases s; rfl
@[simp] theorem setPart_hbArmed (p : Nat) (x : Part) : (s.setPart p x).hbArmed = s.hbArmed := by cases s; rfl
@[simp] theorem setPart_hbLost (p : Nat) (x : Part) : (s.setPart p x).hbLost = s.hbLost := by cases s; rfl
@[simp] theorem setPart_tap (p : Nat) (x : Part) : (s.setPart p x).tap = s.tap := by cases s; rfl
@[simp] theorem setPart_holds (p : Nat) (x : Part) : (s.setPart p x).holds = s.holds := by cases s; rfl
@[simp] theorem setPart_out (p : Nat) (x : Part) : (s.setPart p x).out = s.out := by cases s; rfl
@[simp] theorem setPart_pending (p : Nat) (x : Part) : (s.setPart p x).pending = s.pending := by cases s; rfl

@[simp] theorem updPart_time (p : Nat) (f : Part → Part) : (s.updPart p f).time = s.time := by cases s; rfl
@[simp] theorem updPart_free (p : Nat) (f : Part → Part) : (s.updPart p f).free = s.free := by cases s; rfl
@[simp] theorem updPart_fuse (p : Nat) (f : Part → Part) : (s.updPart p f).fuse = s.fuse := by cases s; rfl
@[simp] theorem updPart_persist (p : Nat) (f : Part → Part) : (s.updPart p f).persist = s.persist := by cases s; rfl
@[simp] theorem updPart_od (p : Nat) (f : Part → Part) : (s.updPart p f).od = s.od := by cases s; rfl
@[simp] theorem updPart_dom (p : Nat) (f : Part → Part) : (s.updPart p f).dom = s.dom := by cases s; rfl
@[simp] theorem updPart_staged (p : Nat) (f : Part → Part) : (s.updPart p f).staged = s.staged := by cases s; rfl
@[simp] theorem updPart_stagedDom (p : Nat) (f : Part → Part) : (s.updPart p f).stagedDom = s.stagedDom := by cases s; rfl
@[simp] theorem updPart_snap (p : Nat) (f : Part → Part) : (s.updPart p f).snap = s.snap := by cases s; rfl
@[simp] theorem updPart_xfer (p : Nat) (f : Part → Part) : (s.updPart p f).xfer = s.xfer := by cases s; rfl
@[simp] theorem updPart_fabric (p : Nat) (f : Part → Part) : (s.updPart p f).fabric = s.fabric := by cases s; rfl
@[simp] theorem updPart_mem (p : Nat) (f : Part → Part) : (s.updPart p f).mem = s.mem := by cases s; rfl
@[simp] theorem updPart_stats (p : Nat) (f : Part → Part) : (s.updPart p f).stats = s.stats := by cases s; rfl
@[simp] theorem updPart_streams (p : Nat) (f : Part → Part) : (s.updPart p f).streams = s.streams := by cases s; rfl
@[simp] theorem updPart_groups (p : Nat) (f : Part → Part) : (s.updPart p f).groups = s.groups := by cases s; rfl
@[simp] theorem updPart_tickets (p : Nat) (f : Part → Part) : (s.updPart p f).tickets = s.tickets := by cases s; rfl
@[simp] theorem updPart_tdm (p : Nat) (f : Part → Part) : (s.updPart p f).tdm = s.tdm := by cases s; rfl
@[simp] theorem updPart_seqs (p : Nat) (f : Part → Part) : (s.updPart p f).seqs = s.seqs := by cases s; rfl
@[simp] theorem updPart_pools (p : Nat) (f : Part → Part) : (s.updPart p f).pools = s.pools := by cases s; rfl
@[simp] theorem updPart_faults (p : Nat) (f : Part → Part) : (s.updPart p f).faults = s.faults := by cases s; rfl
@[simp] theorem updPart_bedrock (p : Nat) (f : Part → Part) : (s.updPart p f).bedrock = s.bedrock := by cases s; rfl
@[simp] theorem updPart_sensors (p : Nat) (f : Part → Part) : (s.updPart p f).sensors = s.sensors := by cases s; rfl
@[simp] theorem updPart_pipes (p : Nat) (f : Part → Part) : (s.updPart p f).pipes = s.pipes := by cases s; rfl
@[simp] theorem updPart_i2cs (p : Nat) (f : Part → Part) : (s.updPart p f).i2cs = s.i2cs := by cases s; rfl
@[simp] theorem updPart_edges (p : Nat) (f : Part → Part) : (s.updPart p f).edges = s.edges := by cases s; rfl
@[simp] theorem updPart_audio (p : Nat) (f : Part → Part) : (s.updPart p f).audio = s.audio := by cases s; rfl
@[simp] theorem updPart_power (p : Nat) (f : Part → Part) : (s.updPart p f).power = s.power := by cases s; rfl
@[simp] theorem updPart_sec (p : Nat) (f : Part → Part) : (s.updPart p f).sec = s.sec := by cases s; rfl
@[simp] theorem updPart_link (p : Nat) (f : Part → Part) : (s.updPart p f).link = s.link := by cases s; rfl
@[simp] theorem updPart_cans (p : Nat) (f : Part → Part) : (s.updPart p f).cans = s.cans := by cases s; rfl
@[simp] theorem updPart_tpdos (p : Nat) (f : Part → Part) : (s.updPart p f).tpdos = s.tpdos := by cases s; rfl
@[simp] theorem updPart_rpdoWait (p : Nat) (f : Part → Part) : (s.updPart p f).rpdoWait = s.rpdoWait := by cases s; rfl
@[simp] theorem updPart_hbArmed (p : Nat) (f : Part → Part) : (s.updPart p f).hbArmed = s.hbArmed := by cases s; rfl
@[simp] theorem updPart_hbLost (p : Nat) (f : Part → Part) : (s.updPart p f).hbLost = s.hbLost := by cases s; rfl
@[simp] theorem updPart_tap (p : Nat) (f : Part → Part) : (s.updPart p f).tap = s.tap := by cases s; rfl
@[simp] theorem updPart_holds (p : Nat) (f : Part → Part) : (s.updPart p f).holds = s.holds := by cases s; rfl
@[simp] theorem updPart_out (p : Nat) (f : Part → Part) : (s.updPart p f).out = s.out := by cases s; rfl
@[simp] theorem updPart_pending (p : Nat) (f : Part → Part) : (s.updPart p f).pending = s.pending := by cases s; rfl

@[simp] theorem setStream_time (n : Nat) (x : Stream) : (s.setStream n x).time = s.time := by cases s; rfl
@[simp] theorem setStream_free (n : Nat) (x : Stream) : (s.setStream n x).free = s.free := by cases s; rfl
@[simp] theorem setStream_fuse (n : Nat) (x : Stream) : (s.setStream n x).fuse = s.fuse := by cases s; rfl
@[simp] theorem setStream_persist (n : Nat) (x : Stream) : (s.setStream n x).persist = s.persist := by cases s; rfl
@[simp] theorem setStream_od (n : Nat) (x : Stream) : (s.setStream n x).od = s.od := by cases s; rfl
@[simp] theorem setStream_dom (n : Nat) (x : Stream) : (s.setStream n x).dom = s.dom := by cases s; rfl
@[simp] theorem setStream_staged (n : Nat) (x : Stream) : (s.setStream n x).staged = s.staged := by cases s; rfl
@[simp] theorem setStream_stagedDom (n : Nat) (x : Stream) : (s.setStream n x).stagedDom = s.stagedDom := by cases s; rfl
@[simp] theorem setStream_snap (n : Nat) (x : Stream) : (s.setStream n x).snap = s.snap := by cases s; rfl
@[simp] theorem setStream_xfer (n : Nat) (x : Stream) : (s.setStream n x).xfer = s.xfer := by cases s; rfl
@[simp] theorem setStream_fabric (n : Nat) (x : Stream) : (s.setStream n x).fabric = s.fabric := by cases s; rfl
@[simp] theorem setStream_mem (n : Nat) (x : Stream) : (s.setStream n x).mem = s.mem := by cases s; rfl
@[simp] theorem setStream_parts (n : Nat) (x : Stream) : (s.setStream n x).parts = s.parts := by cases s; rfl
@[simp] theorem setStream_stats (n : Nat) (x : Stream) : (s.setStream n x).stats = s.stats := by cases s; rfl
@[simp] theorem setStream_groups (n : Nat) (x : Stream) : (s.setStream n x).groups = s.groups := by cases s; rfl
@[simp] theorem setStream_tickets (n : Nat) (x : Stream) : (s.setStream n x).tickets = s.tickets := by cases s; rfl
@[simp] theorem setStream_tdm (n : Nat) (x : Stream) : (s.setStream n x).tdm = s.tdm := by cases s; rfl
@[simp] theorem setStream_seqs (n : Nat) (x : Stream) : (s.setStream n x).seqs = s.seqs := by cases s; rfl
@[simp] theorem setStream_pools (n : Nat) (x : Stream) : (s.setStream n x).pools = s.pools := by cases s; rfl
@[simp] theorem setStream_faults (n : Nat) (x : Stream) : (s.setStream n x).faults = s.faults := by cases s; rfl
@[simp] theorem setStream_bedrock (n : Nat) (x : Stream) : (s.setStream n x).bedrock = s.bedrock := by cases s; rfl
@[simp] theorem setStream_sensors (n : Nat) (x : Stream) : (s.setStream n x).sensors = s.sensors := by cases s; rfl
@[simp] theorem setStream_pipes (n : Nat) (x : Stream) : (s.setStream n x).pipes = s.pipes := by cases s; rfl
@[simp] theorem setStream_i2cs (n : Nat) (x : Stream) : (s.setStream n x).i2cs = s.i2cs := by cases s; rfl
@[simp] theorem setStream_edges (n : Nat) (x : Stream) : (s.setStream n x).edges = s.edges := by cases s; rfl
@[simp] theorem setStream_audio (n : Nat) (x : Stream) : (s.setStream n x).audio = s.audio := by cases s; rfl
@[simp] theorem setStream_power (n : Nat) (x : Stream) : (s.setStream n x).power = s.power := by cases s; rfl
@[simp] theorem setStream_sec (n : Nat) (x : Stream) : (s.setStream n x).sec = s.sec := by cases s; rfl
@[simp] theorem setStream_link (n : Nat) (x : Stream) : (s.setStream n x).link = s.link := by cases s; rfl
@[simp] theorem setStream_cans (n : Nat) (x : Stream) : (s.setStream n x).cans = s.cans := by cases s; rfl
@[simp] theorem setStream_tpdos (n : Nat) (x : Stream) : (s.setStream n x).tpdos = s.tpdos := by cases s; rfl
@[simp] theorem setStream_rpdoWait (n : Nat) (x : Stream) : (s.setStream n x).rpdoWait = s.rpdoWait := by cases s; rfl
@[simp] theorem setStream_hbArmed (n : Nat) (x : Stream) : (s.setStream n x).hbArmed = s.hbArmed := by cases s; rfl
@[simp] theorem setStream_hbLost (n : Nat) (x : Stream) : (s.setStream n x).hbLost = s.hbLost := by cases s; rfl
@[simp] theorem setStream_tap (n : Nat) (x : Stream) : (s.setStream n x).tap = s.tap := by cases s; rfl
@[simp] theorem setStream_holds (n : Nat) (x : Stream) : (s.setStream n x).holds = s.holds := by cases s; rfl
@[simp] theorem setStream_out (n : Nat) (x : Stream) : (s.setStream n x).out = s.out := by cases s; rfl
@[simp] theorem setStream_pending (n : Nat) (x : Stream) : (s.setStream n x).pending = s.pending := by cases s; rfl

@[simp] theorem updStream_time (n : Nat) (f : Stream → Stream) : (s.updStream n f).time = s.time := by cases s; rfl
@[simp] theorem updStream_free (n : Nat) (f : Stream → Stream) : (s.updStream n f).free = s.free := by cases s; rfl
@[simp] theorem updStream_fuse (n : Nat) (f : Stream → Stream) : (s.updStream n f).fuse = s.fuse := by cases s; rfl
@[simp] theorem updStream_persist (n : Nat) (f : Stream → Stream) : (s.updStream n f).persist = s.persist := by cases s; rfl
@[simp] theorem updStream_od (n : Nat) (f : Stream → Stream) : (s.updStream n f).od = s.od := by cases s; rfl
@[simp] theorem updStream_dom (n : Nat) (f : Stream → Stream) : (s.updStream n f).dom = s.dom := by cases s; rfl
@[simp] theorem updStream_staged (n : Nat) (f : Stream → Stream) : (s.updStream n f).staged = s.staged := by cases s; rfl
@[simp] theorem updStream_stagedDom (n : Nat) (f : Stream → Stream) : (s.updStream n f).stagedDom = s.stagedDom := by cases s; rfl
@[simp] theorem updStream_snap (n : Nat) (f : Stream → Stream) : (s.updStream n f).snap = s.snap := by cases s; rfl
@[simp] theorem updStream_xfer (n : Nat) (f : Stream → Stream) : (s.updStream n f).xfer = s.xfer := by cases s; rfl
@[simp] theorem updStream_fabric (n : Nat) (f : Stream → Stream) : (s.updStream n f).fabric = s.fabric := by cases s; rfl
@[simp] theorem updStream_mem (n : Nat) (f : Stream → Stream) : (s.updStream n f).mem = s.mem := by cases s; rfl
@[simp] theorem updStream_parts (n : Nat) (f : Stream → Stream) : (s.updStream n f).parts = s.parts := by cases s; rfl
@[simp] theorem updStream_stats (n : Nat) (f : Stream → Stream) : (s.updStream n f).stats = s.stats := by cases s; rfl
@[simp] theorem updStream_groups (n : Nat) (f : Stream → Stream) : (s.updStream n f).groups = s.groups := by cases s; rfl
@[simp] theorem updStream_tickets (n : Nat) (f : Stream → Stream) : (s.updStream n f).tickets = s.tickets := by cases s; rfl
@[simp] theorem updStream_tdm (n : Nat) (f : Stream → Stream) : (s.updStream n f).tdm = s.tdm := by cases s; rfl
@[simp] theorem updStream_seqs (n : Nat) (f : Stream → Stream) : (s.updStream n f).seqs = s.seqs := by cases s; rfl
@[simp] theorem updStream_pools (n : Nat) (f : Stream → Stream) : (s.updStream n f).pools = s.pools := by cases s; rfl
@[simp] theorem updStream_faults (n : Nat) (f : Stream → Stream) : (s.updStream n f).faults = s.faults := by cases s; rfl
@[simp] theorem updStream_bedrock (n : Nat) (f : Stream → Stream) : (s.updStream n f).bedrock = s.bedrock := by cases s; rfl
@[simp] theorem updStream_sensors (n : Nat) (f : Stream → Stream) : (s.updStream n f).sensors = s.sensors := by cases s; rfl
@[simp] theorem updStream_pipes (n : Nat) (f : Stream → Stream) : (s.updStream n f).pipes = s.pipes := by cases s; rfl
@[simp] theorem updStream_i2cs (n : Nat) (f : Stream → Stream) : (s.updStream n f).i2cs = s.i2cs := by cases s; rfl
@[simp] theorem updStream_edges (n : Nat) (f : Stream → Stream) : (s.updStream n f).edges = s.edges := by cases s; rfl
@[simp] theorem updStream_audio (n : Nat) (f : Stream → Stream) : (s.updStream n f).audio = s.audio := by cases s; rfl
@[simp] theorem updStream_power (n : Nat) (f : Stream → Stream) : (s.updStream n f).power = s.power := by cases s; rfl
@[simp] theorem updStream_sec (n : Nat) (f : Stream → Stream) : (s.updStream n f).sec = s.sec := by cases s; rfl
@[simp] theorem updStream_link (n : Nat) (f : Stream → Stream) : (s.updStream n f).link = s.link := by cases s; rfl
@[simp] theorem updStream_cans (n : Nat) (f : Stream → Stream) : (s.updStream n f).cans = s.cans := by cases s; rfl
@[simp] theorem updStream_tpdos (n : Nat) (f : Stream → Stream) : (s.updStream n f).tpdos = s.tpdos := by cases s; rfl
@[simp] theorem updStream_rpdoWait (n : Nat) (f : Stream → Stream) : (s.updStream n f).rpdoWait = s.rpdoWait := by cases s; rfl
@[simp] theorem updStream_hbArmed (n : Nat) (f : Stream → Stream) : (s.updStream n f).hbArmed = s.hbArmed := by cases s; rfl
@[simp] theorem updStream_hbLost (n : Nat) (f : Stream → Stream) : (s.updStream n f).hbLost = s.hbLost := by cases s; rfl
@[simp] theorem updStream_tap (n : Nat) (f : Stream → Stream) : (s.updStream n f).tap = s.tap := by cases s; rfl
@[simp] theorem updStream_holds (n : Nat) (f : Stream → Stream) : (s.updStream n f).holds = s.holds := by cases s; rfl
@[simp] theorem updStream_out (n : Nat) (f : Stream → Stream) : (s.updStream n f).out = s.out := by cases s; rfl
@[simp] theorem updStream_pending (n : Nat) (f : Stream → Stream) : (s.updStream n f).pending = s.pending := by cases s; rfl

@[simp] theorem updGroup_time (g : Nat) (f : Group → Group) : (s.updGroup g f).time = s.time := by cases s; rfl
@[simp] theorem updGroup_free (g : Nat) (f : Group → Group) : (s.updGroup g f).free = s.free := by cases s; rfl
@[simp] theorem updGroup_fuse (g : Nat) (f : Group → Group) : (s.updGroup g f).fuse = s.fuse := by cases s; rfl
@[simp] theorem updGroup_persist (g : Nat) (f : Group → Group) : (s.updGroup g f).persist = s.persist := by cases s; rfl
@[simp] theorem updGroup_od (g : Nat) (f : Group → Group) : (s.updGroup g f).od = s.od := by cases s; rfl
@[simp] theorem updGroup_dom (g : Nat) (f : Group → Group) : (s.updGroup g f).dom = s.dom := by cases s; rfl
@[simp] theorem updGroup_staged (g : Nat) (f : Group → Group) : (s.updGroup g f).staged = s.staged := by cases s; rfl
@[simp] theorem updGroup_stagedDom (g : Nat) (f : Group → Group) : (s.updGroup g f).stagedDom = s.stagedDom := by cases s; rfl
@[simp] theorem updGroup_snap (g : Nat) (f : Group → Group) : (s.updGroup g f).snap = s.snap := by cases s; rfl
@[simp] theorem updGroup_xfer (g : Nat) (f : Group → Group) : (s.updGroup g f).xfer = s.xfer := by cases s; rfl
@[simp] theorem updGroup_fabric (g : Nat) (f : Group → Group) : (s.updGroup g f).fabric = s.fabric := by cases s; rfl
@[simp] theorem updGroup_mem (g : Nat) (f : Group → Group) : (s.updGroup g f).mem = s.mem := by cases s; rfl
@[simp] theorem updGroup_parts (g : Nat) (f : Group → Group) : (s.updGroup g f).parts = s.parts := by cases s; rfl
@[simp] theorem updGroup_stats (g : Nat) (f : Group → Group) : (s.updGroup g f).stats = s.stats := by cases s; rfl
@[simp] theorem updGroup_streams (g : Nat) (f : Group → Group) : (s.updGroup g f).streams = s.streams := by cases s; rfl
@[simp] theorem updGroup_tickets (g : Nat) (f : Group → Group) : (s.updGroup g f).tickets = s.tickets := by cases s; rfl
@[simp] theorem updGroup_tdm (g : Nat) (f : Group → Group) : (s.updGroup g f).tdm = s.tdm := by cases s; rfl
@[simp] theorem updGroup_seqs (g : Nat) (f : Group → Group) : (s.updGroup g f).seqs = s.seqs := by cases s; rfl
@[simp] theorem updGroup_pools (g : Nat) (f : Group → Group) : (s.updGroup g f).pools = s.pools := by cases s; rfl
@[simp] theorem updGroup_faults (g : Nat) (f : Group → Group) : (s.updGroup g f).faults = s.faults := by cases s; rfl
@[simp] theorem updGroup_bedrock (g : Nat) (f : Group → Group) : (s.updGroup g f).bedrock = s.bedrock := by cases s; rfl
@[simp] theorem updGroup_sensors (g : Nat) (f : Group → Group) : (s.updGroup g f).sensors = s.sensors := by cases s; rfl
@[simp] theorem updGroup_pipes (g : Nat) (f : Group → Group) : (s.updGroup g f).pipes = s.pipes := by cases s; rfl
@[simp] theorem updGroup_i2cs (g : Nat) (f : Group → Group) : (s.updGroup g f).i2cs = s.i2cs := by cases s; rfl
@[simp] theorem updGroup_edges (g : Nat) (f : Group → Group) : (s.updGroup g f).edges = s.edges := by cases s; rfl
@[simp] theorem updGroup_audio (g : Nat) (f : Group → Group) : (s.updGroup g f).audio = s.audio := by cases s; rfl
@[simp] theorem updGroup_power (g : Nat) (f : Group → Group) : (s.updGroup g f).power = s.power := by cases s; rfl
@[simp] theorem updGroup_sec (g : Nat) (f : Group → Group) : (s.updGroup g f).sec = s.sec := by cases s; rfl
@[simp] theorem updGroup_link (g : Nat) (f : Group → Group) : (s.updGroup g f).link = s.link := by cases s; rfl
@[simp] theorem updGroup_cans (g : Nat) (f : Group → Group) : (s.updGroup g f).cans = s.cans := by cases s; rfl
@[simp] theorem updGroup_tpdos (g : Nat) (f : Group → Group) : (s.updGroup g f).tpdos = s.tpdos := by cases s; rfl
@[simp] theorem updGroup_rpdoWait (g : Nat) (f : Group → Group) : (s.updGroup g f).rpdoWait = s.rpdoWait := by cases s; rfl
@[simp] theorem updGroup_hbArmed (g : Nat) (f : Group → Group) : (s.updGroup g f).hbArmed = s.hbArmed := by cases s; rfl
@[simp] theorem updGroup_hbLost (g : Nat) (f : Group → Group) : (s.updGroup g f).hbLost = s.hbLost := by cases s; rfl
@[simp] theorem updGroup_tap (g : Nat) (f : Group → Group) : (s.updGroup g f).tap = s.tap := by cases s; rfl
@[simp] theorem updGroup_holds (g : Nat) (f : Group → Group) : (s.updGroup g f).holds = s.holds := by cases s; rfl
@[simp] theorem updGroup_out (g : Nat) (f : Group → Group) : (s.updGroup g f).out = s.out := by cases s; rfl
@[simp] theorem updGroup_pending (g : Nat) (f : Group → Group) : (s.updGroup g f).pending = s.pending := by cases s; rfl

@[simp] theorem setPipe_time (k : Nat) (x : Pipe) : (s.setPipe k x).time = s.time := by cases s; rfl
@[simp] theorem setPipe_free (k : Nat) (x : Pipe) : (s.setPipe k x).free = s.free := by cases s; rfl
@[simp] theorem setPipe_fuse (k : Nat) (x : Pipe) : (s.setPipe k x).fuse = s.fuse := by cases s; rfl
@[simp] theorem setPipe_persist (k : Nat) (x : Pipe) : (s.setPipe k x).persist = s.persist := by cases s; rfl
@[simp] theorem setPipe_od (k : Nat) (x : Pipe) : (s.setPipe k x).od = s.od := by cases s; rfl
@[simp] theorem setPipe_dom (k : Nat) (x : Pipe) : (s.setPipe k x).dom = s.dom := by cases s; rfl
@[simp] theorem setPipe_staged (k : Nat) (x : Pipe) : (s.setPipe k x).staged = s.staged := by cases s; rfl
@[simp] theorem setPipe_stagedDom (k : Nat) (x : Pipe) : (s.setPipe k x).stagedDom = s.stagedDom := by cases s; rfl
@[simp] theorem setPipe_snap (k : Nat) (x : Pipe) : (s.setPipe k x).snap = s.snap := by cases s; rfl
@[simp] theorem setPipe_xfer (k : Nat) (x : Pipe) : (s.setPipe k x).xfer = s.xfer := by cases s; rfl
@[simp] theorem setPipe_fabric (k : Nat) (x : Pipe) : (s.setPipe k x).fabric = s.fabric := by cases s; rfl
@[simp] theorem setPipe_mem (k : Nat) (x : Pipe) : (s.setPipe k x).mem = s.mem := by cases s; rfl
@[simp] theorem setPipe_parts (k : Nat) (x : Pipe) : (s.setPipe k x).parts = s.parts := by cases s; rfl
@[simp] theorem setPipe_stats (k : Nat) (x : Pipe) : (s.setPipe k x).stats = s.stats := by cases s; rfl
@[simp] theorem setPipe_streams (k : Nat) (x : Pipe) : (s.setPipe k x).streams = s.streams := by cases s; rfl
@[simp] theorem setPipe_groups (k : Nat) (x : Pipe) : (s.setPipe k x).groups = s.groups := by cases s; rfl
@[simp] theorem setPipe_tickets (k : Nat) (x : Pipe) : (s.setPipe k x).tickets = s.tickets := by cases s; rfl
@[simp] theorem setPipe_tdm (k : Nat) (x : Pipe) : (s.setPipe k x).tdm = s.tdm := by cases s; rfl
@[simp] theorem setPipe_seqs (k : Nat) (x : Pipe) : (s.setPipe k x).seqs = s.seqs := by cases s; rfl
@[simp] theorem setPipe_pools (k : Nat) (x : Pipe) : (s.setPipe k x).pools = s.pools := by cases s; rfl
@[simp] theorem setPipe_faults (k : Nat) (x : Pipe) : (s.setPipe k x).faults = s.faults := by cases s; rfl
@[simp] theorem setPipe_bedrock (k : Nat) (x : Pipe) : (s.setPipe k x).bedrock = s.bedrock := by cases s; rfl
@[simp] theorem setPipe_sensors (k : Nat) (x : Pipe) : (s.setPipe k x).sensors = s.sensors := by cases s; rfl
@[simp] theorem setPipe_i2cs (k : Nat) (x : Pipe) : (s.setPipe k x).i2cs = s.i2cs := by cases s; rfl
@[simp] theorem setPipe_edges (k : Nat) (x : Pipe) : (s.setPipe k x).edges = s.edges := by cases s; rfl
@[simp] theorem setPipe_audio (k : Nat) (x : Pipe) : (s.setPipe k x).audio = s.audio := by cases s; rfl
@[simp] theorem setPipe_power (k : Nat) (x : Pipe) : (s.setPipe k x).power = s.power := by cases s; rfl
@[simp] theorem setPipe_sec (k : Nat) (x : Pipe) : (s.setPipe k x).sec = s.sec := by cases s; rfl
@[simp] theorem setPipe_link (k : Nat) (x : Pipe) : (s.setPipe k x).link = s.link := by cases s; rfl
@[simp] theorem setPipe_cans (k : Nat) (x : Pipe) : (s.setPipe k x).cans = s.cans := by cases s; rfl
@[simp] theorem setPipe_tpdos (k : Nat) (x : Pipe) : (s.setPipe k x).tpdos = s.tpdos := by cases s; rfl
@[simp] theorem setPipe_rpdoWait (k : Nat) (x : Pipe) : (s.setPipe k x).rpdoWait = s.rpdoWait := by cases s; rfl
@[simp] theorem setPipe_hbArmed (k : Nat) (x : Pipe) : (s.setPipe k x).hbArmed = s.hbArmed := by cases s; rfl
@[simp] theorem setPipe_hbLost (k : Nat) (x : Pipe) : (s.setPipe k x).hbLost = s.hbLost := by cases s; rfl
@[simp] theorem setPipe_tap (k : Nat) (x : Pipe) : (s.setPipe k x).tap = s.tap := by cases s; rfl
@[simp] theorem setPipe_holds (k : Nat) (x : Pipe) : (s.setPipe k x).holds = s.holds := by cases s; rfl
@[simp] theorem setPipe_out (k : Nat) (x : Pipe) : (s.setPipe k x).out = s.out := by cases s; rfl
@[simp] theorem setPipe_pending (k : Nat) (x : Pipe) : (s.setPipe k x).pending = s.pending := by cases s; rfl

@[simp] theorem updPipe_time (k : Nat) (f : Pipe → Pipe) : (s.updPipe k f).time = s.time := by cases s; rfl
@[simp] theorem updPipe_free (k : Nat) (f : Pipe → Pipe) : (s.updPipe k f).free = s.free := by cases s; rfl
@[simp] theorem updPipe_fuse (k : Nat) (f : Pipe → Pipe) : (s.updPipe k f).fuse = s.fuse := by cases s; rfl
@[simp] theorem updPipe_persist (k : Nat) (f : Pipe → Pipe) : (s.updPipe k f).persist = s.persist := by cases s; rfl
@[simp] theorem updPipe_od (k : Nat) (f : Pipe → Pipe) : (s.updPipe k f).od = s.od := by cases s; rfl
@[simp] theorem updPipe_dom (k : Nat) (f : Pipe → Pipe) : (s.updPipe k f).dom = s.dom := by cases s; rfl
@[simp] theorem updPipe_staged (k : Nat) (f : Pipe → Pipe) : (s.updPipe k f).staged = s.staged := by cases s; rfl
@[simp] theorem updPipe_stagedDom (k : Nat) (f : Pipe → Pipe) : (s.updPipe k f).stagedDom = s.stagedDom := by cases s; rfl
@[simp] theorem updPipe_snap (k : Nat) (f : Pipe → Pipe) : (s.updPipe k f).snap = s.snap := by cases s; rfl
@[simp] theorem updPipe_xfer (k : Nat) (f : Pipe → Pipe) : (s.updPipe k f).xfer = s.xfer := by cases s; rfl
@[simp] theorem updPipe_fabric (k : Nat) (f : Pipe → Pipe) : (s.updPipe k f).fabric = s.fabric := by cases s; rfl
@[simp] theorem updPipe_mem (k : Nat) (f : Pipe → Pipe) : (s.updPipe k f).mem = s.mem := by cases s; rfl
@[simp] theorem updPipe_parts (k : Nat) (f : Pipe → Pipe) : (s.updPipe k f).parts = s.parts := by cases s; rfl
@[simp] theorem updPipe_stats (k : Nat) (f : Pipe → Pipe) : (s.updPipe k f).stats = s.stats := by cases s; rfl
@[simp] theorem updPipe_streams (k : Nat) (f : Pipe → Pipe) : (s.updPipe k f).streams = s.streams := by cases s; rfl
@[simp] theorem updPipe_groups (k : Nat) (f : Pipe → Pipe) : (s.updPipe k f).groups = s.groups := by cases s; rfl
@[simp] theorem updPipe_tickets (k : Nat) (f : Pipe → Pipe) : (s.updPipe k f).tickets = s.tickets := by cases s; rfl
@[simp] theorem updPipe_tdm (k : Nat) (f : Pipe → Pipe) : (s.updPipe k f).tdm = s.tdm := by cases s; rfl
@[simp] theorem updPipe_seqs (k : Nat) (f : Pipe → Pipe) : (s.updPipe k f).seqs = s.seqs := by cases s; rfl
@[simp] theorem updPipe_pools (k : Nat) (f : Pipe → Pipe) : (s.updPipe k f).pools = s.pools := by cases s; rfl
@[simp] theorem updPipe_faults (k : Nat) (f : Pipe → Pipe) : (s.updPipe k f).faults = s.faults := by cases s; rfl
@[simp] theorem updPipe_bedrock (k : Nat) (f : Pipe → Pipe) : (s.updPipe k f).bedrock = s.bedrock := by cases s; rfl
@[simp] theorem updPipe_sensors (k : Nat) (f : Pipe → Pipe) : (s.updPipe k f).sensors = s.sensors := by cases s; rfl
@[simp] theorem updPipe_i2cs (k : Nat) (f : Pipe → Pipe) : (s.updPipe k f).i2cs = s.i2cs := by cases s; rfl
@[simp] theorem updPipe_edges (k : Nat) (f : Pipe → Pipe) : (s.updPipe k f).edges = s.edges := by cases s; rfl
@[simp] theorem updPipe_audio (k : Nat) (f : Pipe → Pipe) : (s.updPipe k f).audio = s.audio := by cases s; rfl
@[simp] theorem updPipe_power (k : Nat) (f : Pipe → Pipe) : (s.updPipe k f).power = s.power := by cases s; rfl
@[simp] theorem updPipe_sec (k : Nat) (f : Pipe → Pipe) : (s.updPipe k f).sec = s.sec := by cases s; rfl
@[simp] theorem updPipe_link (k : Nat) (f : Pipe → Pipe) : (s.updPipe k f).link = s.link := by cases s; rfl
@[simp] theorem updPipe_cans (k : Nat) (f : Pipe → Pipe) : (s.updPipe k f).cans = s.cans := by cases s; rfl
@[simp] theorem updPipe_tpdos (k : Nat) (f : Pipe → Pipe) : (s.updPipe k f).tpdos = s.tpdos := by cases s; rfl
@[simp] theorem updPipe_rpdoWait (k : Nat) (f : Pipe → Pipe) : (s.updPipe k f).rpdoWait = s.rpdoWait := by cases s; rfl
@[simp] theorem updPipe_hbArmed (k : Nat) (f : Pipe → Pipe) : (s.updPipe k f).hbArmed = s.hbArmed := by cases s; rfl
@[simp] theorem updPipe_hbLost (k : Nat) (f : Pipe → Pipe) : (s.updPipe k f).hbLost = s.hbLost := by cases s; rfl
@[simp] theorem updPipe_tap (k : Nat) (f : Pipe → Pipe) : (s.updPipe k f).tap = s.tap := by cases s; rfl
@[simp] theorem updPipe_holds (k : Nat) (f : Pipe → Pipe) : (s.updPipe k f).holds = s.holds := by cases s; rfl
@[simp] theorem updPipe_out (k : Nat) (f : Pipe → Pipe) : (s.updPipe k f).out = s.out := by cases s; rfl
@[simp] theorem updPipe_pending (k : Nat) (f : Pipe → Pipe) : (s.updPipe k f).pending = s.pending := by cases s; rfl

@[simp] theorem setSeq_time (q : Nat) (x : Seq) : (s.setSeq q x).time = s.time := by cases s; rfl
@[simp] theorem setSeq_free (q : Nat) (x : Seq) : (s.setSeq q x).free = s.free := by cases s; rfl
@[simp] theorem setSeq_fuse (q : Nat) (x : Seq) : (s.setSeq q x).fuse = s.fuse := by cases s; rfl
@[simp] theorem setSeq_persist (q : Nat) (x : Seq) : (s.setSeq q x).persist = s.persist := by cases s; rfl
@[simp] theorem setSeq_od (q : Nat) (x : Seq) : (s.setSeq q x).od = s.od := by cases s; rfl
@[simp] theorem setSeq_dom (q : Nat) (x : Seq) : (s.setSeq q x).dom = s.dom := by cases s; rfl
@[simp] theorem setSeq_staged (q : Nat) (x : Seq) : (s.setSeq q x).staged = s.staged := by cases s; rfl
@[simp] theorem setSeq_stagedDom (q : Nat) (x : Seq) : (s.setSeq q x).stagedDom = s.stagedDom := by cases s; rfl
@[simp] theorem setSeq_snap (q : Nat) (x : Seq) : (s.setSeq q x).snap = s.snap := by cases s; rfl
@[simp] theorem setSeq_xfer (q : Nat) (x : Seq) : (s.setSeq q x).xfer = s.xfer := by cases s; rfl
@[simp] theorem setSeq_fabric (q : Nat) (x : Seq) : (s.setSeq q x).fabric = s.fabric := by cases s; rfl
@[simp] theorem setSeq_mem (q : Nat) (x : Seq) : (s.setSeq q x).mem = s.mem := by cases s; rfl
@[simp] theorem setSeq_parts (q : Nat) (x : Seq) : (s.setSeq q x).parts = s.parts := by cases s; rfl
@[simp] theorem setSeq_stats (q : Nat) (x : Seq) : (s.setSeq q x).stats = s.stats := by cases s; rfl
@[simp] theorem setSeq_streams (q : Nat) (x : Seq) : (s.setSeq q x).streams = s.streams := by cases s; rfl
@[simp] theorem setSeq_groups (q : Nat) (x : Seq) : (s.setSeq q x).groups = s.groups := by cases s; rfl
@[simp] theorem setSeq_tickets (q : Nat) (x : Seq) : (s.setSeq q x).tickets = s.tickets := by cases s; rfl
@[simp] theorem setSeq_tdm (q : Nat) (x : Seq) : (s.setSeq q x).tdm = s.tdm := by cases s; rfl
@[simp] theorem setSeq_pools (q : Nat) (x : Seq) : (s.setSeq q x).pools = s.pools := by cases s; rfl
@[simp] theorem setSeq_faults (q : Nat) (x : Seq) : (s.setSeq q x).faults = s.faults := by cases s; rfl
@[simp] theorem setSeq_bedrock (q : Nat) (x : Seq) : (s.setSeq q x).bedrock = s.bedrock := by cases s; rfl
@[simp] theorem setSeq_sensors (q : Nat) (x : Seq) : (s.setSeq q x).sensors = s.sensors := by cases s; rfl
@[simp] theorem setSeq_pipes (q : Nat) (x : Seq) : (s.setSeq q x).pipes = s.pipes := by cases s; rfl
@[simp] theorem setSeq_i2cs (q : Nat) (x : Seq) : (s.setSeq q x).i2cs = s.i2cs := by cases s; rfl
@[simp] theorem setSeq_edges (q : Nat) (x : Seq) : (s.setSeq q x).edges = s.edges := by cases s; rfl
@[simp] theorem setSeq_audio (q : Nat) (x : Seq) : (s.setSeq q x).audio = s.audio := by cases s; rfl
@[simp] theorem setSeq_power (q : Nat) (x : Seq) : (s.setSeq q x).power = s.power := by cases s; rfl
@[simp] theorem setSeq_sec (q : Nat) (x : Seq) : (s.setSeq q x).sec = s.sec := by cases s; rfl
@[simp] theorem setSeq_link (q : Nat) (x : Seq) : (s.setSeq q x).link = s.link := by cases s; rfl
@[simp] theorem setSeq_cans (q : Nat) (x : Seq) : (s.setSeq q x).cans = s.cans := by cases s; rfl
@[simp] theorem setSeq_tpdos (q : Nat) (x : Seq) : (s.setSeq q x).tpdos = s.tpdos := by cases s; rfl
@[simp] theorem setSeq_rpdoWait (q : Nat) (x : Seq) : (s.setSeq q x).rpdoWait = s.rpdoWait := by cases s; rfl
@[simp] theorem setSeq_hbArmed (q : Nat) (x : Seq) : (s.setSeq q x).hbArmed = s.hbArmed := by cases s; rfl
@[simp] theorem setSeq_hbLost (q : Nat) (x : Seq) : (s.setSeq q x).hbLost = s.hbLost := by cases s; rfl
@[simp] theorem setSeq_tap (q : Nat) (x : Seq) : (s.setSeq q x).tap = s.tap := by cases s; rfl
@[simp] theorem setSeq_holds (q : Nat) (x : Seq) : (s.setSeq q x).holds = s.holds := by cases s; rfl
@[simp] theorem setSeq_out (q : Nat) (x : Seq) : (s.setSeq q x).out = s.out := by cases s; rfl
@[simp] theorem setSeq_pending (q : Nat) (x : Seq) : (s.setSeq q x).pending = s.pending := by cases s; rfl

@[simp] theorem setPool_time (p : Nat) (x : Pool) : (s.setPool p x).time = s.time := by cases s; rfl
@[simp] theorem setPool_free (p : Nat) (x : Pool) : (s.setPool p x).free = s.free := by cases s; rfl
@[simp] theorem setPool_fuse (p : Nat) (x : Pool) : (s.setPool p x).fuse = s.fuse := by cases s; rfl
@[simp] theorem setPool_persist (p : Nat) (x : Pool) : (s.setPool p x).persist = s.persist := by cases s; rfl
@[simp] theorem setPool_od (p : Nat) (x : Pool) : (s.setPool p x).od = s.od := by cases s; rfl
@[simp] theorem setPool_dom (p : Nat) (x : Pool) : (s.setPool p x).dom = s.dom := by cases s; rfl
@[simp] theorem setPool_staged (p : Nat) (x : Pool) : (s.setPool p x).staged = s.staged := by cases s; rfl
@[simp] theorem setPool_stagedDom (p : Nat) (x : Pool) : (s.setPool p x).stagedDom = s.stagedDom := by cases s; rfl
@[simp] theorem setPool_snap (p : Nat) (x : Pool) : (s.setPool p x).snap = s.snap := by cases s; rfl
@[simp] theorem setPool_xfer (p : Nat) (x : Pool) : (s.setPool p x).xfer = s.xfer := by cases s; rfl
@[simp] theorem setPool_fabric (p : Nat) (x : Pool) : (s.setPool p x).fabric = s.fabric := by cases s; rfl
@[simp] theorem setPool_mem (p : Nat) (x : Pool) : (s.setPool p x).mem = s.mem := by cases s; rfl
@[simp] theorem setPool_parts (p : Nat) (x : Pool) : (s.setPool p x).parts = s.parts := by cases s; rfl
@[simp] theorem setPool_stats (p : Nat) (x : Pool) : (s.setPool p x).stats = s.stats := by cases s; rfl
@[simp] theorem setPool_streams (p : Nat) (x : Pool) : (s.setPool p x).streams = s.streams := by cases s; rfl
@[simp] theorem setPool_groups (p : Nat) (x : Pool) : (s.setPool p x).groups = s.groups := by cases s; rfl
@[simp] theorem setPool_tickets (p : Nat) (x : Pool) : (s.setPool p x).tickets = s.tickets := by cases s; rfl
@[simp] theorem setPool_tdm (p : Nat) (x : Pool) : (s.setPool p x).tdm = s.tdm := by cases s; rfl
@[simp] theorem setPool_seqs (p : Nat) (x : Pool) : (s.setPool p x).seqs = s.seqs := by cases s; rfl
@[simp] theorem setPool_faults (p : Nat) (x : Pool) : (s.setPool p x).faults = s.faults := by cases s; rfl
@[simp] theorem setPool_bedrock (p : Nat) (x : Pool) : (s.setPool p x).bedrock = s.bedrock := by cases s; rfl
@[simp] theorem setPool_sensors (p : Nat) (x : Pool) : (s.setPool p x).sensors = s.sensors := by cases s; rfl
@[simp] theorem setPool_pipes (p : Nat) (x : Pool) : (s.setPool p x).pipes = s.pipes := by cases s; rfl
@[simp] theorem setPool_i2cs (p : Nat) (x : Pool) : (s.setPool p x).i2cs = s.i2cs := by cases s; rfl
@[simp] theorem setPool_edges (p : Nat) (x : Pool) : (s.setPool p x).edges = s.edges := by cases s; rfl
@[simp] theorem setPool_audio (p : Nat) (x : Pool) : (s.setPool p x).audio = s.audio := by cases s; rfl
@[simp] theorem setPool_power (p : Nat) (x : Pool) : (s.setPool p x).power = s.power := by cases s; rfl
@[simp] theorem setPool_sec (p : Nat) (x : Pool) : (s.setPool p x).sec = s.sec := by cases s; rfl
@[simp] theorem setPool_link (p : Nat) (x : Pool) : (s.setPool p x).link = s.link := by cases s; rfl
@[simp] theorem setPool_cans (p : Nat) (x : Pool) : (s.setPool p x).cans = s.cans := by cases s; rfl
@[simp] theorem setPool_tpdos (p : Nat) (x : Pool) : (s.setPool p x).tpdos = s.tpdos := by cases s; rfl
@[simp] theorem setPool_rpdoWait (p : Nat) (x : Pool) : (s.setPool p x).rpdoWait = s.rpdoWait := by cases s; rfl
@[simp] theorem setPool_hbArmed (p : Nat) (x : Pool) : (s.setPool p x).hbArmed = s.hbArmed := by cases s; rfl
@[simp] theorem setPool_hbLost (p : Nat) (x : Pool) : (s.setPool p x).hbLost = s.hbLost := by cases s; rfl
@[simp] theorem setPool_tap (p : Nat) (x : Pool) : (s.setPool p x).tap = s.tap := by cases s; rfl
@[simp] theorem setPool_holds (p : Nat) (x : Pool) : (s.setPool p x).holds = s.holds := by cases s; rfl
@[simp] theorem setPool_out (p : Nat) (x : Pool) : (s.setPool p x).out = s.out := by cases s; rfl
@[simp] theorem setPool_pending (p : Nat) (x : Pool) : (s.setPool p x).pending = s.pending := by cases s; rfl

@[simp] theorem updCan_time (n : Nat) (f : Can → Can) : (s.updCan n f).time = s.time := by cases s; rfl
@[simp] theorem updCan_free (n : Nat) (f : Can → Can) : (s.updCan n f).free = s.free := by cases s; rfl
@[simp] theorem updCan_fuse (n : Nat) (f : Can → Can) : (s.updCan n f).fuse = s.fuse := by cases s; rfl
@[simp] theorem updCan_persist (n : Nat) (f : Can → Can) : (s.updCan n f).persist = s.persist := by cases s; rfl
@[simp] theorem updCan_od (n : Nat) (f : Can → Can) : (s.updCan n f).od = s.od := by cases s; rfl
@[simp] theorem updCan_dom (n : Nat) (f : Can → Can) : (s.updCan n f).dom = s.dom := by cases s; rfl
@[simp] theorem updCan_staged (n : Nat) (f : Can → Can) : (s.updCan n f).staged = s.staged := by cases s; rfl
@[simp] theorem updCan_stagedDom (n : Nat) (f : Can → Can) : (s.updCan n f).stagedDom = s.stagedDom := by cases s; rfl
@[simp] theorem updCan_snap (n : Nat) (f : Can → Can) : (s.updCan n f).snap = s.snap := by cases s; rfl
@[simp] theorem updCan_xfer (n : Nat) (f : Can → Can) : (s.updCan n f).xfer = s.xfer := by cases s; rfl
@[simp] theorem updCan_fabric (n : Nat) (f : Can → Can) : (s.updCan n f).fabric = s.fabric := by cases s; rfl
@[simp] theorem updCan_mem (n : Nat) (f : Can → Can) : (s.updCan n f).mem = s.mem := by cases s; rfl
@[simp] theorem updCan_parts (n : Nat) (f : Can → Can) : (s.updCan n f).parts = s.parts := by cases s; rfl
@[simp] theorem updCan_stats (n : Nat) (f : Can → Can) : (s.updCan n f).stats = s.stats := by cases s; rfl
@[simp] theorem updCan_streams (n : Nat) (f : Can → Can) : (s.updCan n f).streams = s.streams := by cases s; rfl
@[simp] theorem updCan_groups (n : Nat) (f : Can → Can) : (s.updCan n f).groups = s.groups := by cases s; rfl
@[simp] theorem updCan_tickets (n : Nat) (f : Can → Can) : (s.updCan n f).tickets = s.tickets := by cases s; rfl
@[simp] theorem updCan_tdm (n : Nat) (f : Can → Can) : (s.updCan n f).tdm = s.tdm := by cases s; rfl
@[simp] theorem updCan_seqs (n : Nat) (f : Can → Can) : (s.updCan n f).seqs = s.seqs := by cases s; rfl
@[simp] theorem updCan_pools (n : Nat) (f : Can → Can) : (s.updCan n f).pools = s.pools := by cases s; rfl
@[simp] theorem updCan_faults (n : Nat) (f : Can → Can) : (s.updCan n f).faults = s.faults := by cases s; rfl
@[simp] theorem updCan_bedrock (n : Nat) (f : Can → Can) : (s.updCan n f).bedrock = s.bedrock := by cases s; rfl
@[simp] theorem updCan_sensors (n : Nat) (f : Can → Can) : (s.updCan n f).sensors = s.sensors := by cases s; rfl
@[simp] theorem updCan_pipes (n : Nat) (f : Can → Can) : (s.updCan n f).pipes = s.pipes := by cases s; rfl
@[simp] theorem updCan_i2cs (n : Nat) (f : Can → Can) : (s.updCan n f).i2cs = s.i2cs := by cases s; rfl
@[simp] theorem updCan_edges (n : Nat) (f : Can → Can) : (s.updCan n f).edges = s.edges := by cases s; rfl
@[simp] theorem updCan_audio (n : Nat) (f : Can → Can) : (s.updCan n f).audio = s.audio := by cases s; rfl
@[simp] theorem updCan_power (n : Nat) (f : Can → Can) : (s.updCan n f).power = s.power := by cases s; rfl
@[simp] theorem updCan_sec (n : Nat) (f : Can → Can) : (s.updCan n f).sec = s.sec := by cases s; rfl
@[simp] theorem updCan_link (n : Nat) (f : Can → Can) : (s.updCan n f).link = s.link := by cases s; rfl
@[simp] theorem updCan_tpdos (n : Nat) (f : Can → Can) : (s.updCan n f).tpdos = s.tpdos := by cases s; rfl
@[simp] theorem updCan_rpdoWait (n : Nat) (f : Can → Can) : (s.updCan n f).rpdoWait = s.rpdoWait := by cases s; rfl
@[simp] theorem updCan_hbArmed (n : Nat) (f : Can → Can) : (s.updCan n f).hbArmed = s.hbArmed := by cases s; rfl
@[simp] theorem updCan_hbLost (n : Nat) (f : Can → Can) : (s.updCan n f).hbLost = s.hbLost := by cases s; rfl
@[simp] theorem updCan_tap (n : Nat) (f : Can → Can) : (s.updCan n f).tap = s.tap := by cases s; rfl
@[simp] theorem updCan_holds (n : Nat) (f : Can → Can) : (s.updCan n f).holds = s.holds := by cases s; rfl
@[simp] theorem updCan_out (n : Nat) (f : Can → Can) : (s.updCan n f).out = s.out := by cases s; rfl
@[simp] theorem updCan_pending (n : Nat) (f : Can → Can) : (s.updCan n f).pending = s.pending := by cases s; rfl

@[simp] theorem updFaults_time (f : Faults → Faults) : (s.updFaults f).time = s.time := by cases s; rfl
@[simp] theorem updFaults_free (f : Faults → Faults) : (s.updFaults f).free = s.free := by cases s; rfl
@[simp] theorem updFaults_fuse (f : Faults → Faults) : (s.updFaults f).fuse = s.fuse := by cases s; rfl
@[simp] theorem updFaults_persist (f : Faults → Faults) : (s.updFaults f).persist = s.persist := by cases s; rfl
@[simp] theorem updFaults_od (f : Faults → Faults) : (s.updFaults f).od = s.od := by cases s; rfl
@[simp] theorem updFaults_dom (f : Faults → Faults) : (s.updFaults f).dom = s.dom := by cases s; rfl
@[simp] theorem updFaults_staged (f : Faults → Faults) : (s.updFaults f).staged = s.staged := by cases s; rfl
@[simp] theorem updFaults_stagedDom (f : Faults → Faults) : (s.updFaults f).stagedDom = s.stagedDom := by cases s; rfl
@[simp] theorem updFaults_snap (f : Faults → Faults) : (s.updFaults f).snap = s.snap := by cases s; rfl
@[simp] theorem updFaults_xfer (f : Faults → Faults) : (s.updFaults f).xfer = s.xfer := by cases s; rfl
@[simp] theorem updFaults_fabric (f : Faults → Faults) : (s.updFaults f).fabric = s.fabric := by cases s; rfl
@[simp] theorem updFaults_mem (f : Faults → Faults) : (s.updFaults f).mem = s.mem := by cases s; rfl
@[simp] theorem updFaults_parts (f : Faults → Faults) : (s.updFaults f).parts = s.parts := by cases s; rfl
@[simp] theorem updFaults_stats (f : Faults → Faults) : (s.updFaults f).stats = s.stats := by cases s; rfl
@[simp] theorem updFaults_streams (f : Faults → Faults) : (s.updFaults f).streams = s.streams := by cases s; rfl
@[simp] theorem updFaults_groups (f : Faults → Faults) : (s.updFaults f).groups = s.groups := by cases s; rfl
@[simp] theorem updFaults_tickets (f : Faults → Faults) : (s.updFaults f).tickets = s.tickets := by cases s; rfl
@[simp] theorem updFaults_tdm (f : Faults → Faults) : (s.updFaults f).tdm = s.tdm := by cases s; rfl
@[simp] theorem updFaults_seqs (f : Faults → Faults) : (s.updFaults f).seqs = s.seqs := by cases s; rfl
@[simp] theorem updFaults_pools (f : Faults → Faults) : (s.updFaults f).pools = s.pools := by cases s; rfl
@[simp] theorem updFaults_bedrock (f : Faults → Faults) : (s.updFaults f).bedrock = s.bedrock := by cases s; rfl
@[simp] theorem updFaults_sensors (f : Faults → Faults) : (s.updFaults f).sensors = s.sensors := by cases s; rfl
@[simp] theorem updFaults_pipes (f : Faults → Faults) : (s.updFaults f).pipes = s.pipes := by cases s; rfl
@[simp] theorem updFaults_i2cs (f : Faults → Faults) : (s.updFaults f).i2cs = s.i2cs := by cases s; rfl
@[simp] theorem updFaults_edges (f : Faults → Faults) : (s.updFaults f).edges = s.edges := by cases s; rfl
@[simp] theorem updFaults_audio (f : Faults → Faults) : (s.updFaults f).audio = s.audio := by cases s; rfl
@[simp] theorem updFaults_power (f : Faults → Faults) : (s.updFaults f).power = s.power := by cases s; rfl
@[simp] theorem updFaults_sec (f : Faults → Faults) : (s.updFaults f).sec = s.sec := by cases s; rfl
@[simp] theorem updFaults_link (f : Faults → Faults) : (s.updFaults f).link = s.link := by cases s; rfl
@[simp] theorem updFaults_cans (f : Faults → Faults) : (s.updFaults f).cans = s.cans := by cases s; rfl
@[simp] theorem updFaults_tpdos (f : Faults → Faults) : (s.updFaults f).tpdos = s.tpdos := by cases s; rfl
@[simp] theorem updFaults_rpdoWait (f : Faults → Faults) : (s.updFaults f).rpdoWait = s.rpdoWait := by cases s; rfl
@[simp] theorem updFaults_hbArmed (f : Faults → Faults) : (s.updFaults f).hbArmed = s.hbArmed := by cases s; rfl
@[simp] theorem updFaults_hbLost (f : Faults → Faults) : (s.updFaults f).hbLost = s.hbLost := by cases s; rfl
@[simp] theorem updFaults_tap (f : Faults → Faults) : (s.updFaults f).tap = s.tap := by cases s; rfl
@[simp] theorem updFaults_holds (f : Faults → Faults) : (s.updFaults f).holds = s.holds := by cases s; rfl
@[simp] theorem updFaults_out (f : Faults → Faults) : (s.updFaults f).out = s.out := by cases s; rfl
@[simp] theorem updFaults_pending (f : Faults → Faults) : (s.updFaults f).pending = s.pending := by cases s; rfl

@[simp] theorem updPower_time (f : Power → Power) : (s.updPower f).time = s.time := by cases s; rfl
@[simp] theorem updPower_free (f : Power → Power) : (s.updPower f).free = s.free := by cases s; rfl
@[simp] theorem updPower_fuse (f : Power → Power) : (s.updPower f).fuse = s.fuse := by cases s; rfl
@[simp] theorem updPower_persist (f : Power → Power) : (s.updPower f).persist = s.persist := by cases s; rfl
@[simp] theorem updPower_od (f : Power → Power) : (s.updPower f).od = s.od := by cases s; rfl
@[simp] theorem updPower_dom (f : Power → Power) : (s.updPower f).dom = s.dom := by cases s; rfl
@[simp] theorem updPower_staged (f : Power → Power) : (s.updPower f).staged = s.staged := by cases s; rfl
@[simp] theorem updPower_stagedDom (f : Power → Power) : (s.updPower f).stagedDom = s.stagedDom := by cases s; rfl
@[simp] theorem updPower_snap (f : Power → Power) : (s.updPower f).snap = s.snap := by cases s; rfl
@[simp] theorem updPower_xfer (f : Power → Power) : (s.updPower f).xfer = s.xfer := by cases s; rfl
@[simp] theorem updPower_fabric (f : Power → Power) : (s.updPower f).fabric = s.fabric := by cases s; rfl
@[simp] theorem updPower_mem (f : Power → Power) : (s.updPower f).mem = s.mem := by cases s; rfl
@[simp] theorem updPower_parts (f : Power → Power) : (s.updPower f).parts = s.parts := by cases s; rfl
@[simp] theorem updPower_stats (f : Power → Power) : (s.updPower f).stats = s.stats := by cases s; rfl
@[simp] theorem updPower_streams (f : Power → Power) : (s.updPower f).streams = s.streams := by cases s; rfl
@[simp] theorem updPower_groups (f : Power → Power) : (s.updPower f).groups = s.groups := by cases s; rfl
@[simp] theorem updPower_tickets (f : Power → Power) : (s.updPower f).tickets = s.tickets := by cases s; rfl
@[simp] theorem updPower_tdm (f : Power → Power) : (s.updPower f).tdm = s.tdm := by cases s; rfl
@[simp] theorem updPower_seqs (f : Power → Power) : (s.updPower f).seqs = s.seqs := by cases s; rfl
@[simp] theorem updPower_pools (f : Power → Power) : (s.updPower f).pools = s.pools := by cases s; rfl
@[simp] theorem updPower_faults (f : Power → Power) : (s.updPower f).faults = s.faults := by cases s; rfl
@[simp] theorem updPower_bedrock (f : Power → Power) : (s.updPower f).bedrock = s.bedrock := by cases s; rfl
@[simp] theorem updPower_sensors (f : Power → Power) : (s.updPower f).sensors = s.sensors := by cases s; rfl
@[simp] theorem updPower_pipes (f : Power → Power) : (s.updPower f).pipes = s.pipes := by cases s; rfl
@[simp] theorem updPower_i2cs (f : Power → Power) : (s.updPower f).i2cs = s.i2cs := by cases s; rfl
@[simp] theorem updPower_edges (f : Power → Power) : (s.updPower f).edges = s.edges := by cases s; rfl
@[simp] theorem updPower_audio (f : Power → Power) : (s.updPower f).audio = s.audio := by cases s; rfl
@[simp] theorem updPower_sec (f : Power → Power) : (s.updPower f).sec = s.sec := by cases s; rfl
@[simp] theorem updPower_link (f : Power → Power) : (s.updPower f).link = s.link := by cases s; rfl
@[simp] theorem updPower_cans (f : Power → Power) : (s.updPower f).cans = s.cans := by cases s; rfl
@[simp] theorem updPower_tpdos (f : Power → Power) : (s.updPower f).tpdos = s.tpdos := by cases s; rfl
@[simp] theorem updPower_rpdoWait (f : Power → Power) : (s.updPower f).rpdoWait = s.rpdoWait := by cases s; rfl
@[simp] theorem updPower_hbArmed (f : Power → Power) : (s.updPower f).hbArmed = s.hbArmed := by cases s; rfl
@[simp] theorem updPower_hbLost (f : Power → Power) : (s.updPower f).hbLost = s.hbLost := by cases s; rfl
@[simp] theorem updPower_tap (f : Power → Power) : (s.updPower f).tap = s.tap := by cases s; rfl
@[simp] theorem updPower_holds (f : Power → Power) : (s.updPower f).holds = s.holds := by cases s; rfl
@[simp] theorem updPower_out (f : Power → Power) : (s.updPower f).out = s.out := by cases s; rfl
@[simp] theorem updPower_pending (f : Power → Power) : (s.updPower f).pending = s.pending := by cases s; rfl

@[simp] theorem updLink_time (f : Link → Link) : (s.updLink f).time = s.time := by cases s; rfl
@[simp] theorem updLink_free (f : Link → Link) : (s.updLink f).free = s.free := by cases s; rfl
@[simp] theorem updLink_fuse (f : Link → Link) : (s.updLink f).fuse = s.fuse := by cases s; rfl
@[simp] theorem updLink_persist (f : Link → Link) : (s.updLink f).persist = s.persist := by cases s; rfl
@[simp] theorem updLink_od (f : Link → Link) : (s.updLink f).od = s.od := by cases s; rfl
@[simp] theorem updLink_dom (f : Link → Link) : (s.updLink f).dom = s.dom := by cases s; rfl
@[simp] theorem updLink_staged (f : Link → Link) : (s.updLink f).staged = s.staged := by cases s; rfl
@[simp] theorem updLink_stagedDom (f : Link → Link) : (s.updLink f).stagedDom = s.stagedDom := by cases s; rfl
@[simp] theorem updLink_snap (f : Link → Link) : (s.updLink f).snap = s.snap := by cases s; rfl
@[simp] theorem updLink_xfer (f : Link → Link) : (s.updLink f).xfer = s.xfer := by cases s; rfl
@[simp] theorem updLink_fabric (f : Link → Link) : (s.updLink f).fabric = s.fabric := by cases s; rfl
@[simp] theorem updLink_mem (f : Link → Link) : (s.updLink f).mem = s.mem := by cases s; rfl
@[simp] theorem updLink_parts (f : Link → Link) : (s.updLink f).parts = s.parts := by cases s; rfl
@[simp] theorem updLink_stats (f : Link → Link) : (s.updLink f).stats = s.stats := by cases s; rfl
@[simp] theorem updLink_streams (f : Link → Link) : (s.updLink f).streams = s.streams := by cases s; rfl
@[simp] theorem updLink_groups (f : Link → Link) : (s.updLink f).groups = s.groups := by cases s; rfl
@[simp] theorem updLink_tickets (f : Link → Link) : (s.updLink f).tickets = s.tickets := by cases s; rfl
@[simp] theorem updLink_tdm (f : Link → Link) : (s.updLink f).tdm = s.tdm := by cases s; rfl
@[simp] theorem updLink_seqs (f : Link → Link) : (s.updLink f).seqs = s.seqs := by cases s; rfl
@[simp] theorem updLink_pools (f : Link → Link) : (s.updLink f).pools = s.pools := by cases s; rfl
@[simp] theorem updLink_faults (f : Link → Link) : (s.updLink f).faults = s.faults := by cases s; rfl
@[simp] theorem updLink_bedrock (f : Link → Link) : (s.updLink f).bedrock = s.bedrock := by cases s; rfl
@[simp] theorem updLink_sensors (f : Link → Link) : (s.updLink f).sensors = s.sensors := by cases s; rfl
@[simp] theorem updLink_pipes (f : Link → Link) : (s.updLink f).pipes = s.pipes := by cases s; rfl
@[simp] theorem updLink_i2cs (f : Link → Link) : (s.updLink f).i2cs = s.i2cs := by cases s; rfl
@[simp] theorem updLink_edges (f : Link → Link) : (s.updLink f).edges = s.edges := by cases s; rfl
@[simp] theorem updLink_audio (f : Link → Link) : (s.updLink f).audio = s.audio := by cases s; rfl
@[simp] theorem updLink_power (f : Link → Link) : (s.updLink f).power = s.power := by cases s; rfl
@[simp] theorem updLink_sec (f : Link → Link) : (s.updLink f).sec = s.sec := by cases s; rfl
@[simp] theorem updLink_cans (f : Link → Link) : (s.updLink f).cans = s.cans := by cases s; rfl
@[simp] theorem updLink_tpdos (f : Link → Link) : (s.updLink f).tpdos = s.tpdos := by cases s; rfl
@[simp] theorem updLink_rpdoWait (f : Link → Link) : (s.updLink f).rpdoWait = s.rpdoWait := by cases s; rfl
@[simp] theorem updLink_hbArmed (f : Link → Link) : (s.updLink f).hbArmed = s.hbArmed := by cases s; rfl
@[simp] theorem updLink_hbLost (f : Link → Link) : (s.updLink f).hbLost = s.hbLost := by cases s; rfl
@[simp] theorem updLink_tap (f : Link → Link) : (s.updLink f).tap = s.tap := by cases s; rfl
@[simp] theorem updLink_holds (f : Link → Link) : (s.updLink f).holds = s.holds := by cases s; rfl
@[simp] theorem updLink_out (f : Link → Link) : (s.updLink f).out = s.out := by cases s; rfl
@[simp] theorem updLink_pending (f : Link → Link) : (s.updLink f).pending = s.pending := by cases s; rfl

@[simp] theorem updMem_time (f : Mem → Mem) : (s.updMem f).time = s.time := by cases s; rfl
@[simp] theorem updMem_free (f : Mem → Mem) : (s.updMem f).free = s.free := by cases s; rfl
@[simp] theorem updMem_fuse (f : Mem → Mem) : (s.updMem f).fuse = s.fuse := by cases s; rfl
@[simp] theorem updMem_persist (f : Mem → Mem) : (s.updMem f).persist = s.persist := by cases s; rfl
@[simp] theorem updMem_od (f : Mem → Mem) : (s.updMem f).od = s.od := by cases s; rfl
@[simp] theorem updMem_dom (f : Mem → Mem) : (s.updMem f).dom = s.dom := by cases s; rfl
@[simp] theorem updMem_staged (f : Mem → Mem) : (s.updMem f).staged = s.staged := by cases s; rfl
@[simp] theorem updMem_stagedDom (f : Mem → Mem) : (s.updMem f).stagedDom = s.stagedDom := by cases s; rfl
@[simp] theorem updMem_snap (f : Mem → Mem) : (s.updMem f).snap = s.snap := by cases s; rfl
@[simp] theorem updMem_xfer (f : Mem → Mem) : (s.updMem f).xfer = s.xfer := by cases s; rfl
@[simp] theorem updMem_fabric (f : Mem → Mem) : (s.updMem f).fabric = s.fabric := by cases s; rfl
@[simp] theorem updMem_parts (f : Mem → Mem) : (s.updMem f).parts = s.parts := by cases s; rfl
@[simp] theorem updMem_stats (f : Mem → Mem) : (s.updMem f).stats = s.stats := by cases s; rfl
@[simp] theorem updMem_streams (f : Mem → Mem) : (s.updMem f).streams = s.streams := by cases s; rfl
@[simp] theorem updMem_groups (f : Mem → Mem) : (s.updMem f).groups = s.groups := by cases s; rfl
@[simp] theorem updMem_tickets (f : Mem → Mem) : (s.updMem f).tickets = s.tickets := by cases s; rfl
@[simp] theorem updMem_tdm (f : Mem → Mem) : (s.updMem f).tdm = s.tdm := by cases s; rfl
@[simp] theorem updMem_seqs (f : Mem → Mem) : (s.updMem f).seqs = s.seqs := by cases s; rfl
@[simp] theorem updMem_pools (f : Mem → Mem) : (s.updMem f).pools = s.pools := by cases s; rfl
@[simp] theorem updMem_faults (f : Mem → Mem) : (s.updMem f).faults = s.faults := by cases s; rfl
@[simp] theorem updMem_bedrock (f : Mem → Mem) : (s.updMem f).bedrock = s.bedrock := by cases s; rfl
@[simp] theorem updMem_sensors (f : Mem → Mem) : (s.updMem f).sensors = s.sensors := by cases s; rfl
@[simp] theorem updMem_pipes (f : Mem → Mem) : (s.updMem f).pipes = s.pipes := by cases s; rfl
@[simp] theorem updMem_i2cs (f : Mem → Mem) : (s.updMem f).i2cs = s.i2cs := by cases s; rfl
@[simp] theorem updMem_edges (f : Mem → Mem) : (s.updMem f).edges = s.edges := by cases s; rfl
@[simp] theorem updMem_audio (f : Mem → Mem) : (s.updMem f).audio = s.audio := by cases s; rfl
@[simp] theorem updMem_power (f : Mem → Mem) : (s.updMem f).power = s.power := by cases s; rfl
@[simp] theorem updMem_sec (f : Mem → Mem) : (s.updMem f).sec = s.sec := by cases s; rfl
@[simp] theorem updMem_link (f : Mem → Mem) : (s.updMem f).link = s.link := by cases s; rfl
@[simp] theorem updMem_cans (f : Mem → Mem) : (s.updMem f).cans = s.cans := by cases s; rfl
@[simp] theorem updMem_tpdos (f : Mem → Mem) : (s.updMem f).tpdos = s.tpdos := by cases s; rfl
@[simp] theorem updMem_rpdoWait (f : Mem → Mem) : (s.updMem f).rpdoWait = s.rpdoWait := by cases s; rfl
@[simp] theorem updMem_hbArmed (f : Mem → Mem) : (s.updMem f).hbArmed = s.hbArmed := by cases s; rfl
@[simp] theorem updMem_hbLost (f : Mem → Mem) : (s.updMem f).hbLost = s.hbLost := by cases s; rfl
@[simp] theorem updMem_tap (f : Mem → Mem) : (s.updMem f).tap = s.tap := by cases s; rfl
@[simp] theorem updMem_holds (f : Mem → Mem) : (s.updMem f).holds = s.holds := by cases s; rfl
@[simp] theorem updMem_out (f : Mem → Mem) : (s.updMem f).out = s.out := by cases s; rfl
@[simp] theorem updMem_pending (f : Mem → Mem) : (s.updMem f).pending = s.pending := by cases s; rfl

@[simp] theorem updAudio_time (f : Audio → Audio) : (s.updAudio f).time = s.time := by cases s; rfl
@[simp] theorem updAudio_free (f : Audio → Audio) : (s.updAudio f).free = s.free := by cases s; rfl
@[simp] theorem updAudio_fuse (f : Audio → Audio) : (s.updAudio f).fuse = s.fuse := by cases s; rfl
@[simp] theorem updAudio_persist (f : Audio → Audio) : (s.updAudio f).persist = s.persist := by cases s; rfl
@[simp] theorem updAudio_od (f : Audio → Audio) : (s.updAudio f).od = s.od := by cases s; rfl
@[simp] theorem updAudio_dom (f : Audio → Audio) : (s.updAudio f).dom = s.dom := by cases s; rfl
@[simp] theorem updAudio_staged (f : Audio → Audio) : (s.updAudio f).staged = s.staged := by cases s; rfl
@[simp] theorem updAudio_stagedDom (f : Audio → Audio) : (s.updAudio f).stagedDom = s.stagedDom := by cases s; rfl
@[simp] theorem updAudio_snap (f : Audio → Audio) : (s.updAudio f).snap = s.snap := by cases s; rfl
@[simp] theorem updAudio_xfer (f : Audio → Audio) : (s.updAudio f).xfer = s.xfer := by cases s; rfl
@[simp] theorem updAudio_fabric (f : Audio → Audio) : (s.updAudio f).fabric = s.fabric := by cases s; rfl
@[simp] theorem updAudio_mem (f : Audio → Audio) : (s.updAudio f).mem = s.mem := by cases s; rfl
@[simp] theorem updAudio_parts (f : Audio → Audio) : (s.updAudio f).parts = s.parts := by cases s; rfl
@[simp] theorem updAudio_stats (f : Audio → Audio) : (s.updAudio f).stats = s.stats := by cases s; rfl
@[simp] theorem updAudio_streams (f : Audio → Audio) : (s.updAudio f).streams = s.streams := by cases s; rfl
@[simp] theorem updAudio_groups (f : Audio → Audio) : (s.updAudio f).groups = s.groups := by cases s; rfl
@[simp] theorem updAudio_tickets (f : Audio → Audio) : (s.updAudio f).tickets = s.tickets := by cases s; rfl
@[simp] theorem updAudio_tdm (f : Audio → Audio) : (s.updAudio f).tdm = s.tdm := by cases s; rfl
@[simp] theorem updAudio_seqs (f : Audio → Audio) : (s.updAudio f).seqs = s.seqs := by cases s; rfl
@[simp] theorem updAudio_pools (f : Audio → Audio) : (s.updAudio f).pools = s.pools := by cases s; rfl
@[simp] theorem updAudio_faults (f : Audio → Audio) : (s.updAudio f).faults = s.faults := by cases s; rfl
@[simp] theorem updAudio_bedrock (f : Audio → Audio) : (s.updAudio f).bedrock = s.bedrock := by cases s; rfl
@[simp] theorem updAudio_sensors (f : Audio → Audio) : (s.updAudio f).sensors = s.sensors := by cases s; rfl
@[simp] theorem updAudio_pipes (f : Audio → Audio) : (s.updAudio f).pipes = s.pipes := by cases s; rfl
@[simp] theorem updAudio_i2cs (f : Audio → Audio) : (s.updAudio f).i2cs = s.i2cs := by cases s; rfl
@[simp] theorem updAudio_edges (f : Audio → Audio) : (s.updAudio f).edges = s.edges := by cases s; rfl
@[simp] theorem updAudio_power (f : Audio → Audio) : (s.updAudio f).power = s.power := by cases s; rfl
@[simp] theorem updAudio_sec (f : Audio → Audio) : (s.updAudio f).sec = s.sec := by cases s; rfl
@[simp] theorem updAudio_link (f : Audio → Audio) : (s.updAudio f).link = s.link := by cases s; rfl
@[simp] theorem updAudio_cans (f : Audio → Audio) : (s.updAudio f).cans = s.cans := by cases s; rfl
@[simp] theorem updAudio_tpdos (f : Audio → Audio) : (s.updAudio f).tpdos = s.tpdos := by cases s; rfl
@[simp] theorem updAudio_rpdoWait (f : Audio → Audio) : (s.updAudio f).rpdoWait = s.rpdoWait := by cases s; rfl
@[simp] theorem updAudio_hbArmed (f : Audio → Audio) : (s.updAudio f).hbArmed = s.hbArmed := by cases s; rfl
@[simp] theorem updAudio_hbLost (f : Audio → Audio) : (s.updAudio f).hbLost = s.hbLost := by cases s; rfl
@[simp] theorem updAudio_tap (f : Audio → Audio) : (s.updAudio f).tap = s.tap := by cases s; rfl
@[simp] theorem updAudio_holds (f : Audio → Audio) : (s.updAudio f).holds = s.holds := by cases s; rfl
@[simp] theorem updAudio_out (f : Audio → Audio) : (s.updAudio f).out = s.out := by cases s; rfl
@[simp] theorem updAudio_pending (f : Audio → Audio) : (s.updAudio f).pending = s.pending := by cases s; rfl

@[simp] theorem updFabric_time (f : Fabric → Fabric) : (s.updFabric f).time = s.time := by cases s; rfl
@[simp] theorem updFabric_free (f : Fabric → Fabric) : (s.updFabric f).free = s.free := by cases s; rfl
@[simp] theorem updFabric_fuse (f : Fabric → Fabric) : (s.updFabric f).fuse = s.fuse := by cases s; rfl
@[simp] theorem updFabric_persist (f : Fabric → Fabric) : (s.updFabric f).persist = s.persist := by cases s; rfl
@[simp] theorem updFabric_od (f : Fabric → Fabric) : (s.updFabric f).od = s.od := by cases s; rfl
@[simp] theorem updFabric_dom (f : Fabric → Fabric) : (s.updFabric f).dom = s.dom := by cases s; rfl
@[simp] theorem updFabric_staged (f : Fabric → Fabric) : (s.updFabric f).staged = s.staged := by cases s; rfl
@[simp] theorem updFabric_stagedDom (f : Fabric → Fabric) : (s.updFabric f).stagedDom = s.stagedDom := by cases s; rfl
@[simp] theorem updFabric_snap (f : Fabric → Fabric) : (s.updFabric f).snap = s.snap := by cases s; rfl
@[simp] theorem updFabric_xfer (f : Fabric → Fabric) : (s.updFabric f).xfer = s.xfer := by cases s; rfl
@[simp] theorem updFabric_mem (f : Fabric → Fabric) : (s.updFabric f).mem = s.mem := by cases s; rfl
@[simp] theorem updFabric_parts (f : Fabric → Fabric) : (s.updFabric f).parts = s.parts := by cases s; rfl
@[simp] theorem updFabric_stats (f : Fabric → Fabric) : (s.updFabric f).stats = s.stats := by cases s; rfl
@[simp] theorem updFabric_streams (f : Fabric → Fabric) : (s.updFabric f).streams = s.streams := by cases s; rfl
@[simp] theorem updFabric_groups (f : Fabric → Fabric) : (s.updFabric f).groups = s.groups := by cases s; rfl
@[simp] theorem updFabric_tickets (f : Fabric → Fabric) : (s.updFabric f).tickets = s.tickets := by cases s; rfl
@[simp] theorem updFabric_tdm (f : Fabric → Fabric) : (s.updFabric f).tdm = s.tdm := by cases s; rfl
@[simp] theorem updFabric_seqs (f : Fabric → Fabric) : (s.updFabric f).seqs = s.seqs := by cases s; rfl
@[simp] theorem updFabric_pools (f : Fabric → Fabric) : (s.updFabric f).pools = s.pools := by cases s; rfl
@[simp] theorem updFabric_faults (f : Fabric → Fabric) : (s.updFabric f).faults = s.faults := by cases s; rfl
@[simp] theorem updFabric_bedrock (f : Fabric → Fabric) : (s.updFabric f).bedrock = s.bedrock := by cases s; rfl
@[simp] theorem updFabric_sensors (f : Fabric → Fabric) : (s.updFabric f).sensors = s.sensors := by cases s; rfl
@[simp] theorem updFabric_pipes (f : Fabric → Fabric) : (s.updFabric f).pipes = s.pipes := by cases s; rfl
@[simp] theorem updFabric_i2cs (f : Fabric → Fabric) : (s.updFabric f).i2cs = s.i2cs := by cases s; rfl
@[simp] theorem updFabric_edges (f : Fabric → Fabric) : (s.updFabric f).edges = s.edges := by cases s; rfl
@[simp] theorem updFabric_audio (f : Fabric → Fabric) : (s.updFabric f).audio = s.audio := by cases s; rfl
@[simp] theorem updFabric_power (f : Fabric → Fabric) : (s.updFabric f).power = s.power := by cases s; rfl
@[simp] theorem updFabric_sec (f : Fabric → Fabric) : (s.updFabric f).sec = s.sec := by cases s; rfl
@[simp] theorem updFabric_link (f : Fabric → Fabric) : (s.updFabric f).link = s.link := by cases s; rfl
@[simp] theorem updFabric_cans (f : Fabric → Fabric) : (s.updFabric f).cans = s.cans := by cases s; rfl
@[simp] theorem updFabric_tpdos (f : Fabric → Fabric) : (s.updFabric f).tpdos = s.tpdos := by cases s; rfl
@[simp] theorem updFabric_rpdoWait (f : Fabric → Fabric) : (s.updFabric f).rpdoWait = s.rpdoWait := by cases s; rfl
@[simp] theorem updFabric_hbArmed (f : Fabric → Fabric) : (s.updFabric f).hbArmed = s.hbArmed := by cases s; rfl
@[simp] theorem updFabric_hbLost (f : Fabric → Fabric) : (s.updFabric f).hbLost = s.hbLost := by cases s; rfl
@[simp] theorem updFabric_tap (f : Fabric → Fabric) : (s.updFabric f).tap = s.tap := by cases s; rfl
@[simp] theorem updFabric_holds (f : Fabric → Fabric) : (s.updFabric f).holds = s.holds := by cases s; rfl
@[simp] theorem updFabric_out (f : Fabric → Fabric) : (s.updFabric f).out = s.out := by cases s; rfl
@[simp] theorem updFabric_pending (f : Fabric → Fabric) : (s.updFabric f).pending = s.pending := by cases s; rfl

@[simp] theorem updFaults_faults (f : Faults → Faults) : (s.updFaults f).faults = f s.faults := by cases s; rfl
@[simp] theorem updPower_power (f : Power → Power) : (s.updPower f).power = f s.power := by cases s; rfl
@[simp] theorem updLink_link (f : Link → Link) : (s.updLink f).link = f s.link := by cases s; rfl
@[simp] theorem updMem_mem (f : Mem → Mem) : (s.updMem f).mem = f s.mem := by cases s; rfl
@[simp] theorem updAudio_audio (f : Audio → Audio) : (s.updAudio f).audio = f s.audio := by cases s; rfl
@[simp] theorem updFabric_fabric (f : Fabric → Fabric) : (s.updFabric f).fabric = f s.fabric := by cases s; rfl
@[simp] theorem emit_out (o : Output) : (s.emit o).out = o :: s.out := by cases s; rfl

end Sys2Proof.Machine.State
end

