-- ==== Sys2Proof/Laws/Od.lean ====
section
/-! SUPPORT. Reading a dictionary entry back after the device has set it, or another one. -/

namespace Sys2Proof.Machine.State

variable (s : State)

theorem rd_congr {t s : State} (h : t.od = s.od) (i j : Nat) : t.rd i j = s.rd i j := by simp only [rd, rdI, h]

@[simp] theorem rdI_wrI_same (fn i j : Nat) (v : W64) : (s.wrI fn i j v).rdI fn i j = v := by
  simp only [rdI, wrI]; exact NMap.get_set_same _ _ _ _

theorem rdI_wrI_other {fn i j fn' i' j' : Nat} (v : W64) (h : odKey fn' i' j' ≠ odKey fn i j) :
    (s.wrI fn i j v).rdI fn' i' j' = s.rdI fn' i' j' := by
  simp only [rdI, wrI]; exact NMap.get_set_other _ _ _ h

@[simp] theorem rd_wr_same (i j : Nat) (v : W64) : (s.wr i j v).rd i j = v := rdI_wrI_same s 0 i j v

theorem rd_wr_other {i j i' j' : Nat} (v : W64) (h : odKey 0 i' j' ≠ odKey 0 i j) :
    (s.wr i j v).rd i' j' = s.rd i' j' := rdI_wrI_other s v h

/-- Entries of shared indices that differ in index or subindex have keys that differ. -/
theorem odKey_ne {i j i' j' : Nat} (hj : j < 256) (hj' : j' < 256) (h : i' ≠ i ∨ j' ≠ j) : odKey 0 i' j' ≠ odKey 0 i j := by
  simp only [odKey]; omega

@[simp] theorem rd_wrn_same (i j v : Nat) : (s.wrn i j v).rd i j = BitVec.ofNat 64 v := rd_wr_same s i j _

theorem rd_wrn_other {i j i' j' : Nat} (v : Nat) (h : odKey 0 i' j' ≠ odKey 0 i j) :
    (s.wrn i j v).rd i' j' = s.rd i' j' := rd_wr_other s _ h

theorem rdn_wrn_same (i j v : Nat) (h : v < 18446744073709551616) : (s.wrn i j v).rdn i j = v := by
  simp only [rdn, rd_wrn_same, BitVec.toNat_ofNat]; omega

theorem rdn_wrn_other {i j i' j' : Nat} (v : Nat) (h : odKey 0 i' j' ≠ odKey 0 i j) :
    (s.wrn i j v).rdn i' j' = s.rdn i' j' := by simp only [rdn, rd_wrn_other s v h]

/-- Reading any entry after the device has set one. -/
theorem rd_wr (i j i' j' : Nat) (v : W64) :
    (s.wr i j v).rd i' j' = if odKey 0 i' j' = odKey 0 i j then v else s.rd i' j' := by
  split
  · next h => simp only [rd, rdI, wr, wrI, h]; exact NMap.get_set_same _ _ _ _
  · next h => exact rd_wr_other s v h

theorem rd_wrn (i j v i' j' : Nat) :
    (s.wrn i j v).rd i' j' = if odKey 0 i' j' = odKey 0 i j then BitVec.ofNat 64 v else s.rd i' j' := rd_wr s i j i' j' _

theorem rd_bump32 (i j n i' j' : Nat) :
    (s.bump32 i j n).rd i' j' = if odKey 0 i' j' = odKey 0 i j then BitVec.ofNat 64 ((s.rdn i j + n) % 4294967296) else s.rd i' j' :=
  rd_wrn s i j _ i' j'

theorem rd_bump64 (i j n i' j' : Nat) :
    (s.bump64 i j n).rd i' j' = if odKey 0 i' j' = odKey 0 i j then s.rd i j + BitVec.ofNat 64 n else s.rd i' j' :=
  rd_wr s i j i' j' _

theorem rd_emit (o : Output) (i j : Nat) : (s.emit o).rd i j = s.rd i j := rfl

/-- A flag and its counter are all that raising a flag sets. -/
theorem rd_raise_other {i b i' j' : Nat} (h1 : odKey 0 i' j' ≠ odKey 0 i 1) (h2 : odKey 0 i' j' ≠ odKey 0 i (2 + b)) :
    (s.raise i b).rd i' j' = s.rd i' j' := by
  simp only [raise, bump32]; rw [rd_wrn_other _ _ h2, rd_wr_other _ _ h1]

/-- The flag that the device raises reads 1. -/
theorem rd_raise_flag (i b : Nat) (h : b < 64) : (s.raise i b).rd i 1 = s.rd i 1 ||| BitVec.ofNat 64 (2 ^ b) := by
  simp only [raise, bump32]
  rw [rd_wrn_other _ _ (by simp only [odKey]; omega), rd_wr_same]

/-- Raising a flag counts the event. -/
theorem rdn_raise_count (i b : Nat) (h : b < 64) : (s.raise i b).rdn i (2 + b) = (s.rdn i (2 + b) + 1) % 4294967296 := by
  simp only [raise, bump32]
  rw [rdn_wrn_same _ _ _ _ (by omega)]
  have : (s.wr i 1 (s.rd i 1 ||| BitVec.ofNat 64 (2 ^ b))).rdn i (2 + b) = s.rdn i (2 + b) := by
    simp only [rdn]; rw [rd_wr_other]; simp only [odKey]; omega
  rw [this]

/-- Reading any entry after a flag was raised. -/
theorem rd_raise (i b i' j' : Nat) (hb : b < 64) :
    (s.raise i b).rd i' j' = if odKey 0 i' j' = odKey 0 i 1 then s.rd i 1 ||| BitVec.ofNat 64 (2 ^ b)
      else if odKey 0 i' j' = odKey 0 i (2 + b) then BitVec.ofNat 64 ((s.rdn i (2 + b) + 1) % 4294967296) else s.rd i' j' := by
  have h0 : odKey 0 i 1 ≠ odKey 0 i (2 + b) := by simp only [odKey]; omega
  have h1 : (s.wr i 1 (s.rd i 1 ||| BitVec.ofNat 64 (2 ^ b))).rdn i (2 + b) = s.rdn i (2 + b) := by
    simp only [rdn]; rw [rd_wr_other _ _ h0.symm]
  simp only [raise]
  rw [rd_bump32, h1]
  split
  · next h => rw [if_neg (fun hh => h0 (hh.symm.trans h))]
  · rw [rd_wr]

end Sys2Proof.Machine.State
end

