-- ==== Sys2Proof/Laws/Dictionary.lean ====
section
/-! SUPPORT. What EMCY messages and stored writes leave. -/

namespace Sys2Proof.Machine

theorem mem_insertNat {k n : Nat} {l : List Nat} : k ∈ insertNat n l ↔ k = n ∨ k ∈ l := by
  induction l with
  | nil => simp [insertNat]
  | cons m ms ih =>
    unfold insertNat
    split
    · simp
    · split
      · next h => subst h; simp
      · simp [ih, or_left_comm]

/-- The class of the flag entry of the dictionary is not rwp. -/
theorem Od.isRwp_ne {i j : Nat} (h : Od.isRwp i j = true) : i ≠ 0xF002 := by
  intro hi; subst hi
  simp only [Od.isRwp, Od.lookup, Option.any] at h
  have hp : ∀ r ∈ Od.page (0xF002/256), r.lo ≤ 0xF002 → 0xF002 ≤ r.hi → r.acc ≠ .rwp := by decide +kernel
  split at h
  · next r hr =>
    split at hr
    · next r' hf =>
      have h1 := List.mem_of_find?_eq_some hf
      have h2 := List.find?_some hf
      simp only [Bool.and_eq_true, decide_eq_true_eq] at h2
      cases hr
      simp at h; exact hp _ h1 h2.1.1.1 h2.1.1.2 h
    · split at hr
      · split at hr
        · cases hr
        · cases hr; simp at h
      · cases hr
  · cases h

namespace State

/-- Two states that differ at most in the CAN controllers and the outputs. -/
abbrev SameButCan (t s : State) : Prop := { t with cans := s.cans, out := s.out } = s

theorem sameButCan_refl (s : State) : SameButCan s s := by cases s; rfl

theorem sameButCan_trans {u t s : State} (h1 : SameButCan u t) (h2 : SameButCan t s) : SameButCan u s := by
  cases u; cases t; cases s
  simp only [SameButCan, State.mk.injEq] at h1 h2 ⊢
  simp_all

theorem emit_sameButCan (s : State) (o : Output) : SameButCan (s.emit o) s := by cases s; rfl
theorem updCan_sameButCan (s : State) (n : Nat) (f : Can → Can) : SameButCan (s.updCan n f) s := by cases s; rfl

theorem canSend_sameButCan (s : State) (n cob : Nat) (d : List Byte) : SameButCan (s.canSend n cob d) s := by
  unfold canSend; split
  · exact emit_sameButCan ..
  · exact sameButCan_refl s

/-- An EMCY message on a controller changes that controller and the outputs alone. -/
theorem emcyOn_sameButCan (s : State) (n : Nat) (m : W16 × Byte × BitVec 40) : SameButCan (s.emcyOn n m) s := by
  unfold emcyOn
  simp only []
  repeat' split
  all_goals first
    | exact sameButCan_refl s
    | exact updCan_sameButCan ..
    | exact canSend_sameButCan ..

/-- Error code 0 is sent without entering `1003`. -/
theorem emcyIfClear_sameButCan (b s : State) : SameButCan (emcyIfClear b s) s := by
  unfold emcyIfClear emcy
  split
  · exact sameButCan_trans (emcyOn_sameButCan ..) (emcyOn_sameButCan ..)
  · exact sameButCan_refl s

theorem sameButCan_od {t s : State} (h : SameButCan t s) : t.od = s.od := by
  have := congrArg State.od h; exact this

theorem sameButCan_fields {t s : State} (h : SameButCan t s) :
    t.od = s.od ∧ t.persist = s.persist ∧ t.mem = s.mem ∧ t.staged = s.staged ∧ t.parts = s.parts := by
  rw [← h]; simp

/-- What follows a stored write changes nothing of the dictionary and of the store. -/
theorem rwpEffect_fields (s : State) (i j : Nat) :
    (s.rwpEffect i j).od = s.od ∧ (s.rwpEffect i j).persist = s.persist ∧ (s.rwpEffect i j).mem = s.mem ∧
    (s.rwpEffect i j).staged = s.staged ∧ (s.rwpEffect i j).parts = s.parts := by
  unfold rwpEffect rearm
  split
  · have h := sameButCan_fields (emcyIfClear_sameButCan s
      { s with hbArmed := s.hbArmed.filter fun x => x.1 ≠ j - 1, hbLost := s.hbLost.filter (· ≠ j - 1) })
    exact h
  · split <;> simp



/-- The state of a stored write before what follows it. -/
theorem storeRwp_eq (s : State) (i j : Nat) (v : W64) (h : s.rd i j ≠ v) : ∃ u : State, s.storeRwp i j v = u.rwpEffect i j ∧
    u.od = (if 1000000 ≤ NMap.get (fun _ => 0) s.persist.writes (odKey 0 i j) + 1 then (s.wr i j v).raise 0xF002 3 else s.wr i j v).od ∧
    u.persist.writes = NMap.set (fun _ => 0) s.persist.writes (odKey 0 i j) (NMap.get (fun _ => 0) s.persist.writes (odKey 0 i j) + 1) ∧
    u.persist.locked = (if 1000000 ≤ NMap.get (fun _ => 0) s.persist.writes (odKey 0 i j) + 1 then
      insertNat (odKey 0 i j) s.persist.locked else s.persist.locked) ∧
    u.mem = s.mem ∧ u.staged = s.staged ∧ u.parts = s.parts := by
  unfold storeRwp
  simp only [h, if_false]
  refine ⟨_, rfl, ?_⟩
  split <;> simp [raise, bump32, wrn, wr, wrI, rdn, rd, rdI]

/-- A stored write: its value, its count, its lock, and what it leaves alone. -/
theorem storeRwp_facts (s : State) (i j : Nat) (v : W64) (h : s.rd i j ≠ v) (hi : i ≠ 0xF002) (hj : j < 256) :
    (s.storeRwp i j v).rd i j = v ∧
    NMap.get (fun _ => 0) (s.storeRwp i j v).persist.writes (odKey 0 i j) = NMap.get (fun _ => 0) s.persist.writes (odKey 0 i j) + 1 ∧
    (s.storeRwp i j v).persist.locked = (if 1000000 ≤ NMap.get (fun _ => 0) s.persist.writes (odKey 0 i j) + 1 then
      insertNat (odKey 0 i j) s.persist.locked else s.persist.locked) ∧
    (1000000 ≤ NMap.get (fun _ => 0) s.persist.writes (odKey 0 i j) + 1 → (s.storeRwp i j v).rd 0xF002 1 = s.rd 0xF002 1 ||| 8) ∧
    (∀ i' j', odKey 0 i' j' ≠ odKey 0 i j → odKey 0 i' j' ≠ odKey 0 0xF002 1 → odKey 0 i' j' ≠ odKey 0 0xF002 5 →
      (s.storeRwp i j v).rd i' j' = s.rd i' j') ∧
    (s.storeRwp i j v).mem = s.mem ∧ (s.storeRwp i j v).staged = s.staged ∧ (s.storeRwp i j v).parts = s.parts := by
  obtain ⟨u, hu, ho, hw, hl, hm, hs, hp⟩ := storeRwp_eq s i j v h
  obtain ⟨g1, g2, g3, g4, g5⟩ := rwpEffect_fields u i j
  rw [hu, g2, g3, g4, g5, hw, hl, NMap.get_set_same]
  have key1 : odKey 0 i j ≠ odKey 0 0xF002 1 := odKey_ne (by decide) hj (Or.inl hi)
  have key2 : odKey 0 i j ≠ odKey 0 0xF002 5 := odKey_ne (by decide) hj (Or.inl hi)
  refine ⟨?_, rfl, rfl, ?_, ?_, hm, hs, hp⟩
  · rw [rd_congr (g1.trans ho)]
    split
    · rw [rd_raise_other _ key1 key2, rd_wr_same]
    · rw [rd_wr_same]
  · intro hn
    rw [rd_congr (g1.trans ho), if_pos hn, rd_raise_flag _ _ _ (by decide), rd_wr_other _ _ key1.symm]; rfl
  · intro i' j' h1 h2 h3
    rw [rd_congr (g1.trans ho)]
    split
    · rw [rd_raise_other _ h2 h3, rd_wr_other _ _ h1]
    · rw [rd_wr_other _ _ h1]

end State
end Sys2Proof.Machine
end

