-- ==== Sys2Proof/Laws/Memory.lean ====
section
/-! SUPPORT. The canonical form of the memories: reset has it, and every operation on a memory keeps it. -/

namespace Sys2Proof.Machine

namespace NMap

variable {α : Type} {d d' : Nat → α} {m : NMap α}

/-- Entries may be left out. -/
theorem wf_filter (f : Nat × α → Bool) (h : wf d m) : wf d (m.filter f) :=
  ⟨h.1.filter f, fun p hp => h.2 p (List.mem_filter.1 hp).1⟩

/-- What unlisted keys read as matters at the listed keys alone. -/
theorem wf_base (h : wf d m) (e : ∀ p ∈ m, d' p.1 = d p.1) : wf d' m :=
  ⟨h.1, fun p hp => by rw [e p hp]; exact h.2 p hp⟩

theorem wf_foldl [DecidableEq α] {β : Type} (f : NMap α → β → NMap α)
    (hf : ∀ m b, wf d m → wf d (f m b)) (l : List β) (h : wf d m) : wf d (l.foldl f m) := by
  induction l generalizing m with
  | nil => exact h
  | cons b l ih => exact ih (hf _ _ h)

end NMap

namespace Mem

variable {m w : Mem}

theorem base_congr (h : w.lost = m.lost) (u a : Nat) : w.base u a = m.base u a := by
  unfold base; rw [h]

theorem tileBase_congr (h : w.lost = m.lost) : w.tileBase = m.tileBase := by
  funext a; unfold tileBase; rw [base_congr h]

theorem stateBase_congr (h : w.lost = m.lost) : w.stateBase = m.stateBase := by
  funext a; unfold stateBase; rw [base_congr h]

theorem bondedBase_congr (h : w.lost = m.lost) : w.bondedBase = m.bondedBase := by
  funext a; unfold bondedBase; rw [base_congr h]

/-- While no unit gains or loses its contents, each memory is judged alone. -/
theorem wf_same (h : m.wf) (hl : w.lost = m.lost) (h2 : NMap.wf m.tileBase w.tile)
    (h3 : NMap.wf m.stateBase w.state) (h4 : NMap.wf m.bondedBase w.bonded) (h5 : NMap.wf (fun _ => none) w.host)
    (h6 : NMap.wf (fun _ => false) w.marks) (h7 : NMap.wf (fun _ => false) w.poisonTile)
    (h8 : NMap.wf (fun _ => false) w.poisonState) (h9 : NMap.wf (fun _ => false) w.poisonBonded) : w.wf :=
  ⟨hl ▸ h.1, (tileBase_congr hl).symm ▸ h2, (stateBase_congr hl).symm ▸ h3, (bondedBase_congr hl).symm ▸ h4,
    h5, h6, h7, h8, h9⟩

end Mem

theorem reset_mem_wf : State.reset.mem.wf := by decide

namespace State

variable {d : Nat → Byte} {m : NMap Byte}

theorem wf_putBytes (a : Nat) (bs : List Byte) (h : NMap.wf d m) : NMap.wf d (putBytes d m a bs) := by
  induction bs generalizing a m with
  | nil => exact h
  | cons b bs ih => exact ih _ (NMap.wf_set _ _ h)

theorem wf_hostWrite {m : NMap (Option Byte)} (a : Nat) (bs : List Byte) (h : NMap.wf (fun _ => none) m) :
    NMap.wf (fun _ => none) (hostWrite m a bs) := by
  induction bs generalizing a m with
  | nil => exact h
  | cons b bs ih => exact ih _ (NMap.wf_set _ _ h)

theorem wf_clearRange {α : Type} {d : Nat → α} {m : NMap α} (lo hi : Nat) (h : NMap.wf d m) :
    NMap.wf d (clearRange lo hi m) := NMap.wf_filter _ h

theorem wf_markWrite {m : NMap Bool} (n o len : Nat) (w : Bool) (h : NMap.wf (fun _ => false) m) :
    NMap.wf (fun _ => false) (markWrite m n o len w) := by
  unfold markWrite
  split
  · exact h
  · refine NMap.wf_foldl _ (fun m i h => ?_) _ h
    dsimp only
    split
    · exact NMap.wf_set _ _ h
    · split
      · exact NMap.wf_set _ _ h
      · exact h

theorem wf_poisonWrite {m : NMap Bool} (b o len : Nat) (h : NMap.wf (fun _ => false) m) :
    NMap.wf (fun _ => false) (poisonWrite m b o len) := by
  unfold poisonWrite
  split
  · exact h
  · refine NMap.wf_foldl _ (fun m i h => ?_) _ h
    dsimp only
    split
    · exact NMap.wf_set _ _ h
    · exact h

theorem wf_copyBytes (lo n : Nat) (src : Option Nat) (h : NMap.wf d (clearRange lo (lo + n) m)) :
    NMap.wf d (copyBytes d lo n src m) := by
  unfold copyBytes
  cases src with
  | none => exact h
  | some b => exact NMap.wf_foldl _ (fun m x h => NMap.wf_set _ _ h) _ h

theorem wf_copyRange {α : Type} [DecidableEq α] {d : α} {m : NMap α} (lo n : Nat) (src : Option Nat)
    (h : NMap.wf (fun _ => d) m) : NMap.wf (fun _ => d) (copyRange d lo n src m) := by
  unfold copyRange
  cases src with
  | none => exact wf_clearRange _ _ h
  | some b => exact NMap.wf_foldl _ (fun m x h => NMap.wf_set _ _ h) _ (wf_clearRange _ _ h)

variable {s : State}

theorem wf_updMem (f : Mem → Mem) (h : (f s.mem).wf) : (s.updMem f).mem.wf := h

theorem wf_toHost (a : Nat) (bs : List Byte) (h : s.mem.wf) : (s.toHost a bs).mem.wf := by
  obtain ⟨h1, h2, h3, h4, h5, h6⟩ := h
  exact ⟨h1, h2, h3, h4, wf_hostWrite a bs h5, h6⟩

theorem wf_setPoison (c l : Nat) (v : Bool) (h : s.mem.wf) : (s.setPoison c l v).mem.wf := by
  obtain ⟨h1, h2, h3, h4, h5, h6, h7, h8, h9⟩ := h
  exact ⟨h1, h2, h3, h4, h5, h6, h7, h8, NMap.wf_set _ _ h9⟩

theorem wf_putBonded (a : Nat) (bs : List Byte) (h : s.mem.wf) :
    (s.updMem fun m => { m with bonded := putBytes m.bondedBase m.bonded a bs }).mem.wf := by
  obtain ⟨h1, h2, h3, h4, h5⟩ := h
  exact ⟨h1, h2, h3, wf_putBytes a bs h4, h5⟩

/-- The merge buffers are no memory of their own. -/
theorem wf_updMerge (f : List MergeEntry → List MergeEntry) (h : s.mem.wf) :
    (s.updMem fun m => { m with merge := f m.merge }).mem.wf := h

theorem wf_bondedStore (c o : Nat) (bs : List Byte) (h : s.mem.wf) : (s.bondedStore c o bs).mem.wf := by
  unfold bondedStore
  dsimp only
  split
  · exact wf_setPoison _ _ _ (wf_putBonded _ _ h)
  · split
    · exact h
    · exact wf_putBonded _ _ h

theorem wf_releaseLine (c l : Nat) (h : s.mem.wf) : (s.releaseLine c l).mem.wf := by
  unfold releaseLine
  split
  · exact h
  · dsimp only
    split
    · exact wf_updMerge _ h
    · exact wf_bondedStore _ _ _ (wf_updMerge _ h)

theorem wf_fold {β : Type} (f : State → β → State) (hf : ∀ s b, s.mem.wf → (f s b).mem.wf) (l : List β)
    (h : s.mem.wf) : (l.foldl f s).mem.wf := by
  induction l generalizing s with
  | nil => exact h
  | cons b l ih => exact ih (hf _ _ h)

theorem wf_releaseAll (p : Nat) (h : s.mem.wf) : (s.releaseAll p).mem.wf :=
  wf_fold _ (fun _ _ h => wf_releaseLine _ _ h) _ h

theorem wf_privWriteLine (c o : Nat) (bs : List Byte) (h : s.mem.wf) : (s.privWriteLine c o bs).mem.wf :=
  wf_bondedStore _ _ _ (wf_releaseLine _ _ h)

theorem wf_privWriteN (c k o : Nat) (bs : List Byte) (h : s.mem.wf) : (privWriteN c k o bs s).mem.wf := by
  induction k generalizing o bs s with
  | zero => exact h
  | succ k ih =>
    unfold privWriteN
    split
    · exact h
    · exact ih _ _ (wf_privWriteLine _ _ _ h)

theorem wf_privWrite (c o : Nat) (bs : List Byte) (h : s.mem.wf) : (s.privWrite c o bs).mem.wf :=
  wf_privWriteN _ _ _ _ h

theorem wf_tileWriteLine (c o : Nat) (bs : List Byte) (h : s.mem.wf) : (s.tileWriteLine c o bs).mem.wf := by
  unfold tileWriteLine
  dsimp only
  split
  · exact wf_bondedStore _ _ _ (wf_updMerge _ h)
  · have h1 : (match s.mergeOf c (o / 64) with
      | some _ => s
      | none =>
        let mine := s.mem.merge.filter fun (e : MergeEntry) => e.channel = c
        let s0 : State := if 16 ≤ mine.length then
            match mine with
            | e :: _ => s.releaseLine c e.line
            | [] => s
          else s
        s0.updMem fun m => { m with merge := m.merge ++ [(⟨c, o / 64, 0, 0⟩ : MergeEntry)] }).mem.wf := by
      split
      · exact h
      · refine wf_updMerge (fun x => x ++ [⟨c, o / 64, 0, 0⟩]) ?_
        split
        · split
          · exact wf_releaseLine _ _ h
          · exact h
        · exact h
    split
    · split
      · exact wf_releaseLine _ _ (wf_updMerge _ h1)
      · exact wf_updMerge _ h1
    · exact wf_updMerge _ h1

theorem wf_writeWindowN (p : Nat) (tile : Bool) (k a : Nat) (bs : List Byte) (h : s.mem.wf) :
    (writeWindowN p tile k a bs s).mem.wf := by
  induction k generalizing a bs s with
  | zero => exact h
  | succ k ih =>
    unfold writeWindowN
    split
    · exact h
    · dsimp only
      refine ih _ _ ?_
      split
      · exact wf_tileWriteLine _ _ _ h
      · exact wf_privWriteLine _ _ _ h

theorem wf_writeWindow (p a : Nat) (bs : List Byte) (h : s.mem.wf) : (s.writeWindow p a bs).mem.wf :=
  wf_writeWindowN _ _ _ _ _ h

theorem wf_tileWriteWindow (p a : Nat) (bs : List Byte) (h : s.mem.wf) : (s.tileWriteWindow p a bs).mem.wf :=
  wf_writeWindowN _ _ _ _ _ h

theorem wf_putWords {d : Nat → Byte} {m : NMap Byte} (bad : NMap Bool) (k : Nat) (bs : List Byte) (h : NMap.wf d m) :
    NMap.wf d (putWords d bad m k bs) := by
  unfold putWords
  refine NMap.wf_foldl _ (fun m i h => ?_) _ h
  dsimp only
  split
  · exact h
  · exact NMap.wf_set _ _ h

theorem wf_putTile (n o : Nat) (bs : List Byte) (h : s.mem.wf) : NMap.wf s.mem.tileBase (s.putTile n o bs) :=
  wf_putWords _ _ _ h.2.1

theorem wf_writeTile (n o : Nat) (bs : List Byte) (w : Bool) (h : s.mem.wf) : (s.writeTile n o bs w).mem.wf := by
  have ht := wf_putTile n o bs h
  obtain ⟨h1, -, h3, h4, h5, h6, h7, h8⟩ := h
  exact ⟨h1, ht, h3, h4, h5, wf_markWrite _ _ _ _ h6, wf_poisonWrite _ _ _ h7, h8⟩

theorem wf_writeState (p o : Nat) (bs : List Byte) (h : s.mem.wf) : (s.writeState p o bs).mem.wf := by
  obtain ⟨h1, h2, h3, h4, h5, h6, h7, h8, h9⟩ := h
  exact ⟨h1, h2, wf_putWords _ _ _ h3, h4, h5, h6, h7, wf_poisonWrite _ _ _ h8, h9⟩

theorem wf_zeroMarked (n : Nat) (h : s.mem.wf) : (s.zeroMarked n).mem.wf := by
  refine wf_fold _ (fun s k h => ?_) _ h
  obtain ⟨h1, h2, h3, h4, h5, h6, h7, h8⟩ := h
  refine wf_updMem _ ⟨h1, wf_putBytes _ _ h2, h3, h4, h5, ?_, ?_, h8⟩
  · show NMap.wf (fun _ => false) (NMap.set (fun _ => false) s.mem.marks k false)
    exact NMap.wf_set _ _ h6
  · show NMap.wf (fun _ => false) (clearRange (k * 4) (k * 4 + 4) s.mem.poisonTile)
    exact wf_clearRange _ _ h7

theorem setHalves_mem (n : Nat) (x : Halves) : (s.setHalves n x).mem = s.mem := rfl

theorem wf_configure (n : Nat) (c : Option (Nat × W64)) (h : s.mem.wf) : (s.configure n c).mem.wf := by
  unfold configure
  rw [setHalves_mem]
  exact wf_zeroMarked n h

theorem wf_copyBonded (a b n : Nat) (h : s.mem.wf) :
    (s.updMem fun m => { m with bonded := copyBytes m.bondedBase b n (some a) m.bonded }).mem.wf := by
  obtain ⟨h1, h2, h3, h4, h5⟩ := h
  exact ⟨h1, h2, h3, wf_copyBytes b n (some a) (wf_clearRange b (b + n) h4), h5⟩

theorem wf_rewriteBonded (a b n : Nat) (h : s.mem.wf) :
    (s.updMem fun m => { m with bonded := putBytes m.bondedBase m.bonded b (bytesAt m.bondedBase m.bonded a n) }).mem.wf := by
  obtain ⟨h1, h2, h3, h4, h5⟩ := h
  exact ⟨h1, h2, h3, wf_putBytes _ _ h4, h5⟩

theorem wf_copyPage (a b : Nat) (h : s.mem.wf) : (s.copyPage a b).mem.wf := by
  unfold copyPage
  dsimp only
  split
  · exact wf_copyBonded a b 32768 h
  · exact wf_rewriteBonded a b 32768 h

theorem wf_putTileByte (a : Nat) (b : Byte) (h : s.mem.wf) :
    (s.updMem fun m => { m with tile := NMap.set m.tileBase m.tile a b }).mem.wf := by
  obtain ⟨h1, h2, h3, h4, h5, h6, h7, h8, h9⟩ := h
  exact Mem.wf_same (m := s.mem) ⟨h1, h2, h3, h4, h5, h6, h7, h8, h9⟩ rfl (NMap.wf_set _ _ h2) h3 h4 h5 h6 h7 h8 h9

theorem wf_loadLive (l : Loaded) (area : NMap Byte) (h : s.mem.wf) : (s.loadLive l area).mem.wf :=
  wf_fold _ (fun _ x h => wf_putTileByte ((l.place[x.1 / 0x100000]?).getD 0 * 0x100000 + x.1 % 0x100000) x.2 h) _ h

/-- The base of a unit other than `u` does not move when `u` alone does. -/
theorem base_other {m w : Mem} {u v x : Nat} (a : Nat) (hl : w.lost = NMap.set (fun _ => 0) m.lost u x) (h : v ≠ u) :
    w.base v a = m.base v a := by
  simp [Mem.base, hl, NMap.get_set_other _ _ _ h]

/-- What unit `u` reads as when nothing is listed moves no entry of the other units. -/
theorem wf_tile_unit {m w : Mem} {u x : Nat} {l : NMap Byte} (hl : w.lost = NMap.set (fun _ => 0) m.lost u x)
    (h : NMap.wf m.tileBase l) (hu : ∀ p ∈ l, p.1 < 0x20000000 → 512 + p.1 / 0x100000 ≠ u) :
    NMap.wf w.tileBase l := by
  refine NMap.wf_base h fun p hp => ?_
  unfold Mem.tileBase
  split
  · next hb => exact base_other _ hl (hu p hp hb)
  · rfl

theorem wf_state_unit {m w : Mem} {u x : Nat} {l : NMap Byte} (hl : w.lost = NMap.set (fun _ => 0) m.lost u x)
    (h : NMap.wf m.stateBase l) (hu : ∀ p ∈ l, p.1 < 0x4000000 → 256 + p.1 / 0x40000 ≠ u) :
    NMap.wf w.stateBase l := by
  refine NMap.wf_base h fun p hp => ?_
  unfold Mem.stateBase
  split
  · next hb => exact base_other _ hl (hu p hp hb)
  · rfl

theorem wf_bonded_unit {m w : Mem} {u x : Nat} {l : NMap Byte} (hl : w.lost = NMap.set (fun _ => 0) m.lost u x)
    (h : NMap.wf m.bondedBase l) (hu : ∀ p ∈ l, p.1 < 0x800000000 → Mem.bondedUnit p.1 ≠ u) :
    NMap.wf w.bondedBase l := by
  refine NMap.wf_base h fun p hp => ?_
  unfold Mem.bondedBase
  split
  · next hb => exact base_other _ hl (hu p hp hb)
  · rfl

theorem bondedUnit_cases (a : Nat) (h : a < 0x800000000) : Mem.bondedUnit a < 256 ∨ 1024 ≤ Mem.bondedUnit a := by
  unfold Mem.bondedUnit; split <;> omega

/-- A tile's contents change as a whole, with what it reads as when nothing is listed. -/
theorem wf_tile_changes {m w : Mem} {n x : Nat} (hn : n < 512) (h : m.wf)
    (hl : w.lost = NMap.set (fun _ => 0) m.lost (512 + n) x) (h2 : NMap.wf w.tileBase w.tile)
    (h3 : w.state = m.state) (h4 : w.bonded = m.bonded) (h5 : w.host = m.host)
    (h6 : NMap.wf (fun _ => false) w.marks) (h7 : NMap.wf (fun _ => false) w.poisonTile)
    (h8 : w.poisonState = m.poisonState) (h9 : w.poisonBonded = m.poisonBonded) : w.wf := by
  obtain ⟨w1, w2, w3, w4, w5, w6, w7, w8, w9⟩ := h
  refine ⟨hl ▸ NMap.wf_set _ _ w1, h2, ?_, ?_, h5 ▸ w5, h6, h7, h8 ▸ w8, h9 ▸ w9⟩
  · rw [h3]; exact wf_state_unit hl w3 fun p _ hb => by omega
  · rw [h4]; exact wf_bonded_unit hl w4 fun p _ hb => by have := bondedUnit_cases p.1 hb; omega

theorem tile_cleared {m w : Mem} {n x : Nat} (hl : w.lost = NMap.set (fun _ => 0) m.lost (512 + n) x)
    (h : NMap.wf m.tileBase m.tile) :
    NMap.wf w.tileBase (clearRange (n * 0x100000) (n * 0x100000 + 0x100000) m.tile) := by
  refine wf_tile_unit hl (wf_clearRange _ _ h) fun p hp hb => ?_
  have := (List.mem_filter.1 hp).2
  simp at this
  omega

theorem wf_clearTile {n : Nat} (hn : n < 512) (h : s.mem.wf) : (s.clearTile n).mem.wf := by
  have e : (n + 1) * 0x100000 = n * 0x100000 + 0x100000 := by omega
  unfold clearTile
  rw [e]
  refine wf_updMem _ (wf_tile_changes (m := s.mem) (x := 0) hn h rfl (tile_cleared (m := s.mem) (x := 0) rfl h.2.1)
    rfl rfl rfl ?_ ?_ rfl rfl)
  · exact wf_clearRange _ _ h.2.2.2.2.2.1
  · exact wf_clearRange _ _ h.2.2.2.2.2.2.1

theorem wf_clearGranule {g : Nat} (hg : g < 256) (h : s.mem.wf) : (s.clearGranule g).mem.wf := by
  obtain ⟨h1, h2, h3, h4, h5, h6, h7, h8, h9⟩ := h
  unfold clearGranule
  refine wf_updMem _ ⟨NMap.wf_set (256 + g) 0 h1, ?_, ?_, ?_, h5, h6, h7,
    wf_clearRange (g * 0x8000) ((g + 1) * 0x8000) h8, h9⟩
  · exact wf_tile_unit (m := s.mem) (x := 0) rfl h2 fun p _ hb => by omega
  · refine wf_state_unit (m := s.mem) (x := 0) rfl (wf_clearRange _ _ h3) fun p hp hb => ?_
    have := (List.mem_filter.1 hp).2
    simp at this
    omega
  · exact wf_bonded_unit (m := s.mem) (x := 0) rfl h4 fun p _ hb => by have := bondedUnit_cases p.1 hb; omega

theorem wf_clearChannel {c : Nat} (hc : c < 256) (h : s.mem.wf) : (s.clearChannel c).mem.wf := by
  obtain ⟨h1, h2, h3, h4, h5, h6, h7, h8, h9⟩ := h
  unfold clearChannel
  refine wf_updMem _ ⟨NMap.wf_set c 0 h1, ?_, ?_, ?_, h5, h6, h7, h8,
    wf_clearRange (lineKey c 0) (lineKey c 0x1FC000) h9⟩
  · exact wf_tile_unit (m := s.mem) (x := 0) rfl h2 fun p _ hb => by omega
  · exact wf_state_unit (m := s.mem) (x := 0) rfl h3 fun p _ hb => by omega
  · refine wf_bonded_unit (m := s.mem) (x := 0) rfl (wf_clearRange _ _ h4) fun p hp hb => ?_
    have hk : p.1 < bkey c 0 ∨ bkey c 0x7F00000 ≤ p.1 :=
      (Bool.or_eq_true _ _ ▸ (List.mem_filter.1 hp).2).imp of_decide_eq_true of_decide_eq_true
    unfold bkey at hk
    unfold Mem.bondedUnit
    split <;> omega

theorem wf_takeOver_at {t : State} {n : Nat} (hn : n < 512) (d : Nat) (a b c : Option Nat) (h : t.mem.wf) :
    ((t.updMem fun m => { m with lost := NMap.set (fun _ => 0) m.lost (512 + n) d }).updMem fun m =>
      { m with tile := copyBytes m.tileBase (n * 0x100000) 0x100000 a m.tile
               marks := copyRange false (n * 32768) 32768 b m.marks
               poisonTile := copyRange false (n * 131072) 131072 c m.poisonTile }).mem.wf := by
  refine wf_updMem _ (wf_tile_changes (m := t.mem) (x := d) hn h rfl ?_ rfl rfl rfl ?_ ?_ rfl rfl)
  · exact wf_copyBytes _ _ a (tile_cleared (m := t.mem) (x := d) rfl h.2.1)
  · exact wf_copyRange _ _ b h.2.2.2.2.2.1
  · exact wf_copyRange _ _ c h.2.2.2.2.2.2.1

theorem wf_takeOver {n : Nat} (hn : n < 512) (h : s.mem.wf) : (s.takeOver n).mem.wf := by
  have ht (x : Nat) : (if x = 0 then (0, s) else (s.draw.1 + 1, s.draw.2)).2.mem.wf := by
    split
    · exact h
    · exact h
  unfold takeOver
  dsimp only
  split
  · exact wf_takeOver_at hn _ _ _ _ (ht _)
  · exact wf_takeOver_at hn _ _ _ _ (ht _)

/-- A table of the nonzero values of `f` reads back as `f`. -/
theorem find_table (f : Nat → Nat) (l : List Nat) (k : Nat) :
    NMap.find k (l.filterMap fun u => if f u = 0 then none else some (u, f u)) =
      if k ∈ l ∧ f k ≠ 0 then some (f k) else none := by
  induction l with
  | nil => simp
  | cons u l ih =>
    by_cases hu : f u = 0
    · by_cases hk : k = u
      · subst hk; simp [hu, ih]
      · simp [hu, ih, hk]
    · by_cases hk : k = u
      · subst hk; simp [hu, NMap.find]
      · simp [hu, ih, hk, NMap.find, Ne.symm hk]

theorem wf_table (f : Nat → Nat) (n : Nat) :
    NMap.wf (fun _ => 0) ((List.range n).filterMap fun u => if f u = 0 then none else some (u, f u)) := by
  constructor
  · refine List.Pairwise.filterMap _ (fun a b hab x hx y hy => ?_) List.pairwise_lt_range
    grind
  · intro p hp
    obtain ⟨u, -, hu⟩ := List.mem_filterMap.1 hp
    grind

theorem get_table (f : Nat → Nat) {n k : Nat} (h : k < n) :
    NMap.get (fun _ => 0) ((List.range n).filterMap fun u => if f u = 0 then none else some (u, f u)) k = f k := by
  unfold NMap.get
  rw [find_table]
  by_cases hk : f k = 0 <;> simp [h, hk]

/-- The memory that is left when the units that `gone` selects have lost what they hold. -/
theorem wf_lost {m w : Mem} (gone : Nat → Bool) (n : Nat) (h : m.wf)
    (hl : w.lost = (List.range Mem.units).filterMap fun u =>
      if m.lostUse gone n u = 0 then none else some (u, m.lostUse gone n u))
    (h2 : w.tile = m.tile.filter fun e => !gone (512 + e.1 / 0x100000))
    (h3 : w.state = m.state.filter fun e => !gone (256 + e.1 / 0x40000))
    (h4 : w.bonded = m.bonded.filter fun e => !gone (Mem.bondedUnit e.1)) (h5 : w.host = m.host)
    (h6 : ∃ f, w.marks = m.marks.filter f) (h7 : ∃ f, w.poisonTile = m.poisonTile.filter f)
    (h8 : ∃ f, w.poisonState = m.poisonState.filter f) (h9 : ∃ f, w.poisonBonded = m.poisonBonded.filter f) :
    w.wf := by
  obtain ⟨w1, w2, w3, w4, w5, w6, w7, w8, w9⟩ := h
  obtain ⟨f6, h6⟩ := h6
  obtain ⟨f7, h7⟩ := h7
  obtain ⟨f8, h8⟩ := h8
  obtain ⟨f9, h9⟩ := h9
  have base (u a : Nat) (hu : u < Mem.units) (hg : gone u = false) : w.base u a = m.base u a := by
    unfold Mem.base
    rw [hl, get_table (m.lostUse gone n) hu]
    simp [Mem.lostUse, hg]
  refine ⟨?_, ?_, ?_, ?_, ?_, ?_, ?_, ?_, ?_⟩
  · rw [hl]; exact wf_table (m.lostUse gone n) Mem.units
  · rw [h2]
    refine NMap.wf_base (NMap.wf_filter _ w2) fun p hp => ?_
    have hk := (List.mem_filter.1 hp).2
    unfold Mem.tileBase
    split
    · next hlt => exact base _ _ (by unfold Mem.units; omega) (by simpa using hk)
    · rfl
  · rw [h3]
    refine NMap.wf_base (NMap.wf_filter _ w3) fun p hp => ?_
    have hk := (List.mem_filter.1 hp).2
    unfold Mem.stateBase
    split
    · next hlt => exact base _ _ (by unfold Mem.units; omega) (by simpa using hk)
    · rfl
  · rw [h4]
    refine NMap.wf_base (NMap.wf_filter _ w4) fun p hp => ?_
    have hk := (List.mem_filter.1 hp).2
    unfold Mem.bondedBase
    split
    · next hlt => exact base _ _ (by unfold Mem.units Mem.bondedUnit; split <;> omega) (by simpa using hk)
    · rfl
  · rw [h5]; exact w5
  · rw [h6]; exact NMap.wf_filter _ w6
  · rw [h7]; exact NMap.wf_filter _ w7
  · rw [h8]; exact NMap.wf_filter _ w8
  · rw [h9]; exact NMap.wf_filter _ w9

theorem wf_lose {m : Mem} (gone : Nat → Bool) (n : Nat) (h : m.wf) : (m.lose gone n).wf := by
  refine wf_lost gone n h ?_ ?_ ?_ ?_ ?_ ⟨fun x => !gone (512 + x.1 / 32768), ?_⟩
    ⟨fun x => !gone (512 + x.1 / 131072), ?_⟩ ⟨fun x => !gone (256 + x.1 / 0x8000), ?_⟩
    ⟨fun x => !gone (x.1 / 2097152), ?_⟩
  all_goals simp only [Mem.lose]

theorem wf_loseUnits (off : Nat → Bool) (h : s.mem.wf) : (s.loseUnits off).mem.wf :=
  wf_updMem _ (wf_lose _ _ h)

theorem find_filter (f : Nat → Bool) (l : NMap Nat) {k : Nat} (h : f k = true) :
    NMap.find k (l.filter fun x => f x.1) = NMap.find k l := by
  induction l with
  | nil => rfl
  | cons x l ih =>
    obtain ⟨a, v⟩ := x
    by_cases hk : a = k
    · subst hk; simp [NMap.find, h]
    · by_cases ha : f a <;> simp [NMap.find, ha, hk, ih]

/-- The memory after a start: the tiles, the granules and the reserved megabytes as they were, and nothing in the rest of the channels. -/
theorem wf_started {m w : Mem} (h : m.wf) (hl : w.lost = m.lost.filter fun x => 256 ≤ x.1)
    (h2 : w.tile = m.tile) (h3 : w.state = m.state)
    (h4 : w.bonded = m.bonded.filter fun x => 0x7F00000 ≤ x.1 % 0x8000000) (h5 : w.host = m.host)
    (h6 : w.marks = m.marks) (h7 : w.poisonTile = m.poisonTile) (h8 : w.poisonState = m.poisonState)
    (h9 : ∃ f, w.poisonBonded = m.poisonBonded.filter f) : w.wf := by
  obtain ⟨w1, w2, w3, w4, w5, w6, w7, w8, w9⟩ := h
  obtain ⟨f9, h9⟩ := h9
  have base (u a : Nat) (hu : 256 ≤ u) : w.base u a = m.base u a := by
    unfold Mem.base NMap.get
    rw [hl, find_filter (fun x => decide (256 ≤ x)) m.lost (by simpa using hu)]
  refine ⟨?_, ?_, ?_, ?_, h5 ▸ w5, h6 ▸ w6, h7 ▸ w7, h8 ▸ w8, ?_⟩
  · rw [hl]; exact NMap.wf_filter _ w1
  · rw [h2]
    refine NMap.wf_base w2 fun p hp => ?_
    unfold Mem.tileBase
    split
    · exact base _ _ (by omega)
    · rfl
  · rw [h3]
    refine NMap.wf_base w3 fun p hp => ?_
    unfold Mem.stateBase
    split
    · exact base _ _ (by omega)
    · rfl
  · rw [h4]
    refine NMap.wf_base (NMap.wf_filter _ w4) fun p hp => ?_
    have hk : 0x7F00000 ≤ p.1 % 0x8000000 := by simpa using (List.mem_filter.1 hp).2
    unfold Mem.bondedBase
    split
    · exact base _ _ (by unfold Mem.bondedUnit; split <;> omega)
    · rfl
  · rw [h9]; exact NMap.wf_filter _ w9

theorem wf_startedMem {m : Mem} (h : m.wf) : m.started.wf :=
  wf_started h rfl rfl rfl rfl rfl rfl rfl rfl ⟨_, rfl⟩

theorem wf_fresh (off : Bool) (lk : Link) (h : s.mem.wf) : (s.fresh off lk).mem.wf := by
  have e : (s.fresh off lk).mem = s.mem.started := rfl
  rw [e]
  exact wf_startedMem h


/-! ### The view of host memory -/

theorem fromHost_length (s : State) (a n : Nat) : (s.fromHost a n).length = n := by
  induction n generalizing a with
  | zero => rfl
  | succ n ih => simp [fromHost, ih]

/-- A write leaves the bytes below it alone. -/
theorem hostWrite_below (m : NMap (Option Byte)) {a b : Nat} (bs : List Byte) (h : b < a) :
    NMap.get (fun _ => none) (hostWrite m a bs) b = NMap.get (fun _ => none) m b := by
  induction bs generalizing m a with
  | nil => rfl
  | cons x bs ih =>
    simp only [hostWrite]
    rw [ih _ (by omega), NMap.get_set_other _ _ _ (by omega)]

/-- A write leaves the bytes above it alone. -/
theorem hostWrite_above (m : NMap (Option Byte)) {a b : Nat} (bs : List Byte) (h : a + bs.length ≤ b) :
    NMap.get (fun _ => none) (hostWrite m a bs) b = NMap.get (fun _ => none) m b := by
  induction bs generalizing m a with
  | nil => rfl
  | cons x bs ih =>
    simp only [List.length_cons] at h
    simp only [hostWrite]
    rw [ih _ (by omega), NMap.get_set_other _ _ _ (by omega)]

theorem hostWrite_at (m : NMap (Option Byte)) (a : Nat) {i : Nat} (bs : List Byte) (h : i < bs.length) :
    NMap.get (fun _ => none) (hostWrite m a bs) (a + i) = bs[i]? := by
  induction bs generalizing m a i with
  | nil => simp at h
  | cons x bs ih =>
    simp only [hostWrite]
    cases i with
    | zero => rw [hostWrite_below _ _ (by omega), Nat.add_zero, NMap.get_set_same]; rfl
    | succ i =>
      have := ih (NMap.set (fun _ => none) m a (some x)) (a + 1) (Nat.lt_of_succ_lt_succ h)
      rw [show a + 1 + i = a + (i + 1) by omega] at this
      rw [this]; simp

theorem fromHost_get (s : State) (a : Nat) {n i : Nat} (h : i < n) :
    (s.fromHost a n)[i]? = some (s.hostByte (a + i)) := by
  induction n generalizing a i with
  | zero => omega
  | succ n ih =>
    simp only [fromHost]
    cases i with
    | zero => simp
    | succ i => simp only [List.getElem?_cons_succ]; rw [ih _ (by omega)]; congr 2; omega

/-- What was written to host memory reads back. -/
theorem fromHost_hostWrite (s : State) (m : NMap (Option Byte)) (a : Nat) (bs : List Byte)
    (h : s.mem.host = hostWrite m a bs) : s.fromHost a bs.length = bs := by
  apply List.ext_getElem?
  intro i
  by_cases hi : i < bs.length
  · rw [fromHost_get _ _ hi]
    unfold hostByte
    rw [h, hostWrite_at _ _ _ hi]
    simp [hi]
  · have := fromHost_length s a bs.length
    rw [List.getElem?_eq_none (by omega), List.getElem?_eq_none (by omega)]

/-! ### What a run of a plan writes -/

end State

theorem Run.halt_s (r : Run) (n : Nat) : (r.halt n).s = r.s := by unfold Run.halt; split <;> rfl

theorem Run.fault_s (r : Run) : r.fault.s = r.s := by
  unfold Run.fault; split
  · rfl
  · exact Run.halt_s r _

theorem Run.hostStop_s (r : Run) : r.hostStop.s = r.s := by
  unfold Run.hostStop; split
  · rfl
  · exact Run.halt_s r _

theorem Run.loseLane_s (b n : Nat) (r : Run) : (r.loseLane b n).s = r.s := by unfold Run.loseLane; split <;> rfl

theorem Run.poisonStop_s (c : RunCtx) (a : Nat) (r : Run) : (r.poisonStop c a).s = r.s := by
  unfold Run.poisonStop
  split
  · split
    · exact Run.loseLane_s _ _ r
    · exact Run.halt_s r _
  · split
    · exact Run.loseLane_s _ _ r
    · exact Run.halt_s r _
  · exact Run.halt_s r _

theorem wf_writePiece (c : RunCtx) (weight : Bool) (bs : List Byte) (base : Nat) (r : Run) (y : Nat × Nat) (h : r.s.mem.wf) :
    (r.writePiece c weight bs base y).s.mem.wf := by
  unfold Run.writePiece
  dsimp only
  split
  all_goals try rw [Run.poisonStop_s]
  all_goals split
  · exact State.wf_writeTile _ _ _ _ h
  · split
    · exact State.wf_writeState _ _ _ h
    · exact h
  · exact State.wf_tileWriteWindow _ _ _ h
  · exact State.wf_toHost _ _ h
  · exact h
  · exact State.wf_writeTile _ _ _ _ h
  · split
    · exact State.wf_writeState _ _ _ h
    · exact h
  · exact State.wf_tileWriteWindow _ _ _ h
  · exact State.wf_toHost _ _ h
  · exact h

theorem wf_runWrite (c : RunCtx) (weight : Bool) (a : Nat) (bs : List Byte) (r : Run) (h : r.s.mem.wf) :
    (r.write c weight a bs).s.mem.wf := by
  unfold Run.write
  split
  · exact h
  split
  · rw [Run.fault_s]; exact h
  split
  · rw [Run.hostStop_s]; exact h
  have all (l : List (Nat × Nat)) (r : Run) (h : r.s.mem.wf) :
      (l.foldl (Run.writePiece c weight bs a) r).s.mem.wf := by
    induction l generalizing r with
    | nil => exact h
    | cons y l ih => exact ih _ (wf_writePiece c weight bs a r y h)
  exact all _ _ h

end Sys2Proof.Machine
end

