-- ==== Sys2Proof/Laws/Off.lean ====
section
/-! SUPPORT. What each guard of the commands comes to while the device is OFF (Table 12-1). -/

namespace Sys2Proof.Machine.State

variable {s : State}

theorem off_alive (h : s.power.state = 0) : s.alive = false := by simp [alive, h]

theorem off_serves (h : s.power.state = 0) : s.serves = false := by simp [serves, h]

theorem off_powerRuns (h : s.power.state = 0) : s.powerRuns = false := by simp [powerRuns, off_alive h]

theorem off_wheelRuns (h : s.power.state = 0) : s.wheelRuns = false := by simp [wheelRuns, off_serves h]

theorem off_canSends (h : s.power.state = 0) (n : Nat) : s.canSends n = false := by simp [canSends, h]

theorem off_canServes (h : s.power.state = 0) (n : Nat) : s.canServes n = false := by
  simp [canServes, off_canSends h]

theorem off_access (h : s.power.state = 0) (w : HeldWrite) : s.access w = s := by simp [access, off_alive h]

theorem off_progresses (h : s.power.state = 0) (p : Nat) (id : W64) : s.progresses p id = false := by
  unfold progresses; split <;> simp [off_alive h]

theorem off_hintOf (h : s.power.state = 0) (p : Nat) (id : W64) (n k : Nat) : s.hintOf p id n k = none := by
  unfold hintOf; split <;> simp [off_alive h]

theorem off_stepGoes (h : s.power.state = 0) (p : Nat) (l : Loaded) : s.stepGoes p l = false := by
  simp [stepGoes, off_alive h]

theorem off_powered (h : s.power.state = 0) (p : Nat) : s.powered p = false := by simp [powered, h]

theorem off_chooseStops (h : s.power.state = 0) (p : Nat) : s.chooseStops p = s := by
  simp [chooseStops, off_serves h]

/-- A device that is OFF takes no descriptor. -/
theorem off_takeDesc (h : s.power.state = 0) (op : Nat) (d : DescImage) (extra : List Byte)
    (go : State → Nat → Work → State) :
    s.takeDesc op d extra go = .next s ∨ s.takeDesc op d extra go = .fault .sealReordered := by
  simp only [takeDesc, take, takeWith, off_serves h]
  split
  · exact .inr rfl
  · left; simp

theorem off_checkTpdo (h : s.power.state = 0) (k : Nat) : s.checkTpdo k = s := by
  simp [checkTpdo, tpdoLive, pdoRuns, off_canServes h]

theorem off_checkTpdos (h : s.power.state = 0) (l : List Nat) : l.foldl checkTpdo s = s := by
  induction l with
  | nil => rfl
  | cons k l ih => simp [off_checkTpdo h, ih]

end Sys2Proof.Machine.State
end

