-- ==== Sys2Proof/Laws/Requests.lean ====
section
/-! SUPPORT. What the ending of requests can change (R300, R306, R315). -/

namespace Sys2Proof.Machine
namespace State

theorem part_updPart (s : State) (p q : Nat) (f : Part → Part) :
    (s.updPart p f).part q = if q = p then f (s.part p) else s.part q := by
  simp only [updPart, setPart, part]
  split
  · next h => subst h; exact NMap.get_set_same _ _ _ _
  · next h => exact NMap.get_set_other _ _ _ h

theorem stream_updStream (s : State) (n m : Nat) (f : Stream → Stream) :
    (s.updStream n f).stream m = if m = n then f (s.stream n) else s.stream m := by
  simp only [updStream, setStream, stream]
  split
  · next h => subst h; exact NMap.get_set_same _ _ _ _
  · next h => exact NMap.get_set_other _ _ _ h

/-- What a partition keeps while its requests end. -/
structure PartKept (x y : Part) : Prop where
  fenced : y.fenced = x.fenced
  plans : y.plans = x.plans
  /-- Its loads and frames, or no load any more and the frames without those of its loads. -/
  frames : (y.loads = x.loads ∧ y.frames = x.frames) ∨ (y.loads = [] ∧ y.frames = dropLoads x.loads x.frames)
  migrations : y.migrations = x.migrations

theorem dropLoads_nil (fs : NMap FrameUse) : dropLoads [] fs = fs := by simp [dropLoads]

theorem PartKept.refl (x : Part) : PartKept x x := ⟨rfl, rfl, .inl ⟨rfl, rfl⟩, rfl⟩
theorem PartKept.trans {x y z : Part} (h : PartKept x y) (k : PartKept y z) : PartKept x z := by
  refine ⟨k.1.trans h.1, k.2.trans h.2, ?_, k.4.trans h.4⟩
  rcases h.3 with ⟨a, b⟩ | ⟨a, b⟩ <;> rcases k.3 with ⟨c, d⟩ | ⟨c, d⟩
  · exact .inl ⟨c.trans a, d.trans b⟩
  · exact .inr ⟨c, by rw [d, a, b]⟩
  · exact .inr ⟨c.trans a, d.trans b⟩
  · exact .inr ⟨c, by rw [d, a, b, dropLoads_nil]⟩

/-- From `s` to `t` nothing happened but the ending of requests: host memory, messages, completion rings, the requests themselves and what carries them out. Everything else is as it was. -/
structure Ends (s t : State) : Prop where
  rest : { t with od := s.od, parts := s.parts, streams := s.streams, groups := s.groups, edges := s.edges, pipes := s.pipes, mem := s.mem, out := s.out, link := s.link } = s
  rd : ∀ i j, j < 256 → i ≠ 0x7001 → i ≠ 0x701A → t.rd i j = s.rd i j
  mem : { t.mem with host := s.mem.host } = s.mem
  link : { t.link with msgs := s.link.msgs } = s.link
  part : ∀ p, PartKept (s.part p) (t.part p)

theorem Ends.refl (s : State) : Ends s s := ⟨by cases s; rfl, fun _ _ _ _ _ => rfl, by cases s; rfl, by cases s; rfl, fun _ => PartKept.refl _⟩

theorem Ends.trans {s t u : State} (h : Ends s t) (k : Ends t u) : Ends s u := by
  refine ⟨?_, fun i j a b c => (k.rd i j a b c).trans (h.rd i j a b c), ?_, ?_, fun p => (h.part p).trans (k.part p)⟩
  · have h1 := h.rest; have k1 := k.rest
    cases s; cases t; cases u
    simp only [State.mk.injEq] at h1 k1 ⊢
    simp_all
  · have h1 := h.mem; have k1 := k.mem
    cases hs : s.mem; cases ht : t.mem; cases hu : u.mem
    rw [hs, ht] at h1; rw [ht, hu] at k1
    simp only [Mem.mk.injEq] at h1 k1 ⊢
    simp_all
  · have h1 := h.link; have k1 := k.link
    cases hs : s.link; cases ht : t.link; cases hu : u.link
    rw [hs, ht] at h1; rw [ht, hu] at k1
    simp only [Link.mk.injEq] at h1 k1 ⊢
    simp_all

theorem Ends.fold {β : Type} {s t : State} {f : State → β → State} {l : List β} (k : Ends s t)
    (h : ∀ u b, b ∈ l → Ends s u → Ends s (f u b)) : Ends s (l.foldl f t) := by
  induction l generalizing t with
  | nil => exact k
  | cons b l ih => exact ih (h _ _ (by simp) k) (fun u b hb => h u b (by simp [hb]))

theorem Ends.ite {c : Prop} [Decidable c] {s t u : State} (h : Ends s t) (k : Ends s u) : Ends s (if c then t else u) := by
  split
  · exact h
  · exact k

theorem Ends.updPart {s t : State} (k : Ends s t) (p : Nat) (f : Part → Part) (hf : ∀ y, PartKept y (f y)) : Ends s (t.updPart p f) :=
  k.trans ⟨by simp, fun i j _ _ _ => by exact rd_congr (by simp) i j, by simp, by simp, fun q => by
    rw [part_updPart]; split
    · next h => subst h; exact hf _
    · exact PartKept.refl _⟩

theorem Ends.updStream {s t : State} (k : Ends s t) (n : Nat) (f : Stream → Stream) : Ends s (t.updStream n f) :=
  k.trans ⟨by simp, fun i j _ _ _ => by exact rd_congr (by simp) i j, by simp, by simp, fun q => PartKept.refl _⟩

theorem Ends.updGroup {s t : State} (k : Ends s t) (n : Nat) (f : Group → Group) : Ends s (t.updGroup n f) :=
  k.trans ⟨by simp, fun i j _ _ _ => by exact rd_congr (by simp) i j, by simp, by simp, fun q => PartKept.refl _⟩

theorem Ends.updPipe {s t : State} (k : Ends s t) (n : Nat) (f : Pipe → Pipe) : Ends s (t.updPipe n f) :=
  k.trans ⟨by simp, fun i j _ _ _ => by exact rd_congr (by simp) i j, by simp, by simp, fun q => PartKept.refl _⟩

/-- A job lets go of the buffers that it held. -/
theorem Ends.dropHolds {s t : State} (k : Ends s t) (h : Nat) : Ends s (t.dropHolds h) := by
  unfold State.dropHolds
  exact Ends.fold k fun u n _ hu => hu.updPipe n _

theorem Ends.toHost {s t : State} (k : Ends s t) (a : Nat) (bs : List Byte) : Ends s (t.toHost a bs) :=
  k.trans ⟨by simp, fun i j _ _ _ => by exact rd_congr (by simp) i j, by simp [State.toHost], by simp, fun q => PartKept.refl _⟩

theorem Ends.emit {s t : State} (k : Ends s t) (o : Output) : Ends s (t.emit o) :=
  k.trans ⟨by simp, fun i j _ _ _ => by exact rd_congr (by simp) i j, by simp, by simp, fun q => PartKept.refl _⟩

theorem Ends.msix {s t : State} (k : Ends s t) (fn v : Nat) : Ends s (t.msix fn v) := by
  unfold State.msix
  refine Ends.ite (k.emit _) (k.trans ⟨rfl, fun i j _ _ _ => by exact rd_congr (by rfl) i j, rfl, rfl, fun q => PartKept.refl _⟩)

theorem Ends.wrn {s t : State} (k : Ends s t) {i j : Nat} (v : Nat) (hi : i = 0x7001 ∨ i = 0x701A) (hj : j < 256) : Ends s (t.wrn i j v) :=
  k.trans ⟨by simp, fun i' j' h1 h2 h3 => rd_wrn_other _ _ (odKey_ne hj h1 (Or.inl (by omega))), by simp, by simp, fun q => PartKept.refl _⟩

theorem Ends.raise7001 {s t : State} (k : Ends s t) (b : Nat) (hb : b < 64) : Ends s (t.raise 0x7001 b) :=
  k.trans ⟨by simp, fun i' j' h1 h2 h3 => rd_raise_other _ (odKey_ne (by decide) h1 (Or.inl h2)) (odKey_ne (by omega) h1 (Or.inl h2)),
    by simp, by simp, fun q => PartKept.refl _⟩

theorem Ends.releaseSlot {s t : State} (k : Ends s t) (p slot : Nat) : Ends s (t.releaseSlot p slot) :=
  k.updPart _ _ fun _ => ⟨rfl, rfl, .inl ⟨rfl, rfl⟩, rfl⟩

theorem Ends.writeRecord {s t : State} (k : Ends s t) {p : Nat} (hp : p < 128) (r : Record) : Ends s (t.writeRecord p r) := by
  unfold State.writeRecord
  dsimp only
  have h1 : Ends s (r.pre.foldl (fun s (x : Nat × List Byte) => s.toHost x.1 x.2) t) := Ends.fold k fun _ _ _ h => h.toHost _ _
  have h2 := h1.toHost (t.busAddr p (t.rdn 0x7017 (p + 1)) + 32 * (t.rdn 0x701A (p + 1) % t.rdn 0x7018 (p + 1)))
    (recordBytes r (t.rdn 0x701A (p + 1) / t.rdn 0x7018 (p + 1) % 2 = 0))
  generalize (State.toHost _ _ _) = u at h2 ⊢
  have h3 : Ends s (u.bump32 0x701A (p + 1) 1) := h2.wrn _ (Or.inr rfl) (by omega)
  have h4 := Ends.ite (c := r.chunk = true) h3 (h3.releaseSlot p r.slot)
  generalize (if r.chunk = true then _ else _) = w at h4 ⊢
  split
  · exact Ends.ite (Ends.msix h4 _ _) (Ends.msix h4 _ _)
  · exact h4

theorem Ends.flushN {s : State} {p : Nat} (hp : p < 128) : ∀ (n : Nat) {t : State}, Ends s t → Ends s (flushN p n t) := by
  intro n
  induction n with
  | zero => intro t k; exact k
  | succ n ih =>
    intro t k
    unfold State.flushN
    split
    · exact k
    · next r rs h =>
      have h1 := k.updPart p (fun x => { x with waiting := rs }) fun _ => ⟨rfl, rfl, .inl ⟨rfl, rfl⟩, rfl⟩
      split
      · exact ih (h1.writeRecord hp r)
      · refine k.updPart _ _ ?_
        intro x; exact ⟨rfl, rfl, .inl ⟨rfl, rfl⟩, rfl⟩

/-- Writing a partition's waiting records. -/
theorem Ends.flush {s t : State} (k : Ends s t) {p : Nat} (hp : p < 128) : Ends s (t.flush p) := by
  unfold State.flush; exact Ends.flushN hp _ k

theorem Ends.endWith {s t : State} (k : Ends s t) {p : Nat} (hp : p < 128) (r : Record) : Ends s (t.endWith p r) := by
  unfold State.endWith
  have h1 := Ends.ite (c := t.ringFull p = true) (k.raise7001 1 (by decide)) k
  dsimp only
  generalize (if t.ringFull p = true then _ else _) = u at h1 ⊢
  refine Ends.flush (Ends.updPart h1 p _ ?_) hp
  intro x; exact ⟨rfl, rfl, .inl ⟨rfl, rfl⟩, rfl⟩

theorem Ends.setPhase {s t : State} (k : Ends s t) (p slot : Nat) (ph : WorkPhase) : Ends s (t.setPhase p slot ph) :=
  k.updPart _ _ fun _ => ⟨rfl, rfl, .inl ⟨rfl, rfl⟩, rfl⟩

/-- The end of a descriptor. -/
theorem Ends.endWorkWith {s t : State} (k : Ends s t) {p : Nat} (hp : p < 128) (slot status detail info : Nat) (rp : Bool)
    (pre : List (Nat × List Byte)) : Ends s (t.endWorkWith p slot status detail info rp pre) := by
  unfold State.endWorkWith
  split
  · exact k
  · exact Ends.endWith ((k.setPhase _ _ _).dropHolds _) hp _

theorem Ends.endWork {s t : State} (k : Ends s t) {p : Nat} (hp : p < 128) (slot status detail info : Nat) (rp : Bool) :
    Ends s (t.endWork p slot status detail info rp) := k.endWorkWith hp ..

/-- The end of a chunk. -/
theorem Ends.endChunk {s t : State} (k : Ends s t) {p : Nat} (hp : p < 128) (n : Nat) (c : Chunk) (status : Nat) (rp : Bool) :
    Ends s (t.endChunk p n c status rp) := by
  unfold State.endChunk
  have h1 := k.updStream n fun x => { x with chunks := x.chunks.filter (· ≠ c) }
  dsimp only
  generalize (t.updStream n fun x => { x with chunks := x.chunks.filter (· ≠ c) }) = u at h1 ⊢
  have h2 : Ends s (if c.inStep = true then u else u.releaseChunk n c.slot) := Ends.ite h1 (by unfold State.releaseChunk; exact h1.updStream _ _)
  generalize (if c.inStep = true then _ else _) = w at h2 ⊢
  split
  · exact h2
  · exact h2.endWith hp _

theorem Ends.endChunks {s t : State} (k : Ends s t) {p : Nat} (hp : p < 128) (n : Nat) (f : Chunk → Bool) (status : Nat) :
    Ends s (t.endChunks p n f status) := Ends.fold k fun _ c _ h => h.endChunk hp n c status false

theorem Ends.leaveSteps {s t : State} (k : Ends s t) (n : Nat) : Ends s (t.leaveSteps n) := k.updGroup _ _

theorem Ends.letGo {s t : State} (k : Ends s t) (p : Nat) : Ends s (t.letGo p) := by
  unfold State.letGo
  refine Ends.fold ?_ fun _ _ _ h => h.updStream _ _
  refine k.trans ⟨by simp, fun i j _ _ _ => by exact rd_congr (by simp) i j, by simp, by simp, fun q => ?_⟩
  show PartKept _ ((t.updPart p fun x => { x with invs := [], loads := [], frames := dropLoads x.loads x.frames }).part q)
  rw [part_updPart]; split
  · next h => subst h; exact ⟨rfl, rfl, .inr ⟨rfl, rfl⟩, rfl⟩
  · exact PartKept.refl _

/-- The end of everything that a partition has taken. -/
theorem Ends.endTaken {s t : State} (k : Ends s t) {p : Nat} (hp : p < 128) (status : Nat) : Ends s (t.endTaken p status) := by
  unfold State.endTaken
  exact Ends.fold (Ends.fold (k.letGo p) fun _ _ _ h => h.endWork hp ..) fun _ n _ h => (h.leaveSteps n).endChunks hp n _ _

end State
end Sys2Proof.Machine
end

