-- ==== Sys2Proof/Laws/Take.lean ====
section
/-! SUPPORT. What a landed seal does (R299 to R304). -/

namespace Sys2Proof

open Sys2Proof.Machine

theorem findWork_takenState {s : State} {d : DescImage} {extra : List Byte}
    (h : s.findWork d.part.val d.slot.val = none) :
    (takenState d extra s).findWork d.part.val d.slot.val = some (workOf d extra) := by
  have hp : ((takenState d extra s).part d.part.val).work = (s.part d.part.val).work ++ [workOf d extra] := by
    have hb : ∀ (u : State) (i j n q : Nat), (u.bump64 i j n).part q = u.part q := fun _ _ _ _ _ => rfl
    rw [takenState, hb, State.part_updPart]; simp only [if_true, State.setWindow, State.part_updPart]
  unfold State.findWork at h ⊢
  rw [hp, List.find?_append, h]
  simp [workOf]

/-- A descriptor that nothing holds starts by its operation. -/
theorem takeDesc_starts {op : Nat} {d : DescImage} {extra : List Byte} {s : State} (h : Starts op d extra s)
    (go : State → Nat → Work → State) :
    s.takeDesc op d extra go = .next (go (begun d extra s) d.part.val (workOf d extra)) := by
  obtain ⟨⟨h1, h2, h3, h4, h5, h6⟩, hg, h7, h8, h9, h10⟩ := h
  have hf := findWork_takenState (extra := extra) h6
  have h8' := h8
  unfold takenState workOf at h8'
  simp only [State.takeDesc, h1, h2, State.take, State.takeWith, h3, h4, h5, h6, hg, h7, h8']
  simp only [ne_eq, not_true, ↓reduceIte, Bool.not_true, Bool.or_self, Option.isSome_none, Bool.false_eq_true,
    Host.Outcome.next.injEq]
  show State.tryStart (takenState d extra s) _ _ _ = _
  unfold State.tryStart
  rw [hf]
  simp only [workOf, h9, State.frameWait, ne_eq, not_true, ↓reduceIte]
  have h10' : (takenState d extra s).held d.part.val d.slot.val ⟨d.slot.val, d.raw, d.mirror, .held, extra⟩ = false := h10
  simp [h10', State.begin, State.holdFrame, begun]

end Sys2Proof
end

