-- ==== Sys2Proof/WellFormed.lean ====
section
/-! DEFINITION. Well-formed commands: the limits on operands that the types of Sys2Proof.Syntax do not say. Every command has its meaning whether or not it is well formed. -/

namespace Sys2Proof

/-- The interface is a function of the PCI Express link, which alone makes BAR0 accesses (R415, R416). -/
def Iface.onBus : Iface → Bool
  | .can _ => false
  | _ => true

/-- A CAN frame holds at most 8 bytes, and an FD frame at most 64 (R429, R441). -/
def CanFrame.wf (f : CanFrame) : Bool := if f.fd then f.len ≤ 64 else f.len ≤ 8

/-- The operands of a command lie in the ranges that its interface can carry. -/
def Instr.wf : Instr → Bool
  | .dictionaryWrite fn _ _ _ => fn.onBus
  | .rwpWrite fn _ _ _ => fn.onBus
  | .domainTransferDone fn _ _ => fn.onBus
  | .hostReadCompletion fn _ _ _ => fn.onBus
  | .hostCompletionTimeout fn _ => fn.onBus
  | .busMasterEnableSet fn => fn.onBus
  | .doeDiscovery fn _ => fn.onBus
  | .doeAttest fn _ _ => fn.onBus
  | .doeCert fn => fn.onBus
  | .descriptorWindowWrite _ _ offset data => offset.val + data.length ≤ 8192
  | .chunkWindowWrite _ _ _ offset data => offset.val + data.length ≤ 32768
  | .chunkSeal _ _ _ _ payload _ => payload.length ≤ 32704
  | .barMemoryWrite _ offset data => offset + data.length ≤ 134217728
  | .mergeEntryTimeout _ line => line < 2097152
  | .scrubPass _ errs => errs.all fun e => e.2 < 134217728
  | .attend _ table _ => table.length % 8 = 0
  | .longPacket _ _ _ wordCount _ _ _ bytes => wordCount < 65536 && bytes.length ≤ wordCount
  | .canCall f => f.wf
  | .canAny f => f.wf
  | .sdoDownload _ _ expedited size _ => !expedited || (1 ≤ size && size ≤ 4)
  | .sdoSegment _ _ _ data => data.length ≤ 7
  | .rpdo _ _ data => data.length ≤ 64
  | .roostHop samples => samples.length ≤ 8 && samples.all fun c => c.length ≤ 1280
  | .fence _ value => value.toNat < 16777216
  | .unfence _ value => value.toNat < 16777216
  | .release _ value => value.toNat < 16777216
  | .unfenceChannel _ value => value.toNat < 256
  | .restoreDefaults .. | .commit .. | .discard .. | .commitEvaluated | .slotPlacementApply | .clearDone .. | .domainRead ..
  | .domainWrite .. | .domainAbort .. | .tileClockRequestWrite .. | .planLoad .. | .planUnload .. | .invoke .. | .abort ..
  | .descriptorStart .. | .stagedPlanStart .. | .cheapPointReached .. | .invocationEnd .. | .hintPrefetch .. | .hintPin ..
  | .hintUnpin .. | .demandMigration .. | .migrationComplete .. | .softRowRepair .. | .wheelSlot .. | .chunkDecodeResult ..
  | .rebuiltStripeProgrammed .. | .relocateThreshold .. | .ageTick .. | .refreshDue .. | .patrolRead .. | .blockRetire ..
  | .dieFailed .. | .dieRebuildDone .. | .journalWrite | .install .. | .remove .. | .installAbort .. | .installPage ..
  | .openStream .. | .close .. | .closeComplete .. | .ticket .. | .ticketExpiry .. | .exportStream .. | .exportDrained ..
  | .importStream .. | .swapInDone .. | .berthGrant .. | .groupTick .. | .stepEnd .. | .streamStatSnapshot ..
  | .streamStatSnapshotClear .. | .streamStatClear .. | .tdmFrame .. | .statSnapshot .. | .statSnapshotClear .. | .statClear ..
  | .seqOpen .. | .seqClose .. | .seqFork .. | .seqTruncate .. | .attendStepEnd .. | .frameStart .. | .frameEnd ..
  | .frameTimeout .. | .frameNotice .. | .sensorSettingsWrite .. | .settingsI2cDone .. | .reprocess .. | .i2cTransfer ..
  | .i2cTransferDone .. | .edgeRun .. | .edgeRunDone .. | .micSilent .. | .pdmClockChange .. | .settleEnd
  | .stage0InvocationEnd | .stage0RefractoryEnd | .roostPlanLoad .. | .feedStart .. | .feedStop .. | .feedChunkSeal ..
  | .stage1WindowEnd | .stage2WindowEnd | .cascadeStop .. | .cascadeTrigger .. | .completionHeadWrite .. | .heldRecordWrite ..
  | .preemptStop .. | .preemptResume .. | .timeSliceExpiry .. | .slowRatioUpdate .. | .holdExpiry | .stateStepUp | .linkL12Exit
  | .linkD3coldExit | .gpioWake .. | .linkPowerChange .. | .powerWindow .. | .thermalSample .. | .thermalFactorStep | .avsRead ..
  | .avsRetry .. | .lowSupplyEnd | .droopCrossing .. | .hostClockLimitWrite .. | .railTargetWrite .. | .gaugeDue ..
  | .gaugeReading .. | .unitFatalFault .. | .substitutionShiftStart .. | .substitutionShiftDone .. | .handlingComplete ..
  | .quietExit .. | .deviceFatalFault .. | .channelRetestDone .. | .leaseRenew .. | .leaseClaim .. | .leaseRelease ..
  | .leasePeriodExpiry | .fleetEnrol .. | .fleetRemove .. | .attestNonce .. | .attestReportReady .. | .randomHealthFail ..
  | .randomRetry .. | .aonPwrgdRise .. | .aonPwrgdFall | .perstAssert .. | .vfFlr .. | .pfFlr .. | .virkinLoadStart ..
  | .virkinLoadUpdate .. | .handoffHold | .handoffAdopt .. | .negotiate .. | .componentTrap .. | .componentRestartDone ..
  | .crashDumpClear .. | .nmtStart .. | .nmtStop .. | .nmtEnterPreOperational .. | .nmtResetNode .. | .nmtResetCommunication ..
  | .sdoUpload .. | .sdoBlockDownload .. | .sdoBlockUpload .. | .sdoAbortTransfer .. | .usdoRequest .. | .sdoTimeout .. | .sync ..
  | .tpdoChangeCheck | .tpdoEventTimer .. | .heartbeatProduce .. | .heartbeatReceived .. | .heartbeatConsumerTimeout ..
  | .emcyInhibitExpiry .. | .errorPassive .. | .rxOverrun .. | .busOff .. | .busOffRecovery .. | .lssSwitchStateGlobal ..
  | .lssSwitchStateSelective .. | .lssConfigureNodeId .. | .lssConfigureBitTiming .. | .lssActivateBitTiming ..
  | .lssBitTimingSwitch .. | .lssStoreConfiguration .. | .lssInquireIdentity .. | .lssInquireNodeId ..
  | .lssIdentifyRemoteSlave .. | .lssIdentifyNonConfigured .. | .lssFastscan .. | .tapBypass | .tapIdcode | .tapSamplePreload ..
  | .tapExtest | .perstDeassert | .linkTrained .. | .linkDown | .xtal32Start | .droopStretchEnd .. | .canErrorActive ..
  | .vddAonLoss => true

end Sys2Proof
end

