-- ==== Sys2Proof/Tests/Slice0.lean ====
section
/-! SUPPORT. The author's tests: an ill-formed command for each check, and for each obligation states that meet its hypotheses, with the effect that the manual gives there. Expected values come from the manual's tables. -/

namespace Sys2Proof.Tests

open Sys2Proof.Machine
set_option Elab.async false

/-! ### Small states -/

/-- Entries set over a state. -/
def entries (s : State) (l : List (Nat × Nat × Nat)) : State := l.foldl (fun s x => s.wrn x.1 x.2.1 x.2.2) s

/-- A controller in an NMT state, at node 5, in classic mode at 500 kbit/s. -/
def controller (nmt : Nat) : Can := { Can.off with nmt := nmt, err := 0, cfg := 1, rate := 2, node := 5 }

/-- A device that serves: an image runs, a negotiation is done with every feature active, functions 0 to 2 may issue requests, and both controllers are pre-operational. -/
def up : State :=
  { entries State.reset [(0x2200, 1, 2), (0x2201, 3, 0x7F)] with
    link := { Link.down with perst := false, bme := [0, 1, 2], negotiated := true, numVfs := 2, width := 16, speed := 5
                             image := some ⟨1, 1, false, 1, 0x7F, [1, 1, 1, 1, 1, 1], []⟩ }
    cans := [(0, controller 2), (1, controller 2)] }

/-- The same with partitions 0 and 1 enabled, their tiles, channels, granules and rings placed, and the host holding the lease. -/
def tenants : State :=
  entries up [(0x7010, 1, 1), (0x7010, 2, 1), (0x7011, 1, 0x02020000), (0x7011, 2, 0x02020002), (0x7012, 1, 0), (0x7013, 1, 4),
    (0x7014, 1, 4), (0x7012, 2, 4), (0x7013, 2, 4), (0x7014, 2, 4), (0x7015, 1, 0), (0x7016, 1, 8), (0x7015, 2, 8), (0x7016, 2, 8),
    (0x7017, 1, 0x800000001000), (0x7018, 1, 64), (0x7017, 2, 0x800000002000), (0x7018, 2, 64), (0x2100, 3, 1)]

/-- The device is OFF. -/
def dark : State := { State.reset with power := { State.reset.power with state := 0 } }

/-- The command answers a next state that passes `p`. -/
def after (c : Instr) (s : State) (p : State → Bool) : Bool :=
  match exec c s with
  | .next t => p t
  | _ => false

/-- A descriptor image: operation code, Seq 1, no frame wait, a good Seal, and fields given by offset and value. -/
def image (op : Nat) (fields : List (Nat × Nat)) : BitVec 1024 :=
  BitVec.ofNat 1024 (1 + op * 2 ^ 32 + 0xFF * 2 ^ 192 + 0x5EA20001 * 2 ^ 992 + (fields.map fun f => f.2 * 2 ^ (8 * f.1)).foldl (· + ·) 0)

/-- The descriptor in slot 3 of partition 0, written through its function's window. -/
def sealed (op : Nat) (fields : List (Nat × Nat)) : DescImage := ⟨0, 3, false, image op fields, false⟩

/-- Nothing was met. -/
def clean : Met := ⟨[], false⟩

/-- Nothing is found at a start. -/
def fine : StartFinds := ⟨[], false, [], false⟩

/-- An interface's first accesses are served. -/
theorem reaches_pf {s : State} (h : s.serves = true ∧ s.link.hold = false ∧ s.link.restarting = []) (i j : Nat) :
    Reaches s .pf i j := ⟨h, trivial⟩

/-! ### WellFormed: each check refuses an ill-formed command -/

theorem wf_bus : (Instr.dictionaryWrite (.can 0) ⟨0x2200, 1⟩ 0xFF 0).wf = false ∧ (Instr.rwpWrite (.can 1) ⟨0x1017, 0⟩ 3 0).wf = false ∧
    (Instr.domainTransferDone (.can 0) [] false).wf = false ∧ (Instr.hostReadCompletion (.can 0) 0 .ok []).wf = false ∧
    (Instr.hostCompletionTimeout (.can 0) 0).wf = false ∧ (Instr.busMasterEnableSet (.can 0)).wf = false ∧
    (Instr.doeDiscovery (.can 0) 0).wf = false ∧ (Instr.doeAttest (.can 0) 0 0).wf = false ∧ (Instr.doeCert (.can 0)).wf = false ∧
    (Instr.dictionaryWrite .pf ⟨0x2200, 1⟩ 0xFF 0).wf = true := by decide
theorem wf_windows : (Instr.descriptorWindowWrite 0 false 8191 [0, 0]).wf = false ∧
    (Instr.descriptorWindowWrite 0 false 8190 [0, 0]).wf = true ∧ (Instr.chunkWindowWrite 0 0 0 32767 [0, 0]).wf = false ∧
    (Instr.barMemoryWrite 0 134217728 [0]).wf = false ∧ (Instr.mergeEntryTimeout 0 2097152).wf = false ∧
    (Instr.scrubPass 0 [(.corrected, 134217728)]).wf = false ∧ (Instr.attend (sealed 0x54 []) [0] clean).wf = false := by decide
theorem wf_chunkSeal (l : List Byte) (h : l.length = 32705) : (Instr.chunkSeal 0 0 0 0 l false).wf = false := by
  simp [Instr.wf, h]
theorem wf_longPacket : (Instr.longPacket 0 0 0x2A 65536 true true false []).wf = false ∧
    (Instr.longPacket 0 0 0x2A 1 true true false [0, 0]).wf = false := by decide
theorem wf_frames : (Instr.canCall ⟨false, false, true, false, 5, 9, 0⟩).wf = false ∧ (Instr.canCall ⟨true, false, true, false, 5, 9, 0⟩).wf = true ∧
    (Instr.canAny ⟨true, false, true, false, 5, 65, 0⟩).wf = false := by decide
theorem wf_sdo : (Instr.sdoDownload 0 ⟨0x1017, 0⟩ true 5 0).wf = false ∧ (Instr.sdoDownload 0 ⟨0x1017, 0⟩ true 0 0).wf = false ∧
    (Instr.sdoDownload 0 ⟨0x1017, 0⟩ true 4 0).wf = true ∧ (Instr.sdoSegment 0 false true (List.replicate 8 0)).wf = false ∧
    (Instr.rpdo 0 0 (List.replicate 65 0)).wf = false := by decide
theorem wf_roostHop : (Instr.roostHop [List.replicate 1281 0]).wf = false ∧ (Instr.roostHop [List.replicate 1280 0]).wf = true ∧
    (Instr.roostHop (List.replicate 9 [])).wf = false := by decide +kernel
theorem wf_fences : (Instr.fence .pf 0x1000000).wf = false ∧ (Instr.unfence .pf 0x1000000).wf = false ∧
    (Instr.release .pf 0x1000000).wf = false ∧ (Instr.unfenceChannel .pf 256).wf = false ∧ (Instr.fence .pf 0xFFFFFF).wf = true := by decide

/-! ### Words: the table gives no row any bits -/

theorem test_decodeTableWord : decodeTableWord 8 0 = none ∧ decodeTableWord 64 1 = none := by decide

/-! ### The queue, reset and OFF -/

theorem witness_StepRunsFront :
    (match step { dark with pending := [.aonPwrgdRise 5 fine, .linkDown] } with
      | .next t => decide (t.power.state = 4 ∧ t.pending = [.linkDown])
      | _ => false) = true := by decide +kernel
theorem witness_IdleStep : (match step State.reset with | .next t => decide (t.time = 1) | _ => false) = true ∧
    State.reset.pending = [] := by decide +kernel
theorem witness_StartsAndStops_rise : dark.power.state = 0 ∧
    after (.aonPwrgdRise 0x7F fine) dark (fun t => t.rdn 0x2010 4 = 127 ∧ t.rdn 0xA000 6 = 1 ∧ t.rdn 0xA000 5 = 1 ∧ t.time = 0) = true ∧
    after (.aonPwrgdRise 0x7F fine) up (fun t => t.rdn 0x2010 4 = 0) = true := by decide +kernel
theorem witness_StartsAndStops_resets : up.power.state ≠ 0 ∧ up.link.dstate ≠ 4 ∧
    after (.pfFlr 1 fine) up (fun t => t.link.image = none ∧ t.rdn 0xA000 6 = 1 ∧ t.link.perst = false) = true ∧
    after (.perstAssert 1 fine) up (fun t => t.link.perst = true ∧ t.link.image = none ∧ t.rdn 0xA000 5 = 0) = true ∧
    after (.perstAssert 1 fine) { entries up [(0x2102, 2, 1)] with link := { up.link with dstate := 4 } }
      (fun t => t.link.perst = true ∧ t.link.bme = [] ∧ t.link.image.isSome ∧ t.rdn 0x2101 1 = 0x20) = true := by decide +kernel
theorem witness_StartsAndStops_virtual : tenants.alive = true ∧ tenants.link.hold = false ∧
    after (.vfFlr 0) tenants (fun t => t.link.bme = [0, 2] ∧ t.rdn 0x7019 1 = 0) = true ∧
    after (.vfFlr 1) { tenants with link := { tenants.link with hold := true } } (fun t => t.link.heldFlrs = [1]) = true ∧
    after (.vfFlr 0) dark (fun t => t.link.bme = dark.link.bme) = true := by decide +kernel
theorem witness_StartsAndStops_dark :
    after .aonPwrgdFall up (fun t => t.power.state = 0 ∧ t.persist.unclean = false) = true ∧
    after .vddAonLoss up (fun t => t.power.state = 0 ∧ t.persist.unclean = true) = true ∧
    after .vddAonLoss dark (fun t => t.persist.unclean = false) = true := by decide +kernel
theorem witness_OffStays : Off { dark with pending := [.commit .pf] } ∧
    (match step { dark with pending := [.commit .pf] } with
      | .next t => decide (t.power.state = 0 ∧ t.pending = [])
      | _ => false) = true := by
  constructor
  · exact ⟨by decide +kernel, by simp⟩
  · decide +kernel

/-! ### The object dictionary -/

/-- A judgement accepts a value as `v`. -/
def takes (x : Except Nat Nat) (v : Nat) : Bool :=
  match x with
  | .ok y => y = v
  | .error _ => false

/-- A judgement refuses a value. -/
def refuses (x : Except Nat Nat) : Bool :=
  match x with
  | .ok _ => false
  | .error c => c ≠ 0

/-- The access class of an entry (Table 16-2). -/
def acc (i j : Nat) : Option Od.Access := (Od.lookup i j).map fun r => r.acc

theorem witness_DictionaryWriteByClass_ro : Reaches up .pf 0x2200 1 ∧ acc 0x2200 1 = some .ro ∧
    after (.dictionaryWrite .pf ⟨0x2200, 1⟩ 0xFF 5) up (fun t => t.rdn 0x2200 1 = 2 ∧ t.rdn 0xF002 1 = 1) = true :=
  ⟨reaches_pf (by decide +kernel) _ _, by decide +kernel⟩
theorem witness_DictionaryWriteByClass_w1c : acc 0x2101 1 = some .w1c ∧ up.featureDiscards 0x2101 1 = false ∧
    after (.dictionaryWrite .pf ⟨0x2101, 1⟩ 0xF 0x11) (entries up [(0x2101, 1, 0x33)]) (fun t => t.rdn 0x2101 1 = 0x22) = true := by
  decide +kernel
theorem witness_DictionaryWriteByClass_rws : acc 0x4002 1 = some .rws ∧ up.featureDiscards 0x4002 1 = false ∧
    after (.dictionaryWrite .pf ⟨0x4002, 1⟩ 1 12) up (fun t => t.staged = [(0x400201, some 12)] ∧ t.rdn 0x4002 1 = 24) = true := by
  decide +kernel
theorem witness_DictionaryWriteByClass_rw : acc 0x3110 1 = some .rw ∧ takes (up.judgeRw 0x3110 1 1234) 1225 = true ∧
    takes (up.judgeRw 0x3600 1 0x1FF) 0x1FF = true ∧
    after (.dictionaryWrite .pf ⟨0x3110, 1⟩ 3 1234) up (fun t => t.rdn 0x3110 1 = 1225) = true ∧
    after (.dictionaryWrite .pf ⟨0x3110, 1⟩ 1 1234) up (fun t => t.rdn 0x3110 1 = 1800 ∧ t.rdn 0xF002 1 = 2) = true := by decide +kernel
theorem witness_RwpWriteStores : Reaches up .pf 0x1017 0 ∧ acc 0x1017 0 = some .rwp ∧ takes (up.judgeRwp .pf 0x1017 0 500) 500 = true ∧
    after (.rwpWrite .pf ⟨0x1017, 0⟩ 3 500) up (fun t => t.rdn 0x1017 0 = 500 ∧ t.persist.writes = [(0x101700, 1)] ∧ t.persist.locked = []) = true ∧
    after (.rwpWrite .pf ⟨0x1017, 0⟩ 3 1000) up (fun t => t.persist.writes = []) = true ∧
    after (.rwpWrite .pf ⟨0x1017, 0⟩ 3 500) { up with persist := { up.persist with writes := [(0x101700, 999999)] } }
      (fun t => t.rdn 0x1017 0 = 500 ∧ t.persist.locked = [0x101700] ∧ t.rdn 0xF002 1 = 8) = true ∧
    after (.rwpWrite .pf ⟨0x1017, 0⟩ 3 500) { up with persist := { up.persist with locked := [0x101700] } }
      (fun t => t.rdn 0x1017 0 = 1000 ∧ t.rdn 0xF002 1 = 1) = true :=
  ⟨reaches_pf (by decide +kernel) _ _, by decide +kernel⟩
theorem witness_RwpWriteStores_refused : refuses (up.judgeRwp .pf 0x2010 1 200) = true ∧
    (entries up [(0xF020, 1, 0x10170000)]).value .pf 0xF020 2 = 0 ∧ Od.isRwp 0x2200 1 = false := by decide +kernel
theorem witness_RestoreDefaults : Reaches up .pf 0x1011 1 ∧
    after (.restoreDefaults .pf 0x64616F6C) (entries up [(0x1017, 0, 500)]) (fun t => t.rdn 0x1017 0 = 1000) = true ∧
    after (.restoreDefaults .pf 1) (entries up [(0x1017, 0, 500)]) (fun t => t.rdn 0x1017 0 = 500 ∧ t.rdn 0xF002 1 = 1) = true :=
  ⟨reaches_pf (by decide +kernel) _ _, by decide +kernel⟩
theorem witness_CommitAndDiscard : Reaches up .pf 0xF000 1 ∧ up.rdn 0xF000 2 ≠ 1 ∧
    after (.commit .pf) up (fun t => t.rdn 0xF000 2 = 4) = true ∧
    after (.commit .pf) { up with staged := [(0x400201, some 12)] } (fun t => t.rdn 0xF000 2 = 1 ∧ t.snap.isSome) = true ∧
    after (.commit .pf) (entries up [(0xF000, 2, 1)]) (fun t => t.rdn 0xF002 1 = 1) = true ∧
    after (.discard .pf) { up with staged := [(0x400201, some 12)] } (fun t => t.rdn 0xF000 2 = 5 ∧ t.staged = []) = true ∧
    after (.handoffAdopt true) { up with staged := [(0x400201, some 12)], link := { up.link with hold := true, update := up.link.image } }
      (fun t => t.staged = [(0x400201, some 12)]) = true :=
  ⟨reaches_pf (by decide +kernel) _ _, by decide +kernel⟩

/-- A snapshot with one staged value. -/
def snapshotOf (i j v : Nat) : Snapshot := ⟨[(odKey 0 i j, some (BitVec.ofNat 64 v))], [], []⟩

theorem witness_RejectedCommit :
    after .commitEvaluated { entries up [(0xF000, 2, 1), (0x7010, 1, 1)] with snap := some (snapshotOf 0x7011 1 0x0F7F0000) }
      (fun t => t.rdn 0xF000 2 = 3 ∧ t.rdn 0xF000 3 = 0x7001 ∧ t.rdn 0x7011 1 = 0 ∧ t.rdn 0xF002 1 = 4) = true := by decide +kernel
theorem witness_AppliedCommit : (State.combination up (up.candidateOf (snapshotOf 0x4002 1 12))).isNone = true := by decide +kernel

/-- A domain transfer of the device name is set up. -/
def named : State := entries up [(0xF010, 1, 0x10080000), (0xF010, 2, 0x5000), (0xF010, 3, 64)]

theorem witness_DomainCommands : Reaches up .pf 0xF010 4 ∧ named.xferOf 0 = none ∧
    after (.domainRead .pf) named (fun t => t.rdn 0xF010 5 = 1 ∧ (t.xferOf 0).isSome) = true ∧
    after (.domainRead .pf) (entries named [(0xF010, 3, 1)]) (fun t => t.rdn 0xF010 5 = 3 ∧ t.rdn 0xF010 6 = 0x06070012) = true ∧
    after (.domainRead .pf) (entries named [(0xF010, 1, 0x10FF0000)]) (fun t => t.rdn 0xF010 5 = 3 ∧ t.rdn 0xF010 6 ≠ 0) = true ∧
    after (.domainWrite .pf) named (fun t => t.rdn 0xF010 5 = 1) = true :=
  ⟨reaches_pf (by decide +kernel) _ _, by decide +kernel⟩
theorem witness_DomainEndings : up.busMaster 0 = true ∧ up.xferOf 0 = none ∧
    after (.domainTransferDone .pf [] false) { up with xfer := [(0, some ⟨0x1008, 0, false, 2, 0x5000, [7, 8]⟩)] }
      (fun t => t.fromHost 0x5000 2 = [7, 8] ∧ t.rdn 0xF010 5 = 2) = true ∧
    after (.domainTransferDone .pf [1, 0, 2, 0] false) { up with xfer := [(0, some ⟨0x6041, 1, true, 4, 0x5000, []⟩)] }
      (fun t => t.stagedDom = [(0x604101, some [1, 0, 2, 0])] ∧ t.rdn 0xF010 5 = 2) = true ∧
    after (.domainAbort .pf) up (fun t => t.rdn 0xF010 5 = 0) = true := by decide +kernel

/-! ### Negotiation, statistics and clocks -/

theorem witness_Negotiation : Reaches up .pf 0x2201 4 ∧ up.anyTaken = false ∧
    (up.ifaceAgree 1).isSome = true ∧ (up.ifaceAgree 6).isSome = true ∧
    after (.negotiate .pf) (entries up [(0x2201, 2, 1)]) (fun t => t.rdn 0x2201 5 = 1) = true ∧
    after (.negotiate .pf) (entries up [(0x2203, 1, 0x0200)]) (fun t => t.rdn 0x2201 5 = 2 ∧ t.rdn 0x2201 6 = 1) = true ∧
    after (.negotiate .pf) (entries up [(0x2203, 6, 0x0200)]) (fun t => t.rdn 0x2201 5 = 2 ∧ t.rdn 0x2201 6 = 6) = true :=
  ⟨reaches_pf (by decide +kernel) _ _, by decide +kernel⟩

/-- Slot 3 of partition 0 holds a taken INVOKE. -/
def busy : State := { tenants with parts := [(0, { Part.empty with work := [⟨3, image 0x03 [], false, .held, []⟩] })] }

theorem witness_Negotiation_busy : busy.anyTaken = true ∧
    after (.negotiate .pf) busy (fun t => t.rdn 0x2201 5 = 3) = true := by decide +kernel
theorem witness_Statistics : Reaches tenants .pf 0x3600 2 ∧ tenants.statSelected .pf = some 0 ∧
    (entries tenants [(0x3600, 1, 4096)]).statSelected .pf = none ∧
    after (.statSnapshotClear .pf) { tenants with time := 9, stats := [(0, { StatSet.none with count := 7 })] }
      (fun t => t.rdn 0x3601 1 = 7 ∧ t.rdn 0x3600 3 = 9 ∧ t.stats = []) = true ∧
    after (.statSnapshot .pf) { tenants with stats := [(0, { StatSet.none with count := 7 })] } (fun t => t.stats.length = 1) = true ∧
    after (.statClear .pf) { tenants with stats := [(0, { StatSet.none with count := 7 })] } (fun t => t.stats = [] ∧ t.rdn 0x3601 1 = 0) = true :=
  ⟨reaches_pf (by decide +kernel) _ _, by decide +kernel⟩
theorem witness_Statistics_streams : Reaches tenants .pf 0x5400 2 ∧ (tenants.streamSelected .pf).isSome = true ∧
    after (.streamStatSnapshotClear .pf) { tenants with streams := [(0, { Stream.free with stats := { StatSet.none with count := 7 } })] }
      (fun t => t.rdn 0x5401 1 = 7 ∧ (t.stream 0).stats = StatSet.none) = true :=
  ⟨reaches_pf (by decide +kernel) _ _, by decide +kernel⟩
theorem witness_ClockWrites : Reaches up .pf 0x3113 128 ∧ Reaches up .pf 0x8002 5 ∧ Reaches up .pf 0x8002 6 ∧ Reaches up .pf 0x8002 7 ∧
    after (.tileClockRequestWrite .pf 511 199) up (fun t => t.rdn 0x3113 128 = 200) = true ∧
    after (.hostClockLimitWrite .pf 1824) up (fun t => t.rdn 0x8002 5 = 1800) = true ∧
    after (.hostClockLimitWrite .pf 1224) up (fun t => t.rdn 0x8002 5 = 1200) = true ∧
    after (.railTargetWrite .pf false 1224) up (fun t => t.rdn 0x8002 6 = 1224) = true ∧
    after (.railTargetWrite .pf true 100) up (fun t => t.rdn 0x8002 7 = 200) = true :=
  ⟨reaches_pf (by decide +kernel) _ _, reaches_pf (by decide +kernel) _ _, reaches_pf (by decide +kernel) _ _,
    reaches_pf (by decide +kernel) _ _, by decide +kernel⟩

/-! ### Partitions, descriptors and records -/

theorem witness_DescriptorTake : Seals 0x02 (sealed 0x02 []) tenants ∧ State.sealGood (sealed 0x02 []).raw = true ∧
    (takenState (sealed 0x02 []) [] tenants).takeOk 0 (sealed 0x02 []).raw = true ∧
    after (.planUnload (sealed 0x02 [(0x10, 1)])) tenants (fun t => (t.part 0).waiting = [] ∧ t.rdn 0x701A 1 = 1 ∧
      (t.fromHost 0x1004 1) = [0x12]) = true ∧
    after (.planUnload ⟨0, 3, false, BitVec.ofNat 1024 (2 * 2 ^ 32), false⟩) tenants (fun t => (t.part 0).work = [] ∧ t.rdn 0x701A 1 = 0) = true ∧
    after (.planUnload (sealed 0x02 [])) { tenants with parts := [(0, { Part.empty with fenced := true })] }
      (fun t => t.fromHost 0x1004 1 = [0x70]) = true ∧
    after (.planUnload (sealed 0x02 [])) busy (fun t => t.rdn 0x7027 1 = 1 ∧ (t.part 0).work.length = 1) = true :=
  ⟨⟨by decide +kernel, by decide +kernel, by decide +kernel, by decide +kernel, by decide +kernel, by decide +kernel⟩, by decide +kernel⟩
theorem witness_DescriptorTake_reordered :
    (match exec (.abort { sealed 0x04 [] with reorderable := true }) tenants with
      | .fault f => decide (f = .sealReordered)
      | _ => false) = true := by decide +kernel

/-- Slot 2 of partition 0 holds an ORDERED descriptor that waits for slot 3. -/
def ordered : State :=
  { tenants with parts := [(0, { Part.empty with work := [⟨3, image 0x03 [], false, .running, []⟩, ⟨2, image 0x02 [(5, 2)], false, .held, []⟩] })] }

theorem witness_DescriptorTake_held :
    (takenState ⟨0, 5, false, image 0x02 [(5, 2)], false⟩ [] ordered).held 0 5 (workOf ⟨0, 5, false, image 0x02 [(5, 2)], false⟩ []) = true ∧
    after (.planUnload ⟨0, 5, false, image 0x02 [(5, 2)], false⟩) ordered (fun t => (t.part 0).work.length = 3) = true := by decide +kernel
theorem witness_DescriptorWindows : tenants.serves = true ∧ tenants.enabled 0 = true ∧ tenants.takesSeals 0 false = true ∧
    tenants.findWork 0 3 = none ∧
    after (.descriptorWindowWrite 0 false (3 * 128 + 4) [2]) tenants
      (fun t => NMap.get (fun _ => 0) (t.part 0).window 3 = BitVec.ofNat 1024 (2 * 2 ^ 32)) = true ∧
    after (.descriptorWindowWrite 0 false (3 * 128) (leBytes 128 (image 0x02 []).toNat)) tenants (fun t => t.rdn 0x7026 1 = 1) = true ∧
    after (.descriptorWindowWrite 0 false (3 * 128 + 125) [0, 0, 0]) tenants (fun t => t.rdn 0x7026 1 = 0 ∧ t.rdn 0x7027 1 = 0) = true ∧
    after (.descriptorWindowWrite 0 false (3 * 128) [2]) busy (fun t => t.rdn 0x7027 1 = 1) = true := by decide +kernel
theorem witness_DescriptorWindows_start : (ordered.part 0).work.any (ordered.canStart 0) = false ∧
    ({ tenants with parts := [(0, { Part.empty with work := [⟨2, image 0x02 [], false, .held, []⟩] })] } : State).canStart 0
      ⟨2, image 0x02 [], false, .held, []⟩ = true := by decide +kernel

/-- A record of slot 3 that waits to be written. -/
def record : Record :=
  { seq := 1, status := 0, opcode := 2, chunk := false, held := false, replayed := false, tag := 0, stream := 0xFFFF, slot := 3
    detail := 0, info := 0, endTime := 0, irq := none, mirror := false, pre := [] }

def recorded : State :=
  { tenants with parts := [(0, { Part.empty with work := [⟨3, image 0x02 [], false, .ended, []⟩], waiting := [record] })] }

theorem witness_CompletionRecords : Reaches tenants .pf 0x7019 1 ∧
    after (.completionHeadWrite .pf 0 64) (entries tenants [(0x701A, 1, 64)]) (fun t => t.rdn 0x7019 1 = 64) = true ∧
    after (.completionHeadWrite .pf 0 0) (entries tenants [(0x701A, 1, 64)]) (fun t => t.rdn 0x7001 1 = 0) = true ∧
    after (.completionHeadWrite .pf 0 65) (entries tenants [(0x701A, 1, 64)]) (fun t => t.rdn 0x7001 1 = 4 ∧ t.rdn 0x7019 1 = 0) = true ∧
    recorded.canWrite 0 record = true ∧
    after (.heldRecordWrite 0) recorded (fun t => t.rdn 0x701A 1 = 1 ∧ (t.part 0).work = [] ∧ (t.part 0).waiting = []) = true :=
  ⟨reaches_pf (by decide +kernel) _ _, by decide +kernel⟩
theorem witness_HostReads : tenants.alive = true ∧ (State.aerOf .poisoned).isSome = true ∧
    ({ tenants with xfer := [(0, some ⟨0x6041, 1, true, 4, 0x5000, []⟩)] } : State).xferReading .pf 0x5003 = true ∧
    ({ tenants with xfer := [(0, some ⟨0x6041, 1, true, 4, 0x5000, []⟩)] } : State).xferReading .pf 0x5004 = false ∧
    after (.hostReadCompletion .pf 0x5000 .ok [7]) tenants (fun t => t.fromHost 0x5000 1 = [7]) = true ∧
    after (.hostCompletionTimeout .pf 0x9000) tenants (fun t => t.rdn 0x2101 1 = 4 ∧ t.rdn 0x4001 1 = 0) = true ∧
    after (.slowRatioUpdate 0 1 2 3 4 5) tenants (fun t => (t.part 0).slow = [15] ∧ t.rdn 0x7024 1 = 5) = true := by decide +kernel

/-- Partition 0 and channel 9 are fenced. -/
def fenced : State :=
  { tenants with parts := [(0, { Part.empty with fenced := true })], persist := { tenants.persist with fencedChannels := [9] } }

theorem witness_Fences : Reaches tenants .pf 0x9004 1 ∧
    after (.fence .pf 0x100000) tenants (fun t => (t.part 0).fenced ∧ t.rdn 0x9004 2 = 0) = true ∧
    after (.fence .pf 0x10007F) (tenants.wrn 0x7010 128 1) (fun t => (t.part 127).fenced) = true ∧
    after (.fence .pf 0x10007F) tenants (fun t => t.rdn 0x9004 2 = 1) = true ∧
    after (.fence .pf 0x100080) tenants (fun t => t.rdn 0x9004 2 = 1) = true ∧
    after (.unfence .pf 0x100000) tenants (fun t => t.rdn 0x9004 2 = 2) = true ∧
    after (.unfence .pf 0x100000) fenced (fun t => t.rdn 0x9004 2 = 0 ∧ (t.part 0).fenced = false) = true ∧
    after (.unfence .pf 0x100000) { fenced with persist := { fenced.persist with fencedChannels := [3] } }
      (fun t => t.rdn 0x9004 2 = 3 ∧ (t.part 0).fenced) = true ∧
    after (.release .pf 0x100000) fenced (fun t => t.rdn 0x9004 2 = 0 ∧ (t.part 0).fenced) = true :=
  ⟨reaches_pf (by decide +kernel) _ _, by decide +kernel⟩
theorem witness_Fences_channels : fenced.channelOwner 9 = none ∧ tenants.channelOwner 3 = some 0 ∧
    after (.unfenceChannel .pf 8) fenced (fun t => t.rdn 0x9004 2 = 2) = true ∧
    after (.unfenceChannel .pf 9) fenced (fun t => t.faults.retest = [9]) = true ∧
    after (.unfenceChannel .pf 3) { fenced with persist := { fenced.persist with fencedChannels := [3] } } (fun t => t.rdn 0x9004 2 = 4) = true ∧
    after (.channelRetestDone 9 true) { fenced with faults := { fenced.faults with retest := [9] } }
      (fun t => t.persist.fencedChannels = [] ∧ t.rdn 0x9004 2 = 0) = true ∧
    after (.channelRetestDone 9 false) { fenced with faults := { fenced.faults with retest := [9] } }
      (fun t => t.persist.fencedChannels = [9] ∧ t.rdn 0x9004 2 = 5) = true := by decide +kernel

/-- Controller 1 holds the lease until 500 ms. -/
def claimed : State := { entries up [(0x2100, 3, 3)] with faults := { up.faults with leaseEnd := 500000 } }

theorem witness_LeaseCommands : Running up ∧ up.rdn 0x2100 3 = 0 ∧ up.sdoRuns 1 = true ∧
    after (.leaseRenew .pf) up (fun t => t.rdn 0x2100 3 = 1 ∧ t.faults.leaseEnd = 500000) = true ∧
    after (.leaseRenew .pf) tenants (fun t => t.rdn 0x2100 5 = 1) = true ∧
    after (.leaseRenew .pf) claimed (fun t => t.rdn 0x2100 3 = 3 ∧ t.rdn 0x9001 1 = 0x400) = true ∧
    after (.leaseClaim (.can 1)) up (fun t => t.rdn 0x2100 3 = 3 ∧ t.rdn 0x9001 1 = 0x200) = true ∧
    after (.leaseRenew (.can 1)) claimed (fun t => t.rdn 0x2100 5 = 1) = true ∧
    after (.leaseClaim (.can 0)) claimed (fun t => t.rdn 0x2100 3 = 3 ∧ t.rdn 0x9001 1 = 0x400) = true ∧
    after (.leaseRelease (.can 1)) claimed (fun t => t.rdn 0x2100 3 = 0 ∧ t.rdn 0x9001 1 = 0x100) = true ∧
    after .leasePeriodExpiry { claimed with time := 500000 } (fun t => t.rdn 0x2100 3 = 0) = true ∧
    after .leasePeriodExpiry { claimed with time := 499999 } (fun t => t.rdn 0x2100 3 = 3) = true ∧
    after (.leaseClaim .pf) up (fun t => t.rdn 0x2100 3 = 0) = true :=
  ⟨by unfold Running; decide +kernel, by decide +kernel⟩

/-! ### Plans, invocations and weights -/

/-- A plan of one slot, with a usable point between its first and its last, and a hint of each kind. -/
def planOf (id : W64) : Plan :=
  { planId := id, digest := 0, planBytes := 0, slotCount := 1, gangCount := 1, variant := 0, hasCheckpoints := false
    inputsPreserved := false, latencyMode := false, streamPlan := false, maxGap := 0, ckptBytes := 0, clockTarget := 0
    nominal := 0, degradedId := 0, wBase := 0, wBytes := 0x100000, slots := [⟨0, 0, 0, 0, 0, 0, 0⟩], gangs := [], feeds := []
    posts := [], streams := []
    cheaps := [⟨0, false, false, false, false, 0, 0, 0, 0⟩, ⟨1, true, false, false, false, 100, 0, 0, 0⟩, ⟨2, false, false, false, false, 300, 0, 0, 0⟩]
    lives := [], hints := [⟨0, 2, 0, 1⟩, ⟨0, 1, 0, 2⟩, ⟨0, 1, 0, 3⟩], configs := [], imageDigest := [] }

/-- Plan `id` of model 5 as it is loaded on tile 0. -/
def loadedPlan (id : W64) : Loaded :=
  { plan := planOf id, kind := 0, model := 5, params := [], variant := none, variantKind := 0, variantParams := [], onVariant := false, place := [0], pins := []
    ckpt := [], ckptFlow := Flow.none, fetched := [], saved := [], loadTime := 0 }

/-- An invocation of plan `id` for slot 3, at cheap point 0. -/
def running (id : W64) : Invocation :=
  { planId := id, slot := 3, attend := false, start := 0, resumed := 0, cheap := 0, passed := 0, behind := none, ckpt := none, portable := none, merged := 0
    stop := .none, stopTime := 0, stopped := false, paused := false, flow := Flow.none, faulted := false, replayed := false, corrected := false, lanes := [] }

/-- Partition 0 as `x`, with model 5 installed over weight pages 0 to 15. -/
def withPart (x : Part) : State :=
  { tenants with parts := [(0, x)]
                 bedrock := { tenants.bedrock with models := [(5, ⟨2, 0, 0x100000, [], [], [], [⟨7, 0, 4096, 0, [], []⟩, ⟨8, 0, 4096, 0, [], []⟩], 1⟩)] } }

/-- Plan 7 is loaded on tile 0. -/
def loaded : State :=
  { withPart { Part.empty with plans := [loadedPlan 7] } with fabric := { tenants.fabric with halves := [(0, ⟨some (0, 7), none, false⟩)] } }

/-- The same plan runs for slot 3. -/
def invoked : State :=
  { loaded with parts := [(0, { Part.empty with plans := [loadedPlan 7], invs := [running 7], work := [⟨3, image 0x03 [(0x20, 7)], false, .running, []⟩] })] }

/-- The two plans on tile 0: plan 7 runs, and slot 4 waits to invoke plan 8. -/
def contested : State :=
  { loaded with parts := [(0, { Part.empty with
      plans := [loadedPlan 7, loadedPlan 8], invs := [running 7]
      work := [⟨3, image 0x03 [(0x20, 7)], false, .running, []⟩, ⟨4, image 0x03 [(0x20, 8)], false, .held, []⟩] })] }

theorem starts_unload : Starts 0x02 (sealed 0x02 [(0x20, 7)]) [] loaded :=
  ⟨⟨by decide +kernel, by decide +kernel, by decide +kernel, by decide +kernel, by decide +kernel, by decide +kernel⟩,
    by decide +kernel, by decide +kernel, by decide +kernel, by decide +kernel, by decide +kernel⟩
theorem witness_PlanLoading : Starts 0x01 (sealed 0x01 [(0x20, 5), (0x28, 7)]) [] loaded ∧
    after (.planLoad (sealed 0x01 [(0x20, 5), (0x28, 7)]) clean) loaded (fun t => t.fromHost 0x1004 1 = [0] ∧ (t.part 0).plans.length = 1) = true ∧
    after (.planLoad (sealed 0x01 [(0x20, 256)]) clean) loaded (fun t => t.fromHost 0x1004 1 = [0x33] ∧ t.rdn 0x3001 1 = 16) = true ∧
    after (.planLoad (sealed 0x01 [(0x20, 5), (0x28, 9)]) clean) loaded (fun t => t.fromHost 0x1004 1 = [0x33]) = true ∧
    after (.planUnload (sealed 0x02 [(0x20, 7)])) loaded (fun t => t.fromHost 0x1004 1 = [0] ∧ (t.part 0).plans = [] ∧ t.fabric.halves = []) = true ∧
    after (.planUnload (sealed 0x02 [(0x20, 8)])) loaded (fun t => t.fromHost 0x1004 1 = [0x14]) = true :=
  ⟨⟨⟨by decide +kernel, by decide +kernel, by decide +kernel, by decide +kernel, by decide +kernel, by decide +kernel⟩,
    by decide +kernel, by decide +kernel, by decide +kernel, by decide +kernel, by decide +kernel⟩, by decide +kernel⟩
theorem witness_PlanLoading_staged :
    after (.stagedPlanStart 0 7) { loaded with fabric := { loaded.fabric with halves := [(0, ⟨none, some (0, 7), true⟩)] } }
      (fun t => (t.halves 0).running = some (0, 7)) = true ∧ loaded.tileMode 0 ≠ 5 := by decide +kernel
theorem witness_Invocations : Starts 0x03 (sealed 0x03 [(0x20, 7)]) [] loaded ∧ State.copiesOk (sealed 0x03 [(0x20, 7)]).raw = true ∧
    after (.invoke (sealed 0x03 [(0x20, 7)]) clean) loaded (fun t => (t.part 0).invs.length = 1 ∧ t.rdn 0x701A 1 = 0) = true ∧
    after (.invoke (sealed 0x03 [(0x20, 6)]) clean) loaded (fun t => t.fromHost 0x1004 1 = [0x14]) = true ∧
    after (.invoke (sealed 0x03 [(0x20, 7), (0x28, 5)]) clean) loaded (fun t => t.fromHost 0x1004 1 = [0x12]) = true ∧
    after (.invoke (sealed 0x03 [(0x20, 7), (0x28, 1), (0x30, 0x800000000001), (0x36, 0x1000000000), (0x3C, 64)]) clean) loaded
      (fun t => t.fromHost 0x1004 1 = [0x11]) = true ∧
    after (.invoke (sealed 0x03 [(0x20, 7), (0x28, 1), (0x30, 0x800000000000), (0x36, 0x17FFFFFFC0), (0x3C, 64)]) clean) loaded
      (fun t => t.fromHost 0x1004 1 = [0x10]) = true ∧
    after (.invoke (sealed 0x03 [(0x20, 7), (0x28, 1), (0x30, 0x800000009000), (0x36, 0x1000000040), (0x3C, 64)]) clean)
      { loaded with link := { loaded.link with bme := [0] } } (fun t => t.rdn 0x2101 1 = 16 ∧ (t.part 0).invs = []) = true ∧
    after (.invoke (sealed 0x03 [(0x20, 7), (0x28, 1), (0x30, 0x800000009000), (0x36, 0x1000000040), (0x3C, 2)]) clean)
      (loaded.toHost 0x9000 [5, 6]) (fun t => t.readWindow 0 0x40 2 = [5, 6] ∧ (t.part 0).invs.length = 1) = true :=
  ⟨⟨⟨by decide +kernel, by decide +kernel, by decide +kernel, by decide +kernel, by decide +kernel, by decide +kernel⟩,
    by decide +kernel, by decide +kernel, by decide +kernel, by decide +kernel, by decide +kernel⟩, by decide +kernel⟩
theorem witness_Invocations_abort : Seals 0x04 ⟨0, 9, false, image 0x04 [(0x20, 1)], false⟩ invoked ∧
    after (.abort ⟨0, 9, false, image 0x04 [(0x20, 1)], false⟩) invoked (fun t => (t.part 0).invs.all fun v => v.stop = .abort) = true ∧
    after (.abort ⟨0, 9, false, image 0x04 [(0x20, 2)], false⟩) invoked (fun t => (t.part 0).invs.all fun v => v.stop = .none) = true ∧
    after (.abort ⟨0, 9, false, image 0x04 [(0x20, 1)], false⟩) ordered (fun t => (t.part 0).work.length = 2) = true :=
  ⟨⟨by decide +kernel, by decide +kernel, by decide +kernel, by decide +kernel, by decide +kernel, by decide +kernel⟩, by decide +kernel⟩
theorem witness_InvocationProgress : invoked.progresses 0 7 = true ∧ (planOf 7).cheaps[1]?.isSome = true ∧
    (planOf 7).usable ⟨1, true, false, false, false, 100, 0, 0, 0⟩ = true ∧
    after (.invocationEnd 0 7 ⟨[], true⟩) invoked (fun t => (t.part 0).invs = [] ∧ t.fromHost 0x1004 1 = [0x23]) = true ∧
    after (.preemptResume 0 7) { invoked with time := 9, parts := [(0, { invoked.part 0 with invs := [{ running 7 with stopped := true }] })] }
      (fun t => (t.part 0).invs.all fun v => !v.stopped && v.resumed = 9) = true ∧
    after (.timeSliceExpiry 0 7) { entries contested [(0x701C, 1, 100)] with time := 100 } (fun t => (t.part 0).invs.all fun v => v.stop = .slice) = true ∧
    after (.timeSliceExpiry 0 7) { entries contested [(0x701C, 1, 100)] with time := 99 } (fun t => (t.part 0).invs.all fun v => v.stop = .none) = true ∧
    after (.timeSliceExpiry 0 7) { contested with time := 100 } (fun t => (t.part 0).invs.all fun v => v.stop = .none) = true := by decide +kernel
theorem witness_WeightPages_hints : invoked.hintOf 0 7 0 1 = some (0, 2) ∧ invoked.hintOf 0 7 1 2 = some (0, 1) ∧ invoked.hintOf 0 7 2 3 = some (0, 1) ∧
    after (.hintPrefetch 0 7 0) invoked (fun t => (t.part 0).migrations.map Migration.page = [0, 1]) = true ∧
    after (.hintPin 0 7 1) invoked (fun t => t.pinCount 0 0 = 1) = true ∧
    after (.hintPin 0 7 1) (entries invoked [(0x7013, 1, 0)]) (fun t => t.pinCount 0 0 = 0 ∧ t.rdn 0x4001 1 = 128) = true ∧
    after (.hintUnpin 0 7 2) { invoked with parts := [(0, { invoked.part 0 with plans := [{ loadedPlan 7 with pins := [(0, 1)] }] })] }
      (fun t => t.pinCount 0 0 = 0) = true := by decide +kernel

/-- Page 3 of model 5 is being read for a demand that took frame 0. -/
def migrating : State :=
  { invoked with
    parts := [(0, { invoked.part 0 with frames := [(0, .filling 3)], migrations := [⟨3, true, false, some 0, 0, [⟨7, 0, 0⟩], true⟩] })]
    bedrock := { invoked.bedrock with reads := [⟨0, ⟨5, false, 3⟩, 0, [], none, false, false, false, false, true, none⟩] } }

theorem witness_WeightPages_migrations : invoked.planRuns 0 7 = true ∧ invoked.pageFrame 0 3 = none ∧
    invoked.pageModel 3 = some ⟨5, false, 3⟩ ∧
    after (.demandMigration 0 7 0 3) invoked (fun t => t.frame 0 0 = .filling 3 ∧ (t.part 0).migrations.length = 1) = true ∧
    after (.demandMigration 0 7 0 3) { invoked with bedrock := { invoked.bedrock with lost := [⟨⟨5, false, 3⟩, 0⟩] } }
      (fun t => (t.part 0).invs = [] ∧ t.fromHost 0x1004 1 = [0x21]) = true ∧
    after (.demandMigration 0 7 0 3) (entries invoked [(0x7013, 1, 0)]) (fun t => t.fromHost 0x1004 1 = [0x25]) = true ∧
    (migrating.findRead 0 ⟨5, false, 3⟩).isSome = true ∧ migrating.pageModel 3 = some ⟨5, false, 3⟩ ∧ migrating.powered 0 = true := by decide +kernel

/-- A merge buffer entry holds byte 1 of line 2 of channel 0. -/
def merging : State := { tenants with mem := { tenants.mem with merge := [⟨0, 2, 2, 0x1100⟩] } }

/-- Row 7 of bank 3 of channel 0 has shown an uncorrected error (R119). -/
def wornRow (s : State) : State := { s with faults := { s.faults with rowUe := [(28675, [0])], channelUe := [(0, [0])] } }

theorem witness_MemoryService : merging.alive = true ∧ merging.linePoisoned 0 2 = false ∧ tenants.channelOn 0 = true ∧
    merging.bondedByte 0 129 = 0x11 ∧
    after (.mergeEntryTimeout 0 2) merging (fun t => t.mem.merge = [] ∧ t.bondedByte 0 129 = 0x11) = true ∧
    after (.barMemoryWrite 0 130 [7, 8]) merging (fun t => t.bondedByte 0 129 = 0x11 ∧ t.bondedByte 0 130 = 7 ∧ t.bondedByte 0 131 = 8) = true ∧
    after (.barMemoryWrite 255 0x7FFFFFF [9]) merging (fun t => t.bondedByte 255 0x7FFFFFF = 9) = true ∧
    after (.clearDone (.channel 3)) { tenants with mem := { tenants.mem with clearing := [.channel 3] } } (fun t => t.mem.clearing = []) = true ∧
    after (.scrubPass 0 [(.corrected, 0)]) { tenants with time := 5 } (fun t => t.rdn 0x4130 1 = 5 ∧ t.rdn 0x4110 1 = 1 ∧ t.rdn 0x9003 4 = 1) = true ∧
    after (.softRowRepair 0 3 7 1) (entries tenants [(0x4002, 3, 1)]) (fun t => t.persist.repairs = [] ∧ t.rdn 0x4001 1 = 0) = true ∧
    after (.softRowRepair 0 3 7 1) (wornRow (entries tenants [(0x4002, 3, 1)])) (fun t => t.persist.repairs = [⟨0, 3, 7⟩] ∧ t.rdn 0x4001 1 = 32) = true ∧
    after (.softRowRepair 0 3 7 0) { wornRow (entries tenants [(0x4002, 3, 1)]) with persist := { tenants.persist with
      repairs := [⟨0, 3, 1⟩, ⟨0, 3, 2⟩, ⟨0, 3, 3⟩, ⟨0, 3, 4⟩] } } (fun t => t.persist.repairs.length = 4 ∧ t.rdn 0x4001 1 = 64) = true := by decide +kernel
theorem witness_MemoryCanonical : merging.mem.wf ∧
    after (.barMemoryWrite 0 128 [0]) { merging with mem := { merging.mem with merge := [], bonded := [(128, 5)] } } (fun t => t.mem.bonded = []) = true := by
  decide +kernel

/-! ### The bedrock store -/

/-- The wheel stands at position 511, whose slot partition 0 owns. -/
def wheeled : State :=
  { invoked with bedrock := { invoked.bedrock with wheel := List.replicate 511 128 ++ [0], position := 511 } }

theorem witness_WheelAndReads : wheeled.wheelRuns = true ∧ wheeled.ftlRuns = true ∧
    after (.wheelSlot false) wheeled (fun t => t.bedrock.position = 0) = true ∧
    after .slotPlacementApply { wheeled with bedrock := { wheeled.bedrock with nextWheel := some [128] } }
      (fun t => t.bedrock.wheel = [128] ∧ t.bedrock.position = 0) = true ∧
    (migrating.part 0).migrations.all (fun m => m.demand) = true := by decide +kernel

/-- A read of page 3 whose slot result is due, at a ladder step with some chunks left. -/
def reading (step : Nat) (left : List Nat) : State :=
  { migrating with bedrock := { migrating.bedrock with reads := [⟨0, ⟨5, false, 3⟩, step, left, none, false, true, false, false, false, none⟩] } }

theorem witness_WheelAndReads_ladder :
    after (.chunkDecodeResult 0 ⟨5, false, 3⟩ [] true) (reading 0 [0, 1]) (fun t => t.bedrock.reads.all fun r => r.ready && r.left = []) = true ∧
    after (.chunkDecodeResult 0 ⟨5, false, 3⟩ [1] true) (reading 5 [0, 1]) (fun t => t.bedrock.reads.all fun r => r.step = 6 && r.left = [1]) = true ∧
    after (.chunkDecodeResult 0 ⟨5, false, 3⟩ [0, 1] true) (reading 6 [0, 1]) (fun t => t.bedrock.reads = [] ∧ t.bedrock.lost.length = 1) = true ∧
    after (.chunkDecodeResult 0 ⟨5, false, 3⟩ [1] true) (reading 6 [1])
      (fun t => t.bedrock.reads.all fun r => r.left = [16] && r.parityFor = some 1 && r.step = 0) = true ∧
    after (.chunkDecodeResult 0 ⟨5, false, 3⟩ [] false) (reading 0 [0]) (fun t => t.bedrock.lost.length = 1) = true := by decide +kernel


/-- A load of plan 8 waits for the last page of its image, which slot position 0 reads. -/
def imaging (left : List PageId) : State :=
  { wheeled with
    parts := [(0, { wheeled.part 0 with loads := [⟨4, 8, 5, left, false, false, false⟩], work := [⟨4, image 0x01 [(0x20, 5), (0x28, 8)], false, .running, []⟩] })]
    bedrock := { wheeled.bedrock with reads := [⟨0, ⟨5, true, 0⟩, 0, [0, 1], none, false, true, false, false, false, none⟩] } }

theorem witness_PlanLoading_reads :
    after (.planLoad (sealed 0x01 [(0x20, 5), (0x28, 8)]) clean) loaded (fun t =>
      (t.part 0).loads.map LoadJob.left = [[⟨5, true, 0⟩]] ∧ (t.part 0).plans.length = 1) = true ∧
    after (.planLoad (sealed 0x01 [(0x20, 5), (0x28, 8)]) clean) { loaded with bedrock := { loaded.bedrock with lost := [⟨⟨5, true, 0⟩, 0⟩] } }
      (fun t => t.fromHost 0x1004 1 = [0x21] ∧ (t.part 0).loads = []) = true ∧
    after (.chunkDecodeResult 0 ⟨5, true, 0⟩ [] true) (imaging [⟨5, true, 0⟩])
      (fun t => (t.part 0).loads = [] ∧ (t.part 0).plans.length = 1 ∧ t.fromHost 0x1004 1 ≠ [0]) = true ∧
    after (.chunkDecodeResult 0 ⟨5, true, 0⟩ [] true) (imaging [⟨5, true, 0⟩, ⟨5, true, 1⟩])
      (fun t => (t.part 0).loads.map LoadJob.left = [[⟨5, true, 1⟩]]) = true := by decide +kernel
theorem witness_Descriptors_start :
    after (.descriptorStart 0 clean) { contested with parts := [(0, { contested.part 0 with invs := [], work := ((contested.part 0).work.drop 1) })] }
      (fun t => (t.part 0).invs.length = 1) = true ∧
    after (.descriptorStart 0 clean) invoked (fun t => (t.part 0).invs.length = 1 ∧ (t.part 0).work.length = 1) = true := by decide +kernel

theorem witness_BlockUpkeep : wheeled.alive = true ∧ 7 < wheeled.blockCount ∧ (wheeled.block 7).retired = false ∧ wheeled.blockReads 7 = 0 ∧
    after (.relocateThreshold 7) wheeled (fun t => t.bedrock.upkeep = []) = true ∧
    after (.relocateThreshold 7) (entries wheeled [(0x4402, 1, 0)]) (fun t => t.bedrock.upkeep = [⟨.relocate, 7⟩]) = true ∧
    after (.refreshDue 7) (entries wheeled [(0x4402, 2, 0)]) (fun t => t.bedrock.upkeep = [⟨.refresh, 7⟩]) = true ∧
    after (.refreshDue 7) wheeled (fun t => t.bedrock.upkeep = []) = true ∧
    after (.patrolRead 7 200 0) wheeled (fun t => t.blockReads 7 = 1 ∧ t.bedrock.upkeep = [⟨.refresh, 7⟩]) = true ∧
    after (.patrolRead 7 0 0) wheeled (fun t => t.blockReads 7 = 1 ∧ t.bedrock.upkeep = []) = true ∧
    after (.blockRetire 7) wheeled (fun t => (t.block 7).retired = true ∧ t.rdn 0x4403 4 = 1) = true := by decide +kernel
theorem witness_BlockUpkeep_dies : 2 < wheeled.dies ∧ wheeled.rdn 0x4404 3 < 2 ∧ ({ entries wheeled [(0x4404, 3, 2)] with bedrock := { wheeled.bedrock with rebuilding := [2] } } : State).dieBad 2 = true ∧
    after (.dieFailed 2) wheeled (fun t => t.rdn 0x4404 3 = 2 ∧ t.bedrock.rebuilding = [2] ∧ t.faults.faultN) = true ∧
    after (.dieRebuildDone 2) { entries wheeled [(0x4404, 3, 2)] with bedrock := { wheeled.bedrock with rebuilding := [2] } }
      (fun t => t.rdn 0x4404 3 = 3 ∧ t.bedrock.rebuilding = []) = true := by decide +kernel
theorem witness_SecondDieFailure :
    after (.dieFailed 2) { entries wheeled [(0x4404, 2, 2)] with bedrock := { wheeled.bedrock with rebuilding := [1], upkeep := [⟨.dieRebuild, 1⟩] } }
      (fun t => t.bedrock.rebuilding.length = 2 ∧ t.bedrock.upkeep.length = 2) = true := by decide +kernel

/-- Page 3 was rebuilt for chunk 1, and its new stripe is being programmed. -/
def rebuilding : State :=
  { migrating with bedrock := { wheeled.bedrock with
      library := [⟨⟨5, false, 3⟩, [], [], (List.range 17).map (· * 2480)⟩]
      reads := [⟨0, ⟨5, false, 3⟩, 0, [], some 1, false, false, true, true, false, none⟩] } }

theorem witness_WheelAndReads_rebuilt :
    after (.rebuiltStripeProgrammed 0 ⟨5, false, 3⟩) rebuilding (fun t => t.bedrock.reads.all (fun r => r.ready && !r.programming) = true ∧
      t.bedrock.upkeep = [⟨.relocate, 2480⟩]) = true ∧
    after (.dieFailed 1) { entries rebuilding [(0x4404, 1, 2)] with bedrock := { rebuilding.bedrock with rebuilding := [0] } }
      (fun t => t.isLost ⟨5, false, 3⟩) = true := by decide +kernel

/-- An install of model 6 writes its last page, page 4. -/
def installing (todo : List PageId) : State :=
  { wheeled with bedrock := { wheeled.bedrock with job := some ⟨6, false, false, todo, 0, 0, 0, 0⟩ } }

theorem witness_Installation : Running up ∧
    after (.install .pf [] false) (installing [⟨6, false, 4⟩]) (fun t => t.rdn 0x4480 6 = 2 ∧ t.rdn 0x4480 5 = 0) = true ∧
    State.pageAuthentic (installing [⟨6, true, 4⟩]) ⟨6, false, false, [⟨6, true, 4⟩], 0, 0, 0, 0⟩ ⟨6, true, 4⟩ = true ∧
    after (.installPage [] true true false) (installing [⟨6, true, 4⟩, ⟨6, true, 5⟩])
      (fun t => t.bedrock.job = some ⟨6, false, false, [⟨6, true, 5⟩], 0, 0, 0, 0⟩ ∧ t.rdn 0x4480 7 = 65536) = true ∧
    after (.installPage [] true true false) (installing [⟨6, true, 4⟩])
      (fun t => t.bedrock.job = none ∧ t.rdn 0x4480 6 = 1 ∧ (t.model 6).state = 2) = true ∧
    after (.installPage [] false true false) (installing [⟨6, false, 4⟩]) (fun t => t.bedrock.job = none ∧ t.rdn 0x4480 6 = 4) = true :=
  ⟨⟨by decide +kernel, by decide +kernel, by decide +kernel⟩, by decide +kernel⟩
theorem witness_Installation_remove : Reaches wheeled .pf 0x4480 3 ∧
    after (.remove .pf) (entries wheeled [(0x4480, 4, 9)]) (fun t => t.rdn 0x4480 6 = 11) = true ∧
    after (.remove .pf) (entries wheeled [(0x4480, 4, 5)]) (fun t => t.rdn 0x4480 6 = 10 ∧ (t.model 5).state = 2) = true ∧
    after (.remove .pf) (entries { wheeled with parts := [] } [(0x4480, 4, 5)]) (fun t => t.rdn 0x4480 6 = 1 ∧ (t.model 5).state = 0) = true ∧
    after (.installAbort .pf) (installing [⟨6, false, 4⟩]) (fun t => t.rdn 0x4480 5 = 4 ∧ t.bedrock.job = some ⟨6, false, true, [⟨6, false, 4⟩], 0, 0, 0, 0⟩) = true :=
  ⟨reaches_pf (by decide +kernel) _ _, by decide +kernel⟩

/-- The front of a package of one plan and one wrap entry, with no pages (Tables 14-4 to 14-6). -/
def package : List Byte :=
  leBytes 64 (0x474B504D + 0x0100 * 2 ^ 32 + 0x40 * 2 ^ 48 + 65536 * 2 ^ 64 + 2112 * 2 ^ 128 + 1 * 2 ^ 160 + 16384 * 2 ^ 256 + 16384 * 2 ^ 320) ++
    leBytes 64 (1 * 2 ^ 480) ++ List.replicate 2048 0 ++ List.replicate 3312 0 ++ List.replicate 6512 0 ++ [1] ++ List.replicate 1215 0

theorem witness_Installation_package : package.length = Package.frontBytes package ∧ Package.headerOk package = true ∧ Package.formatOk package = true ∧
    Package.packageBytes package = 65536 := by decide +kernel

/-! ### Streams -/

/-- A stream parameter record (Table 6-1): 16-bit samples, one channel, hop 16, 16 kHz, two frames to a chunk, stride 1, 64 bytes of state, batches of 4, token output of one token. -/
def params : List Byte :=
  leBytes 64 (1 * 2 ^ 72 + 16 * 2 ^ 80 + 16000 * 2 ^ 96 + 2 * 2 ^ 128 + 1 * 2 ^ 152 + 64 * 2 ^ 160 + 4 * 2 ^ 192 + 1 * 2 ^ 224 + 64 * 2 ^ 288 +
    0x1000001000 * 2 ^ 384 + 64 * 2 ^ 480 + 0x1000000000 * 2 ^ 320)

/-- Group 3 of partition 0 runs plan 7 with berths 0 and 1; the partition has streams 10 to 17, and stream 11 stands as `x`. -/
def streamed (x : Stream) : State :=
  let s := entries { loaded with time := 1000 } [(0x5100, 4, 0), (0x5101, 4, 5), (0x5102, 4, 7), (0x5104, 4, 2), (0x5010, 1, 10), (0x5011, 1, 8)]
  { s with streams := [(11, x)]
           parts := [(0, { s.part 0 with frames := [(1, .swap 11)] })]
           bedrock := { s.bedrock with models := [(5, ⟨2, 0, 0x100000, [], [], [], [⟨7, 0, 4096, 1, [], params⟩], 1⟩)] } }

def idle : Stream := { Stream.free with state := .idle, group := 3, next := 4, tag := 9, image := List.replicate 64 1 }

/-- The header of a chunk for slot 0: ChunkSeq 4, 32 samples, a result of 40 bytes, with a good Seal and one more field. -/
def header (extra : Nat) : BitVec 512 :=
  BitVec.ofNat 512 (4 + 32 * 2 ^ 32 + 0x800000005000 * 2 ^ 128 + 40 * 2 ^ 192 + 6 * 2 ^ 256 + 0x5EA10004 * 2 ^ 480 + extra)

/-- A chunk taken into slot 0. -/
def chunk (phase : ChunkPhase) : Chunk :=
  { seq := 4, slot := 0, samples := 32, look := 0, reset := none, final := false, irq := false, resultAddr := 0x800000005000, resultBytes := 40
    tag := 6, sealTime := 5, gap := 0, feed := none, payload := [], behind := [], phase := phase }

theorem witness_ChunksAndContexts : Params.ok params = true ∧ (streamed idle).groupRunning 3 = true ∧
    after (.openStream (sealed 0x40 [(0x20, 0), (0x22, 3), (0x24, 7), (0x28, 5)])) (streamed idle)
      (fun t => (t.stream 10).state = .idle ∧ (t.stream 10).next = 7 ∧ (t.stream 10).image = List.replicate 64 0 ∧ t.stream 11 = idle) = true ∧
    after (.openStream (sealed 0x40 [(0x20, 1), (0x22, 3)])) (streamed idle) (fun t => t.fromHost 0x1004 1 = [0x44]) = true ∧
    after (.openStream (sealed 0x40 [(0x20, 8), (0x22, 3)])) (streamed idle) (fun t => t.fromHost 0x1004 1 = [0x10]) = true ∧
    after (.openStream (sealed 0x40 [(0x20, 0), (0x22, 4)])) (streamed idle) (fun t => t.fromHost 0x1004 1 = [0x40]) = true ∧
    after (.openStream (sealed 0x40 [(0x20, 0), (0x22, 3)])) (entries (streamed idle) [(0x7013, 1, 0)]) (fun t => t.fromHost 0x1004 1 = [0x25]) = true ∧
    after (.close (sealed 0x41 [(0x20, 1)])) (streamed idle) (fun t => t.stream 11 = Stream.free ∧ (t.part 0).frames = []) = true ∧
    after (.close (sealed 0x41 [(0x20, 1)])) (streamed { idle with chunks := [chunk (.inStep 0)] }) (fun t => (t.stream 11).closing = some 3) = true ∧
    after (.close (sealed 0x41 [(0x20, 0)])) (streamed idle) (fun t => t.fromHost 0x1004 1 = [0x40]) = true ∧
    after (.closeComplete 11) (streamed { idle with closing := some 3 }) (fun t => t.stream 11 = Stream.free) = true := by decide +kernel
theorem witness_ChunksAndContexts_seals : (streamed idle).streamNo 0 1 = 11 ∧ (streamed idle).takesSeals 0 false = true ∧
    (1 : Nat) < 2 ^ ((streamed idle).link.aperture - 17) ∧ (streamed idle).chunkCheck 11 (leBytes 64 (header 0).toNat) 0 = 0 ∧
    after (.chunkSeal 0 1 0 (header 0) [1, 2] false) (streamed idle)
      (fun t => (t.stream 11).next = 5 ∧ (t.stream 11).chunks.all (fun c => c.seq = 4 && c.sealTime = 1000) = true ∧ (t.stream 11).chunks.length = 1) = true ∧
    after (.chunkSeal 0 1 0 (header (2 ^ 96)) [] false) (streamed idle) (fun t => (t.stream 11).chunks = [] ∧ t.fromHost 0x1004 1 = [0x12]) = true ∧
    after (.chunkSeal 0 1 0 (header (2 ^ 48)) [] false) (streamed idle) (fun t => t.fromHost 0x1004 1 = [0x12]) = true ∧
    after (.chunkSeal 0 1 1 (header 0) [] false) (streamed idle) (fun t => t.fromHost 0x1004 1 = [0x41]) = true ∧
    after (.chunkSeal 0 1 0 (header 0) [] false) (streamed { idle with chunks := [chunk .wantBerth] })
      (fun t => t.rdn 0x5300 12 = 1 ∧ t.rdn 0x5001 1 = 1) = true ∧
    after (.chunkSeal 0 9 0 (header 0) [] false) (streamed idle) (fun t => t.rdn 0x5001 1 = 512) = true ∧
    (match exec (.chunkSeal 0 1 0 (header 0) [] true) (streamed idle) with | .fault f => f = .sealReordered | _ => false) = true := by decide +kernel
theorem witness_Admission : (streamed idle).holdsSlot 11 0 = false ∧
    after (.chunkWindowWrite 0 1 0 0x40 [7]) (streamed idle) (fun t => (NMap.get (fun _ => []) (t.stream 11).window 0)[0x40]? = some 7) = true ∧
    after (.swapInDone 11) (streamed { idle with berth := some 1, chunks := [chunk .swapping] })
      (fun t => t.readState 0 1024 2 = [1, 1] ∧ (t.stream 11).chunks = [chunk (.ready 1000)]) = true ∧
    after (.berthGrant 3) { streamed { idle with chunks := [chunk .wantBerth] } with groups := [(3, ⟨[], none, 0, [11]⟩)] }
      (fun t => (t.stream 11).berth = some 0 ∧ (t.stream 11).chunks = [chunk .swapping]) = true ∧
    (streamed idle).tickHolds 3 (loadedPlan 7) = false ∧ (streamed idle).groupLoaded 3 = some (loadedPlan 7) ∧
    after (.groupTick 3 clean) (streamed { idle with berth := some 0, chunks := [chunk (.ready 980)] })
      (fun t => (t.stream 11).chunks.all (fun c => c.phase = .inStep 0) = true ∧ (t.group 3).steps.length = 1 ∧ t.rdn 0x5108 4 = 1) = true ∧
    after (.groupTick 3 clean) (streamed { idle with berth := some 0, chunks := [chunk (.ready 981)] }) (fun t => (t.group 3).steps = []) = true := by
  decide +kernel

/-- Step 0 of group 3 holds the chunk of stream 11 in lane 0. -/
def stepping : State :=
  { streamed { idle with berth := some 0, chunks := [chunk (.inStep 0)] } with groups := [(3, ⟨[⟨0, 990, [(0, 11)], false, []⟩], none, 1, []⟩)] }

theorem witness_StepEnds : stepping.stepGoes 0 (loadedPlan 7) = true ∧ (stepping.group 3).steps = [⟨0, 990, [(0, 11)], false, []⟩] ∧
    stepping.windowPoison 0 (State.windowOff (Params.outBase params)) (Params.payload params) = false ∧ stepping.params 3 = params ∧
    region 0x800000005000 = some (.host 0x800000005000) ∧ stepping.busAddr 0 0x800000005000 = 0x5000 ∧ stepping.busMaster 1 = true ∧
    (State.completeLane 0 3 ⟨0, 990, [(0, 11)], false, []⟩ stepping (0, 11)).fromHost 0x5000 4 ≠ [0, 0, 0, 0] ∧
    (State.completeLane 0 3 ⟨0, 990, [(0, 11)], false, []⟩ stepping (0, 11)).rdn 0x5001 1 = 0 ∧
    ((State.completeLane 0 3 ⟨0, 990, [(0, 11)], false, []⟩ stepping (0, 11)).stream 11).chunks = [] := by decide +kernel

/-- TDM port 0 runs; channel 0 plays stream 11. -/
def playing (fifo : List W16) : State :=
  { entries (streamed idle) [(0x5500, 1, 0x10000), (0x5510, 1, 11)] with tdm := [(0, ⟨fifo, true, 0⟩)] }

theorem witness_TdmFrames : (playing []).tdmRate 0 ≠ 0 ∧ (playing []).tdmStream 0 = 11 ∧
    after (.tdmFrame 0) (playing [5, 6]) (fun t => (t.tdmChannel 0).fifo = [6] ∧ t.out.length = 1) = true ∧
    after (.tdmFrame 0) (playing []) (fun t => t.rdn 0x5512 1 = 1 ∧ t.rdn 0x5512 2 = 0) = true := by decide +kernel

/-- A ticket of group 3 of partition 0. -/
def ticketed : State := { streamed idle with tickets := [⟨7, 0, 3, 0, 500⟩, ⟨8, 0, 3, 0, 5000⟩] }

theorem witness_StreamMoves : ticketed.tickets.length < 256 ∧ ticketed.randomFailed = false ∧ ticketed.busMaster 1 = true ∧
    after (.ticket (sealed 0x42 [(0x20, 3), (0x28, 0x800000010000), (0x30, 6575)]) clean) ticketed
      (fun t => t.tickets.length = 2 ∧ t.fromHost 0x1004 1 = [0x10]) = true ∧
    after (.ticket (sealed 0x42 [(0x20, 2), (0x28, 0x800000010000), (0x30, 6576)]) clean) ticketed (fun t => t.fromHost 0x1004 1 = [0x40]) = true ∧
    after (.ticket (sealed 0x42 [(0x20, 3), (0x28, 0x800000010000), (0x30, 6576)]) clean) (entries ticketed [(0xA040, 1, 2)])
      (fun t => t.fromHost 0x1004 1 = [0x81]) = true ∧
    after (.ticketExpiry 7) ticketed (fun t => t.tickets.map Ticket.value = [8]) = true ∧
    after (.ticketExpiry 8) ticketed (fun t => t.tickets.map Ticket.value = [7, 8]) = true := by decide +kernel

/-- The first 64 bytes of a ticket record (Table 6-7), for a certificate of no bytes. -/
def ticketHead : List Byte := leBytes 64 (0x544B5453 + 0x0100 * 2 ^ 32)

theorem witness_StreamMoves_export :
    after (.exportStream (sealed 0x43 [(0x20, 1), (0x28, 0x800000010000), (0x30, 64), (0x34, 20000)]) ticketHead clean)
        (streamed { idle with chunks := [chunk (.inStep 0)] })
      (fun t => (t.stream 11).state = .idle ∧ t.fromHost 0x1004 1 = [0x80] ∧ t.sec.log.length = 1) = true ∧
    after (.exportStream (sealed 0x43 [(0x20, 0)]) [] clean) (streamed idle) (fun t => t.fromHost 0x1004 1 = [0x40]) = true ∧
    after (.exportStream (sealed 0x43 [(0x20, 8)]) [] clean) (streamed idle) (fun t => t.fromHost 0x1004 1 = [0x10]) = true ∧
    after (.exportStream (sealed 0x43 [(0x20, 1)]) [] clean) (streamed { idle with state := .frozen }) (fun t => t.fromHost 0x1004 1 = [0x44]) = true ∧
    (streamed { idle with exporting := some 3 }).streamPart 11 = some 0 := by decide +kernel
theorem witness_StreamMoves_import :
    after (.importStream (sealed 0x44 [(0x20, 8)]) [] clean) (streamed idle) (fun t => t.fromHost 0x1004 1 = [0x10] ∧ t.rdn 0x5001 1 = 64) = true ∧
    after (.importStream (sealed 0x44 [(0x20, 0), (0x22, 3), (0x24, 64), (0x28, 0x800000010000)]) [1] clean) (streamed idle)
      (fun t => t.fromHost 0x1004 1 = [0x10] ∧ t.rdn 0x5001 1 = 64 ∧ (t.stream 10).state = .free) = true := by decide +kernel

/-! ### Sequences -/

/-- An attention parameter record: one layer, one head of 64 elements in format 0, at most 4 lanes of at most 8 new tokens over at most 64. -/
def attention : List Byte := leBytes 64 (1 * 2 ^ 64 + 1 * 2 ^ 72 + 64 * 2 ^ 80 + 4 * 2 ^ 112 + 64 * 2 ^ 128 + 8 * 2 ^ 160)

/-- Partition 0 has sequences 20 to 23 and a pool of eight pages, and plan 7 is an attention plan; sequence 20 stands as `x`. -/
def attended (x : Seq) : State :=
  let s := entries loaded [(0x5810, 1, 20), (0x5811, 1, 4), (0x5812, 1, 4)]
  { s with seqs := [(20, x)], pools := [(0, ⟨[(1, 1)], []⟩)]
           parts := [(0, { s.part 0 with plans := [{ loadedPlan 7 with kind := 2, params := attention }] })] }

def opened : Seq := { Seq.free with state := .opened, layers := 1, heads := 1, headSize := 64, fmt := 0, maxTokens := 8, tag := 3, dir := 1 }

/-- A SEQ_OPEN of sequence `i` with a layout of `layers`. -/
def opens (i layers tokens : Nat) : DescImage := sealed 0x50 [(0x20, i), (0x22, layers), (0x23, 1), (0x24, 64), (0x28, tokens), (0x30, 9)]

theorem witness_Sequences :
    after (.seqOpen (opens 1 1 8)) (attended opened) (fun t => t.seq 21 = { opened with tag := 9, dir := 2 } ∧ t.pageCount 0 2 = 1 ∧ t.seq 20 = opened) = true ∧
    after (.seqOpen (opens 0 1 8)) (attended opened) (fun t => t.fromHost 0x1004 1 = [0x51]) = true ∧
    after (.seqOpen (opens 4 1 8)) (attended opened) (fun t => t.fromHost 0x1004 1 = [0x10]) = true ∧
    after (.seqOpen (opens 1 0 8)) (attended opened) (fun t => t.fromHost 0x1004 1 = [0x52]) = true ∧
    after (.seqOpen (opens 1 1 0)) (attended opened) (fun t => t.fromHost 0x1004 1 = [0x10]) = true ∧
    after (.seqOpen (opens 1 1 8)) (entries (attended opened) [(0x5812, 1, 0)]) (fun t => t.fromHost 0x1004 1 = [0x55]) = true ∧
    after (.seqClose (sealed 0x51 [(0x20, 0)])) (attended opened) (fun t => t.seq 20 = Seq.free ∧ t.pageCount 0 1 = 0) = true ∧
    after (.seqClose (sealed 0x51 [(0x20, 1)])) (attended opened) (fun t => t.fromHost 0x1004 1 = [0x50]) = true ∧
    after (.seqFork (sealed 0x52 [(0x20, 0), (0x22, 1), (0x28, 8)])) (attended opened) (fun t => (t.seq 21).state = .opened ∧ (t.seq 21).dir = 2) = true ∧
    after (.seqFork (sealed 0x52 [(0x20, 0), (0x22, 0), (0x28, 8)])) (attended opened) (fun t => t.fromHost 0x1004 1 = [0x51]) = true ∧
    after (.seqFork (sealed 0x52 [(0x20, 0), (0x22, 1), (0x24, 1), (0x28, 8)])) (attended opened) (fun t => t.fromHost 0x1004 1 = [0x53]) = true ∧
    after (.seqTruncate (sealed 0x53 [(0x20, 0), (0x24, 2)])) (attended { opened with length := 5 }) (fun t => (t.seq 20).length = 2) = true ∧
    after (.seqTruncate (sealed 0x53 [(0x20, 0), (0x24, 6)])) (attended { opened with length := 5 }) (fun t => t.fromHost 0x1004 1 = [0x53]) = true := by
  decide +kernel

theorem starts_open : Starts 0x50 (opens 1 1 8) [] (attended opened) := by unfold Starts Seals; decide +kernel
theorem starts_close : Starts 0x51 (sealed 0x51 [(0x20, 0)]) [] (attended opened) := by unfold Starts Seals; decide +kernel
theorem starts_fork : Starts 0x52 (sealed 0x52 [(0x20, 0), (0x22, 1), (0x28, 8)]) [] (attended opened) := by unfold Starts Seals; decide +kernel
theorem starts_truncate : Starts 0x53 (sealed 0x53 [(0x20, 0), (0x24, 2)]) [] (attended { opened with length := 5 }) := by
  unfold Starts Seals; decide +kernel
theorem witness_SequencesComplete :
    let b := begun (opens 1 1 8) [] (attended opened)
    b.seqBase 0 = 20 ∧ b.seqCount 0 = 4 ∧ (b.seq 21).state = .free ∧ (b.seq 20).state = .opened ∧ State.layoutOk 1 1 64 0 = true ∧
    State.regionPages { opened with tag := 9 } 8 ≤ 2097152 ∧ b.pageFree 0 2 = true ∧ b.pageFree 0 0 = false ∧ b.pageFree 0 1 = false ∧
    (∀ v < 4, State.kvPage opened v = none) ∧ 1 + (State.regionPages opened 0 + 8191) / 8192 ≤ b.freePages 0 ∧
    after (.seqTruncate (sealed 0x53 [(0x20, 0), (0x24, 5)])) (attended { opened with length := 5 }) (fun t => (t.seq 20).length = 5) = true := by
  decide +kernel

/-- An ATTEND of `n` lanes with its tables in host memory. -/
def attends (n : Nat) : DescImage := sealed 0x54 [(0x20, 7), (0x28, 0x800000010000), (0x30, 0x800000020000), (0x38, n)]

theorem witness_AttendRuns : ((attended opened).findPlan 0 7).any (fun l => l.kind = 2) = true ∧ State.isHost 0x800000020000 = true ∧
    (attended opened).tableAt 0 7 0x800000010000 8 = 0 ∧ State.lanesAdjacent [0, 1, 0] = false ∧
    after (.attend (attends 2) (leBytes 16 (0 + 2 * 2 ^ 16 + 1 * 2 ^ 64 + 1 * 2 ^ 80)) clean) (attended opened)
      (fun t => (t.part 0).invs.all (fun v => v.lanes.map Lane.status = [0, 0x50]) = true ∧ (t.part 0).invs.length = 1 ∧ (t.seq 20).length = 2 ∧
        t.rdn 0x5817 1 = 1) = true ∧
    after (.attend (attends 1) (leBytes 8 (1 * 2 ^ 32)) clean) (attended opened) (fun t => t.fromHost 0x1004 1 = [0x12]) = true ∧
    after (.attend (attends 0) [] clean) (attended opened) (fun t => t.fromHost 0x1004 1 = [0x10]) = true ∧
    after (.attend (attends 0) [] clean) loaded (fun t => t.fromHost 0x1004 1 = [0x56]) = true := by decide +kernel
theorem witness_AttendRuns_end :
    after (.attendStepEnd 0 7 ⟨[], true⟩) { attended opened with parts := [(0, { (attended opened).part 0 with
        invs := [{ running 7 with attend := true, lanes := [⟨20, 2, 0, 2, 0, 0, false⟩] }], work := [⟨3, image 0x54 [(0x20, 7)], false, .running, []⟩] })] }
      (fun t => (t.part 0).invs = [] ∧ t.fromHost 0x1004 1 = [0x23]) = true := by decide +kernel

/-! ### Cameras and edge engines -/

/-- The device is ACTIVE. -/
def active : State := { tenants with power := { tenants.power with state := 4 } }

/-- Port 1 receives, and sensor 2 is bound to its channel 3: RAW8 frames of 4 by 2, one exposure, for partition 0. -/
def camera : State := entries active [(0x6010, 2, 1), (0x6020, 3, 1 * 2 ^ 30 + 3 * 2 ^ 24 + 1 * 2 ^ 22 + 0x2A), (0x6023, 3, 2 * 65536 + 4), (0x6024, 3, 0)]

/-- A frame of sensor 2 with `k` lines of its two received, for the pipeline `pipe`. -/
def frameOf (k : Nat) (pipe : Option (Nat × PipeCfg)) : Frame :=
  { seq := 6, start := 0, cfg := camera.sensorCfg 2, set := Settings.first, late := false, pipe := pipe, buffer := none, begun := [0], ended := []
    counts := if k = 0 then [] else [(0, k)], lines := [], cut := none, dropped := 0, long := false, embedded := [] }

def shooting (k : Nat) (pipe : Option (Nat × PipeCfg)) : State :=
  { camera with sensors := [(2, ⟨some (frameOf k pipe), Settings.first, none, [], 0⟩)] }

/-- A long packet of a line on channel 3 of port 1. -/
def line (crcOk full : Bool) : Instr := .longPacket 1 3 0x2A 4 true crcOk full [1, 2, 3, 4]

theorem witness_FrameReception : camera.portOn 1 = true ∧ camera.startSensor 1 3 = some 2 ∧ camera.channelSensor 1 4 = none ∧
    (shooting 0 none).channelSensor 1 3 = some (2, 0) ∧ State.lineExposure (frameOf 0 none).cfg 0 0x2A = some 0 ∧
    after (.frameStart 1 3) camera (fun t => (t.sensor 2).frame.any (fun f => f.seq = 1 && f.cfg = camera.sensorCfg 2) = true ∧ t.rdn 0x6053 3 = 1) = true ∧
    after (.frameStart 1 4) camera (fun t => t.rdn 0x6011 2 = 1 ∧ t.rdn 0x6001 1 = 8) = true ∧
    after (line true false) (shooting 0 none) (fun t => (t.sensor 2).frame.any (fun f => f.lines = [(0, [1, 2, 3, 4])] && f.counts = [(0, 1)]) = true) = true ∧
    after (line true false) (shooting 2 none) (fun t => (t.sensor 2).frame.any (fun f => f.long && f.dropped = 1) = true ∧ t.rdn 0x6063 3 = 1) = true ∧
    after (line false false) (shooting 1 none) (fun t => (t.sensor 2).frame.any (fun f => f.cut = some 1) = true ∧ t.rdn 0x6064 3 = 1) = true ∧
    after (line true true) (shooting 0 none) (fun t => (t.sensor 2).frame.any (fun f => f.cut = some 0) = true) = true ∧
    after (.longPacket 1 3 5 0 true true false []) (shooting 0 none) (fun t => t.rdn 0x6064 3 = 0) = true ∧
    after (.longPacket 1 3 5 0 false true false []) (shooting 0 none) (fun t => t.rdn 0x6064 3 = 1) = true ∧
    after (.longPacket 1 3 0x12 2 true true false [5, 6]) (shooting 0 none)
      (fun t => (t.sensor 2).frame.any (fun f => f.embedded = [5, 6] && f.cut = none) = true) = true ∧
    after (.longPacket 1 3 0x12 2 true false false [5, 6]) (shooting 1 none) (fun t => (t.sensor 2).frame.any (fun f => f.cut = some 1) = true ∧ t.rdn 0x6064 3 = 1) = true ∧
    after (.longPacket 1 3 0x2B 2 true true false [5, 6]) (shooting 1 none) (fun t => (t.sensor 2).frame.any (fun f => f.cut = some 1) = true) = true ∧
    after (.frameEnd 1 3) (shooting 1 none) (fun t => (t.sensor 2).frame = none ∧ t.rdn 0x6061 3 = 1) = true ∧
    after (.frameTimeout 2) (shooting 2 none) (fun t => (t.sensor 2).frame = none ∧ t.rdn 0x6061 3 = 0) = true := by decide +kernel

/-- A frame of pipeline 1, ended or noticed. -/
def notice : Notice := ⟨6, 0, 0, 0, none, 2, 0, 0, 5⟩
/-- Pipeline 1 with a notice ring of 4 records at 0x3000 and one notice ready. -/
def noticing : State :=
  let s := entries camera [(0x6101, 2, 0), (0x610B, 2, 0x800000003000), (0x610C, 2, 4)]
  { s with pipes := [(1, ⟨0, [⟨notice, s.pipeCfg 1, false, none⟩], [], [], []⟩)] }

theorem witness_FrameReception_notices : (shooting 1 (some (1, camera.pipeCfg 1))).serves = true ∧ noticing.rdn 0x6500 1 ≠ 1 ∧ noticing.rdn 0x6500 2 ≠ 1 ∧
    after (.frameTimeout 2) (shooting 1 (some (1, camera.pipeCfg 1)))
      (fun t => (t.pipe 1).ready.all (fun x => x.note.frameSeq = 6 && x.note.sensor = 2 && x.note.rows = 0) = true ∧ (t.pipe 1).ready.length = 1 ∧ t.rdn 0x6113 2 = 1) = true ∧
    after (.frameNotice 1) noticing (fun t => (t.pipe 1).ready = [] ∧ (t.pipe 1).recent.map (fun x => x.note) = [notice] ∧ t.rdn 0x6111 2 = 1 ∧
      t.fromHost 0x3020 1 = [6]) = true ∧
    after (.frameNotice 1) (entries noticing [(0x2100, 3, 0)]) (fun t => (t.pipe 1).ready = [] ∧ t.rdn 0x6001 1 = 0x200 ∧ t.rdn 0x6111 2 = 0) = true := by
  decide +kernel

/-- Engine 0 serves the requests of partition 0, and pipeline 1 its reprocessing; an edge program of one tap and a raw slot's header stand in the window. -/
def edged : State :=
  let s := entries camera [(0x6500, 1, 0x10), (0x6501, 1, 0), (0x6100, 2, 0x10), (0x6101, 2, 0)]
  (s.writeWindow 0 0 (leBytes 128 (0x45474450 + 1 * 2 ^ 40 + 1 * 2 ^ 48 + 0x11 * 2 ^ 56 + 1 * 2 ^ 64 + 1 * 2 ^ 80 + 0x3F800000 * 2 ^ 192 + 128 * 2 ^ 224))).writeWindow 0 128
    (leBytes 64 (0x57415243 + 2 * 2 ^ 32 + 1 * 2 ^ 40 + 0x2A * 2 ^ 48 + 4 * 2 ^ 64 + 2 * 2 ^ 80 + 1 * 2 ^ 96 + 9 * 2 ^ 128))

/-- The line at an offset of partition 0's window is poisoned. -/
def poisoned (s : State) (o : Nat) : State := s.setPoison (s.windowLoc 0 o).1 ((s.windowLoc 0 o).2 / 64) true

/-- An EDGE_RUN of engine `e` over 2 by 2 elements. -/
def edges (e : Nat) : DescImage :=
  sealed 0x61 [(0x20, e), (0x24, 2), (0x26, 2), (0x28, 0x1000001000), (0x34, 2), (0x38, 0x1000002000), (0x44, 2), (0x48, 0x1000000000), (0x50, 4), (0x54, 4)]

theorem witness_PipelineJobs : EdgeProg.ok (edged.readProgram 0 0x1000000000) = true ∧
    after (.edgeRun (edges 0) clean) edged (fun t => (t.edge 0).job.any (fun j => !j.live && j.part = 0 && j.slot = 3 && j.blank = none) = true) = true ∧
    after (.edgeRun (edges 1) clean) edged (fun t => t.fromHost 0x1004 1 = [0x12]) = true ∧
    after (.edgeRun (edges 0) clean) { edged with faults := { edged.faults with heldEdges := [0] } } (fun t => t.fromHost 0x1004 1 = [0x70]) = true ∧
    after (.reprocess (sealed 0x60 [(0x20, 1), (0x24, 192), (0x28, 0x1000000080)]) clean) edged (fun t => t.fromHost 0x1004 1 = [0x60]) = true ∧
    after (.reprocess (sealed 0x60 [(0x20, 1), (0x24, 192), (0x28, 0x1000000080)]) clean) (entries edged [(0x6104, 2, 8)])
      (fun t => (t.pipe 1).ready.map (fun x => x.note.frameSeq) = [9]) = true ∧
    after (.reprocess (sealed 0x60 [(0x20, 2)]) clean) edged (fun t => t.fromHost 0x1004 1 = [0x12]) = true ∧
    after (.reprocess (sealed 0x60 [(0x20, 1), (0x24, 191), (0x28, 0x1000000080)]) clean) edged (fun t => t.fromHost 0x1004 1 = [0x10]) = true ∧
    after (.reprocess (sealed 0x60 [(0x20, 1), (0x24, 192), (0x28, 0x1000000080)]) clean) (entries edged [(0x6023, 3, 2 * 65536 + 5)])
      (fun t => t.fromHost 0x1004 1 = [0x12]) = true ∧
    after (.reprocess (sealed 0x60 [(0x20, 1), (0x24, 192), (0x28, 0x1000000080)]) clean) (poisoned edged 128) (fun t => t.fromHost 0x1004 1 = [0x20]) = true ∧
    after (.edgeRun (edges 0) clean) (poisoned edged 0) (fun t => t.fromHost 0x1004 1 = [0x20]) = true ∧
    after (.edgeRun (sealed 0x61 [(0x20, 0), (0x24, 2), (0x26, 2), (0x28, 0x1000001000), (0x34, 2), (0x38, 0x1000002000), (0x44, 1), (0x48, 0x1000000000),
      (0x50, 4), (0x54, 4)]) clean) edged (fun t => t.fromHost 0x1004 1 = [0x12]) = true ∧
    after (.edgeRun (edges 0) clean) (edged.writeWindow 0 5 [5, 5]) (fun t => t.fromHost 0x1004 1 = [0x13]) = true ∧
    (edged.readProgram 0 0x1000000000).length = 128 := by decide +kernel

/-- The run of engine 0 for slot 3. -/
def edgeRun : EdgeJob :=
  ⟨0x1000000000, ⟨0, 0, 64, 0⟩, false, 0, 3, 0, 0, false, 0, 0, 0, edged.readProgram 0 0x1000000000, [0x1000001000, 0, 2, 2, 2, 2], [0x1000002000, 0, 2], 0, 0, false, none⟩

theorem witness_PipelineJobs_done : edged.edgePoison edgeRun = false ∧ (poisoned edged 0x1000).edgePoison edgeRun = true ∧
    after (.edgeRunDone 0 17 clean) { edged with edges := [(0, ⟨some edgeRun, []⟩)] }
      (fun t => (t.edge 0).job = none ∧ t.rdn 0x650B 1 = 1 ∧ t.rdn 0x650D 1 = 17) = true ∧
    after (.edgeRunDone 0 17 clean) { poisoned edged 0x1000 with edges := [(0, ⟨some edgeRun, []⟩)], parts := [(0, { Part.empty with
        work := [⟨3, image 0x61 [], false, .running, []⟩] })] }
      (fun t => (t.edge 0).job = none ∧ t.fromHost 0x1004 1 = [0x20]) = true ∧
    after (.edgeRunDone 0 17 clean) { edged with edges := [(0, ⟨some { edgeRun with live := true }, []⟩)] }
      (fun t => (t.edge 0).job = none ∧ t.rdn 0x650D 1 = 17) = true := by decide +kernel

/-- A settings record with ratios of one, knees in order and gains of one. -/
def settings : List Byte := leBytes 48 (0x100 * 2 ^ 32 + 0x100 * 2 ^ 48 + 1 * 2 ^ 96 + 1 * 2 ^ 160 + 0x3F800000 * 2 ^ 192 + 0x3F800000 * 2 ^ 224 + 0x3F800000 * 2 ^ 256)

/-- The settings record of sensor 2 has the bus of master 0. -/
def issuing : State :=
  { camera with sensors := [(2, ⟨none, Settings.first, none, [⟨Settings.first, 0, none, false, 0⟩], 0⟩)]
                i2cs := [(0, ⟨false, 5, [], 0, [], some (some 2), []⟩)] }

theorem witness_SensorControl : settingsOk settings = true ∧ settingsOk (List.replicate 48 0) = false ∧ camera.xferOf 0 = none ∧
    after (.sensorSettingsWrite .pf 2 settings) camera (fun t => (t.sensor 2).waiting = some (parseSettings settings 1) ∧ t.rdn 0x6051 3 = 1) = true ∧
    after (.sensorSettingsWrite .pf 2 (List.replicate 48 0)) camera (fun t => (t.sensor 2).waiting = none ∧ t.rdn 0x6001 1 = 128) = true ∧
    after (.settingsI2cDone 2 true) issuing (fun t => (t.sensor 2).issued = [⟨Settings.first, 0, some (camera.rdn 0x6026 3), false, 0⟩] ∧ (t.i2cM 0).bus = none) = true ∧
    after (.settingsI2cDone 2 false) issuing (fun t => (t.sensor 2).issued = [] ∧ (t.i2cM 0).bus = none ∧ t.rdn 0x6001 1 = 256) = true ∧
    after (.settingsI2cDone 2 true) { issuing with i2cs := [] } (fun t => (t.sensor 2).issued.length = 1) = true ∧
    after (.i2cTransfer .pf 1 (leBytes 36 (0x21 + 1 * 2 ^ 8 + 2 * 2 ^ 16 + 7 * 2 ^ 32))) camera (fun t => t.i2cM 1 = ⟨true, 4, [], 2, [0x21, 7], some none, []⟩) = true ∧
    after (.i2cTransfer .pf 0 (leBytes 36 (0x21 + 1 * 2 ^ 8))) issuing (fun t => (t.i2cM 0).bus = some (some 2) ∧ (t.i2cM 0).busy = true) = true ∧
    after (.i2cTransfer .pf 1 (leBytes 36 (0x80 + 1 * 2 ^ 8))) camera (fun t => (t.i2cM 1).busy = false) = true ∧
    after (.i2cTransfer .pf 1 [0]) camera (fun t => (t.i2cM 1).busy = false) = true ∧
    after (.i2cTransferDone 1 0 [8, 9]) { camera with i2cs := [(1, ⟨true, 4, [], 2, [], some none, []⟩)] } (fun t => t.i2cM 1 = ⟨false, 0, [8, 9], 2, [], none, []⟩) = true := by
  decide +kernel
theorem witness_SensorControl_reaches : Reaches camera .pf 0x6050 3 := reaches_pf (by decide +kernel) _ _

/-! ### Listening -/

/-- The ring runs at index 320 with microphone 9 on listening channel 0, over a roost whose plan is loaded. -/
def hearing (a : Audio) : State :=
  { entries active [(0x6830, 1, 9), (0x6831, 1, 320), (0x6810, 2, 0x20001), (0x6820, 10, 256)] with
    audio := { a with ringOn := true, clocks := [(1, 2)], plan := some (planOf 7) } }

def quiet : Audio := active.audio

theorem witness_Listening : (hearing quiet).power.state ≠ 0 ∧ (hearing quiet).decoded 9 = true ∧ (hearing quiet).listening = [(0, 9)] ∧
    after (.micSilent 9) (hearing quiet) (fun t => t.rdn 0x6801 1 = 4) = true ∧
    after (.micSilent 8) (hearing quiet) (fun t => t.rdn 0x6801 1 = 0) = true ∧
    after (.pdmClockChange 1 true) { hearing quiet with audio := { (hearing quiet).audio with clocks := [(1, 1)] } }
      (fun t => NMap.get (fun _ => 0) t.audio.clocks 1 = 2 ∧ t.audio.marks.map Mark.kind = [3] ∧ t.rdn 0x6801 1 = 2) = true ∧
    after (.pdmClockChange 1 false) { hearing quiet with power := { active.power with state := 2 } }
      (fun t => NMap.get (fun _ => 0) t.audio.clocks 1 = 1 ∧ t.audio.marks.map Mark.kind = [2]) = true ∧
    after .settleEnd (hearing { quiet with settle := some 479 }) (fun t => t.audio.settle = none ∧ t.audio.marks.map Mark.index = [479]) = true ∧
    after .settleEnd (hearing { quiet with settle := some 480 }) (fun t => t.audio.settle = some 480) = true ∧
    after .stage0RefractoryEnd (entries (hearing { quiet with refractory := true }) [(0x6850, 0xC, 319), (0x6840, 5, 10)]) (fun t => !t.audio.refractory) = true ∧
    after .stage0RefractoryEnd (entries (hearing { quiet with refractory := true }) [(0x6850, 0xC, 320), (0x6840, 5, 10)]) (fun t => t.audio.refractory) = true := by
  decide +kernel
theorem witness_Listening_hops : (hearing quiet).roostLoaded = true ∧ (hearing quiet).mem.poisonTile = [] ∧
    (hearing quiet).ringRatio 1 = 48 ∧ pdmWords 48 1 = 8 ∧ pdmWords 48 160 = 1280 ∧
    after (.roostHop [List.replicate 8 0x000100]) (entries (hearing quiet) [(0x6831, 1, 479)])
      (fun t => t.rdn 0x6831 1 = 480 ∧ t.audio.hop = some 480) = true ∧
    after (.roostHop [List.replicate 7 0]) (entries (hearing quiet) [(0x6831, 1, 479)]) (fun t => t.rdn 0x6831 1 = 479) = true ∧
    after (.roostHop [[]]) (let s := entries (hearing quiet) [(0x6831, 1, 479)]; { s with audio := { s.audio with clocks := [] } })
      (fun t => t.rdn 0x6831 1 = 480 ∧ t.ringSample 0 479 = 0) = true ∧
    after (.roostHop [List.replicate 1280 0]) (hearing { quiet with hop := some 320, hits := 2 })
      (fun t => t.audio.hop = some 320 ∧ t.audio.hits = 0 ∧ t.rdn 0x6801 1 = 8) = true ∧
    after .stage0InvocationEnd (entries (hearing { quiet with hop := some 320, hits := 2 }) [(0x6840, 3, 0x7FC00000), (0x6840, 4, 3)])
      (fun t => t.audio.hop = none ∧ t.audio.hits = 0) = true ∧
    after (.roostPlanLoad clean) (entries (hearing { quiet with loadDue := true }) [(0x6840, 1, 0xFFFF)]) (fun t => t.audio.plan = none ∧ !t.audio.loadDue) = true ∧
    after (.roostPlanLoad clean) (entries (hearing { quiet with loadDue := true }) [(0x6840, 1, 5)])
      (fun t => t.audio.plan = none ∧ t.rdn 0x6840 7 = 3 ∧ t.rdn 0x6840 8 = 0x33 ∧ t.rdn 0x6801 1 = 256) = true := by decide +kernel

/-- Feed 2 of partition 0 and its stream 11 stand as `f` and `x`, in state `v`. -/
def feeding (f : Feed) (x : Stream) (v : Nat) : State :=
  let s := entries (streamed x) [(0x6900, 3, 0), (0x6901, 3, 1), (0x6902, 3, 0xFFFFFFFFFFFFFF09), (0x6907, 3, v), (0x6850, 2, 0xFF), (0x6850, 6, 0xFF)]
  { s with audio := { s.audio with feeds := [(2, f)], clocks := [(1, 2)] } }

theorem witness_FeedsAndCascade : Reaches (feeding Feed.off Stream.free 0) .pf 0x6906 3 ∧ (feeding Feed.off Stream.free 0).feedGroup 2 = some 3 ∧
    after (.feedStart .pf 2) (feeding Feed.off Stream.free 0) (fun t => t.feedState 2 = 2 ∧ t.feed 2 = ⟨some 11, 0, []⟩ ∧ (t.stream 11).state = .idle) = true ∧
    after (.feedStart .pf 2) (entries (feeding Feed.off Stream.free 0) [(0x6905, 3, 1)]) (fun t => t.feedState 2 = 2 ∧ (t.feed 2).staged.length = 1 ∧ t.rd 0x6908 3 = BitVec.ofInt 64 (-32000)) = true ∧
    after (.feedStart .pf 2) (entries (feeding Feed.off Stream.free 0) [(0x7013, 1, 0)]) (fun t => t.feedState 2 = 4) = true ∧
    after (.feedStart .pf 2) (feeding Feed.off idle 0) (fun t => t.feedState 2 = 4 ∧ t.stream 11 = idle) = true ∧
    after (.feedStop .pf 2) (feeding Feed.off idle 4) (fun t => t.feedState 2 = 0) = true ∧
    after (.feedStop .pf 2) (entries (feeding ⟨some 11, 0, []⟩ { idle with chunks := [chunk (.inStep 0)] } 2) [(0x6905, 3, 1)]) (fun t => t.feedState 2 = 3) = true ∧
    after (.feedStop .pf 2) (feeding ⟨some 11, 0, []⟩ { idle with chunks := [chunk (.inStep 0)] } 3) (fun t => t.feedState 2 = 3) = true ∧
    (feeding Feed.off idle 0).feedChunk 2 = 32 ∧ pdmWords ((feeding Feed.off idle 0).mainRatio 1) 32 = 512 ∧
    after (.feedChunkSeal 2 [List.replicate 512 0]) (feeding ⟨some 11, 0, []⟩ { idle with next := 0 } 2)
      (fun t => (t.feed 2).next = 1 ∧ t.rdn 0x6909 3 = 1 ∧ (t.stream 11).chunks.length = 1) = true ∧
    after (.feedChunkSeal 2 []) (entries (feeding ⟨some 11, 0, []⟩ { idle with next := 0 } 2) [(0x6905, 3, 1), (0x6831, 1, 31)])
      (fun t => (t.feed 2).next = 0) = true ∧
    after (.feedChunkSeal 2 []) (entries (feeding ⟨some 11, 0, []⟩ { idle with next := 0 } 2) [(0x6905, 3, 1), (0x6831, 1, 32)])
      (fun t => (t.feed 2).next = 1) = true :=
  ⟨reaches_pf (by decide +kernel) _ _, by decide +kernel⟩
theorem witness_FeedsAndCascade_cascade :
    after (.cascadeTrigger .pf) (hearing quiet) (fun t => t.audio.stage1 = 0 ∧ t.audio.marks.map Mark.kind = [5] ∧ t.rdn 0x6801 1 = 16) = true ∧
    after (.cascadeTrigger .pf) { entries (hearing quiet) [(0x6850, 1, 1), (0x6850, 3, 10)] with power := { active.power with state := 2 } }
      (fun t => t.audio.stage1 = 1 ∧ t.audio.window1 = 10000 ∧ t.power.wakeDemand = 3) = true ∧
    after (.cascadeTrigger .pf) (entries (hearing { quiet with stage1 := 2 }) [(0x6850, 1, 1), (0x6850, 3, 10)]) (fun t => t.audio.stage1 = 2 ∧ t.audio.window1 = 10000) = true ∧
    after (.cascadeStop .pf) (hearing { quiet with stage1 := 2, stage2 := 1 }) (fun t => t.audio.stage1 = 0 ∧ t.audio.stage2 = 0) = true ∧
    (entries (hearing { quiet with stage1 := 1 }) [(0x6850, 2, 0xFF)]).runStage 1 = ((entries (hearing { quiet with stage1 := 1 }) [(0x6850, 2, 0xFF)]).setStage 1 4).raise 0x6801 8 ∧
    (let s := (feeding Feed.off Stream.free 0)
     ((entries { s with audio := { s.audio with stage1 := 1 } } [(0x6850, 2, 2)]).runStage 1).audio.stage1 = 2) ∧
    after .stage1WindowEnd { hearing { quiet with stage1 := 2, window1 := 9 } with time := 9 } (fun t => t.audio.stage1 = 0 ∧ t.rdn 0x6801 1 = 128) = true ∧
    after .stage1WindowEnd { hearing { quiet with stage1 := 2, window1 := 9 } with time := 8 } (fun t => t.audio.stage1 = 2) = true ∧
    after .stage2WindowEnd { hearing { quiet with stage2 := 1, window2 := 9, hit2 := true } with time := 9 } (fun t => t.audio.stage2 = 0 ∧ t.rdn 0x6801 1 = 0) = true := by
  decide +kernel

/-! ### Power and the link -/

/-- The device in power state `n`, with a demand for `d`. -/
def powered (n d : Nat) : State :=
  { entries up [(0x8002, 1, d)] with power := { up.power with state := n, coreEn := decide (3 ≤ n) }, link := { up.link with dstate := 3, aspm := 1 }, cans := if n < 3 then [] else up.cans }

theorem witness_PowerSteps : (powered 4 1).powerRuns = true ∧ (powered 4 1).powerTarget = 1 ∧ (powered 1 4).powerTarget = 4 ∧
    after .holdExpiry (powered 4 1) (fun t => t.power.state = 3 ∧ t.rdn 0x8001 1 = 1) = true ∧
    after .holdExpiry (powered 3 1) (fun t => t.power.state = 2 ∧ !t.power.coreEn ∧ t.rdn 0x8001 1 = 0x801 ∧ t.can 0 = Can.off) = true ∧
    after .holdExpiry (powered 2 1) (fun t => t.power.state = 1 ∧ !t.audio.ringOn) = true ∧
    after .holdExpiry (powered 2 2) (fun t => t.power.state = 2) = true ∧
    after .stateStepUp (powered 1 4) (fun t => t.power.state = 4 ∧ t.power.coreEn ∧ t.power.wakeDemand = 0) = true ∧
    after .stateStepUp (powered 3 2) (fun t => t.power.state = 3) = true := by decide +kernel

/-- DORMANT, with every wake to WATCH and pin 2 able to wake, the link in L1.2. -/
def asleep : State :=
  { entries (powered 1 1) [(0x8004, 4, 0xAA), (0x8004, 5, 4), (0x2014, 1, 2 ^ 31 + 5), (0x2014, 4, 1), (0x2014, 3, 0)] with
    link := { up.link with aspm := 3, dstate := 0 }, time := 77 }

/-- A classic frame with one data byte. -/
def frame (id : BitVec 29) : CanFrame := { ident := id, ide := false, remote := false, fd := false, len := 1, data := 0, crcOk := true }

theorem witness_WakesAndLink : asleep.alive = true ∧ asleep.callFrame (frame 5) = true ∧ asleep.callFrame (frame 6) = false ∧
    after .linkL12Exit asleep (fun t => t.rdn 0x8004 2 = 1 ∧ t.rdn 0x8004 3 = 77 ∧ t.power.wakeDemand = 3 ∧ t.link.aspm = 0) = true ∧
    after .linkD3coldExit { asleep with link := { asleep.link with dstate := 4 } } (fun t => t.rdn 0x8004 2 = 2 ∧ t.link.dstate = 0) = true ∧
    after (.gpioWake 2) asleep (fun t => t.rdn 0x8004 2 = 38 ∧ t.power.woken) = true ∧
    after (.gpioWake 1) asleep (fun t => !t.power.woken) = true ∧
    after (.canCall (frame 5)) asleep (fun t => t.rdn 0x8004 2 = 3 ∧ t.rdn 0x2013 1 = 128) = true ∧
    after (.canAny (frame 6)) asleep (fun t => t.rdn 0x8004 2 = 4) = true ∧
    after .linkL12Exit (entries asleep [(0x8004, 4, 0xA8)]) (fun t => !t.power.woken ∧ t.link.aspm = 0) = true ∧
    after (.linkPowerChange (.d3cold true)) asleep (fun t => t.link.dstate = 4 ∧ t.link.pmeEn) = true ∧
    after (.linkPowerChange .l1) asleep (fun t => t.link.aspm = 1) = true ∧
    after .perstDeassert { asleep with link := { asleep.link with perst := true, wakeN := true } } (fun t => !t.link.perst && !t.link.wakeN) = true ∧
    after (.linkTrained 7 5) { up with link := { up.link with width := 0, speed := 0 } } (fun t => t.rdn 0x2101 1 = 2 ∧ t.linkUp) = true ∧
    after (.linkTrained 8 5) { up with link := { up.link with width := 0, speed := 0 } } (fun t => t.rdn 0x2101 1 = 0) = true ∧
    up.linkUp = true ∧ after .linkDown up (fun t => !t.linkUp ∧ t.rdn 0x2101 1 = 1) = true ∧
    after .xtal32Start { powered 2 2 with power := { (powered 2 2).power with xtal := false }, audio := { up.audio with ringOn := false } }
      (fun t => t.power.xtal ∧ t.audio.ringOn) = true := by decide +kernel

/-- The cap's factors stand at half of full range. -/
def capped : State :=
  { entries up [(0x8002, 2, 100000)] with power := { up.power with kc := 32768, km := 32768, kl := 32768, ki := 65536, kt := 256, tripped := false } }

theorem witness_PowerCap : capped.alive = true ∧ (4 : Nat) ∉ capped.link.restarting ∧
    State.floorPower 1 20000 + State.floorPower 2 10000 + State.floorPower 3 10000 ≤ (100000 - 5000) * 65536 ∧
    after (.powerWindow 20000 10000 10000 5000 0) capped (fun t => t.rdn 0x8005 1 = 25000 ∧ t.power.energyNano = capped.power.energyNano + 50000 ∧
      t.power.kc ≤ 34588 ∧ 32768 < t.power.km) = true ∧
    after (.powerWindow 20000 10000 10000 5000 0) (entries capped [(0x8002, 2, 20000)])
      (fun t => 20000 * t.power.kc + 10000 * t.power.km + 10000 * t.power.kl ≤ 15000 * 65536) = true ∧
    after (.powerWindow 20000 10000 10000 5000 0) { capped with power := { capped.power with tripped := true } } (fun t => t.power.kc = 32768) = true := by
  decide +kernel

/-- Row 0's tile 0 runs plan 7 at its PREEMPT point, the device ACTIVE. -/
def strained : State :=
  { invoked with power := { active.power with state := 4 }, parts := [(0, { invoked.part 0 with invs := [{ running 7 with cheap := 1 }] })] }

theorem witness_PowerLimits : (1150 : Int) ≤ 1150 ∧ up.power.tripped = false ∧ (1149 : Int) < 1150 ∧ up.throttleDeci ≤ 1149 ∧
    after (.thermalSample 1150) up (fun t => t.power.tripped ∧ t.power.kc = 7281 ∧ t.rdn 0x8001 1 = 32 ∧ t.faults.faultN) = true ∧
    after (.thermalSample 1149) up (fun t => !t.power.tripped ∧ t.power.hottest = 1149) = true ∧
    after (.thermalSample 0) { up with power := { up.power with tripped := true } } (fun t => !t.power.tripped) = true ∧
    after .thermalFactorStep { up with power := { up.power with hottest := 1149, kt := 9 } } (fun t => t.power.kt = 8) = true ∧
    after .thermalFactorStep { up with power := { up.power with hottest := 0, kt := 256 } } (fun t => t.power.kt = 256) = true ∧
    after .thermalFactorStep { up with power := { up.power with hottest := up.throttleDeci - 20, kt := 9 } } (fun t => t.power.kt = 9) = true ∧
    after (.avsRead false 0 false) { up with power := { up.power with avsFails := 2 } } (fun t => t.power.avsFault ∧ t.rdn 0x8001 1 = 256) = true ∧
    after (.avsRead false 0 false) { up with power := { up.power with avsFails := 1 } } (fun t => !t.power.avsFault ∧ t.power.avsFails = 2) = true ∧
    after (.avsRead true 700 false) { up with power := { up.power with railMv := 800, lowReads := 1 } } (fun t => t.power.lowSupply ∧ t.rdn 0x8001 1 = 128 ∧ t.rdn 0x8005 4 = 700) = true ∧
    after (.avsRead true 776 false) { up with power := { up.power with railMv := 800, lowReads := 1 } } (fun t => !t.power.lowSupply ∧ t.power.lowReads = 0) = true ∧
    after (.avsRetry true) { up with power := { up.power with avsFault := true } } (fun t => !t.power.avsFault) = true ∧
    after .lowSupplyEnd { up with power := { up.power with lowSupply := true, lowTail := true } } (fun t => !t.power.lowSupply) = true := by decide +kernel
theorem witness_PowerLimits_tiles : strained.tilePowered 0 = true ∧ strained.tileMode 0 = 3 ∧ strained.atPreempt 0 = true ∧ strained.powerRuns = true ∧
    after (.droopCrossing 0) strained (fun t => t.fabric.drooping = [0] ∧ t.rdn 0x8011 1 = 1) = true ∧
    after (.droopStretchEnd 0 50) { strained with fabric := { strained.fabric with drooping := [0, 4] } } (fun t => t.fabric.drooping = [4] ∧ t.rdn 0x8011 2 = 50) = true ∧
    after (.gaugeDue 0) strained (fun t => t.fabric.gaugeDue = [0]) = true ∧
    after (.gaugeReading 0 1) { strained with fabric := { strained.fabric with gaugeDue := [0] } } (fun t => t.rdn 0x8120 1 = 1 ∧ t.fabric.gaugeDue = []) = true ∧
    after (.gaugeReading 0 1) strained (fun t => t.rdn 0x8120 1 = 0) = true ∧
    after (.gaugeReading 0 1) { entries strained [(0x8012, 3, 2), (0x8000, 6, 5)] with fabric := { strained.fabric with gaugeDue := [0] } }
      (fun t => t.rdn 0x8012 1 = 5 ∧ t.rdn 0x8001 1 = 512) = true ∧
    after (.gaugeReading 0 1) { entries strained [(0x8012, 3, 2), (0x8000, 6, 4)] with fabric := { strained.fabric with gaugeDue := [0] } }
      (fun t => t.rdn 0x8012 1 = 0 ∧ t.rdn 0x8001 1 = 1024 ∧ NMap.get (fun _ => 0) t.persist.lowered 0 = 25) = true := by decide +kernel

/-! ### Faults -/

/-- A fault record of a unit of kind `kind`. -/
def faultRec (kind unit : Nat) (handling : Bool) : FaultRec :=
  { seq := 4, source := 0x01, cls := 2, kind := kind, handling := handling, otherUnit := false, escalated := false, replayed := false
    unit := unit, secondKind := 0, secondUnit := 0, merged := 0, raiseTime := 0, handleMicros := 0, detail := 0 }

theorem witness_UnitFaults : State.sourceFits 0x01 (.tile 70) = true ∧ 70 ∉ tenants.fabric.fenced ∧ (tenants.logical 70).isSome = true ∧ tenants.canShift 1 4 = true ∧ { tenants with fabric := { tenants.fabric with fenced := [71] } }.canShift 1 4 = false ∧
    after (.unitFatalFault .tileCheck (.tile 70)) (entries tenants [(0x3002, 1, 1)])
      (fun t => t.fabric.fenced = [70] ∧ t.fabric.shifts.map (fun h => (h.row, h.col, h.moving, h.waiting)) = [(1, 4, false, [])] ∧ t.rdn 0x3001 8 = 70 ∧ t.faults.mode = .fault ∧ t.rdn 0x9003 6 = 1) = true ∧
    after (.unitFatalFault .tileCheck (.tile 70)) (entries tenants [(0x3002, 1, 0)])
      (fun t => t.fabric.shifts = [] ∧ t.persist.fencedTiles = [70] ∧ t.fuse.fieldFenced = [70]) = true ∧
    after (.unitFatalFault .tileCheck (.tile 70)) { tenants with fabric := { tenants.fabric with shifts := [⟨1, 9, true, [], []⟩] } }
      (fun t => t.fabric.fenced = [] ∧ t.fabric.shifts = [⟨1, 9, true, [], [70]⟩]) = true ∧
    after (.unitFatalFault .channelLink (.channel 4)) tenants (fun t => t.persist.fencedChannels = [4] ∧ (t.part 1).fenced) = true ∧
    after (.unitFatalFault .channelLink (.channel 9)) fenced (fun t => t.rdn 0x9003 6 = 0) = true ∧
    after (.unitFatalFault .pipeline (.pipeline 2)) tenants (fun t => t.faults.heldPipes = [2] ∧ (t.faults.records.map FaultRec.unit) = [2]) = true ∧
    after (.unitFatalFault .edge (.edgeEngine 1)) tenants (fun t => t.faults.heldEdges = [1]) = true ∧
    after (.unitFatalFault .canCtrl (.canController 0)) tenants (fun t => t.faults.heldCans = [0] ∧ t.canServes 0 = false ∧ t.canServes 1) = true ∧
    after (.unitFatalFault .roost .roost) tenants (fun t => t.faults.roostHeld) = true ∧
    after (.unitFatalFault .pipeline (.tile 70)) tenants (fun t => t.fabric.fenced = []) = true := by decide +kernel

/-- FAULT since time 0, with every held unit of a kind, at the end of the quiet time. -/
def faulty (l : List FaultRec) : State :=
  { up with time := up.rdn 0x9002 1 * 1000, faults := { up.faults with mode := .fault, faultN := true, lastEvent := 0, heldPipes := [2], roostHeld := true, records := l } }

theorem witness_Recovery : (faulty []).quiet = true ∧ (faulty [faultRec 3 2 true]).quiet = false ∧
    after (.deviceFatalFault .cpCrash 3 1) up (fun t => t.faults.mode = .halted ∧ t.persist.fatalPending ∧ t.alive = false ∧ t.link.dump.any (fun d => d.source = 0xF0 && d.cp = 3)) = true ∧
    after (.handlingComplete 4 25) (faulty [faultRec 3 2 true]) (fun t => t.faults.records.all (fun r => !r.handling && r.handleMicros = 25)) = true ∧
    after (.handlingComplete 5 25) (faulty [faultRec 3 2 true]) (fun t => t.faults.records.all FaultRec.handling) = true ∧
    after (.quietExit []) (faulty []) (fun t => t.faults.mode = .normal ∧ !t.faults.faultN ∧ t.faults.heldPipes = [] ∧ !t.faults.roostHeld ∧ t.rdn 0x9003 2 = 1) = true ∧
    after (.quietExit [.pipeline 2]) (faulty []) (fun t => t.faults.mode = .fault ∧ t.faults.heldPipes = [2]) = true ∧
    after (.quietExit []) { faulty [] with time := 0 } (fun t => t.faults.mode = .fault) = true := by decide +kernel

/-- Row 1 shifts for its failed column 4. -/
def shifting (moving : Bool) : State := { tenants with fabric := { tenants.fabric with shifts := [⟨1, 4, moving, [], []⟩], fenced := [70] } }

theorem witness_Recovery_shifts : (shifting false).rowStopped 1 = true ∧
    { invoked with fabric := { invoked.fabric with shifts := [⟨0, 0, false, [], []⟩] } }.rowStopped 0 = false ∧
    after (.substitutionShiftStart 0) { invoked with fabric := { invoked.fabric with shifts := [⟨0, 0, false, [], []⟩] } }
      (fun t => t.fabric.shifts = [⟨0, 0, false, [], []⟩]) = true ∧
    after (.substitutionShiftStart 1) (shifting false) (fun t => t.fabric.shifts = [⟨1, 4, true, [], []⟩]) = true ∧
    after (.substitutionShiftStart 2) (shifting false) (fun t => t.fabric.shifts = [⟨1, 4, false, [], []⟩]) = true ∧
    after (.substitutionShiftDone 1) (shifting true) (fun t => t.fabric.shifts = [] ∧ t.skipsOf 1 = [4] ∧ t.persist.fencedTiles = [70] ∧ t.rdn 0x3001 1 % 2 = 1) = true ∧
    after (.substitutionShiftDone 1) (shifting false) (fun t => t.fabric.shifts = [⟨1, 4, false, [], []⟩]) = true := by decide +kernel

/-- Balls of Tables 17-1 and 17-2: AM31 is a signal, J9 and T53 carry VDD_CORE, G9 VDD_BOND, BY9 VCC_NAND and BY10 VCCQ_NAND, CA21 VDD_AON, A1 is reserved, B2 is ground (R444, R445). -/
theorem test_balls : signalBalls.length = 160 ∧ [(31, 31), (9, 9), (15, 53), (7, 9), (57, 9), (57, 10), (58, 21), (1, 1), (2, 2)].map (fun x => ballUse x.1 x.2) =
    [.signal 158, .rail .vddCore, .rail .vddCore, .rail .vddBond, .rail .vccNand, .rail .vccqNand, .rail .vddAon, .reserved, .vss] := by decide +kernel

/-- Row CD is the 61st, BA the 39th and AA the 20th; CSI2_D1_P lies at Y2 and VCORE_SENSE at AM31 (R443, R444). -/
theorem test_ball_names : rowNames[60]? = some "CD" ∧ rowNames[38]? = some "BA" ∧ rowNames[19]? = some "AA" ∧
    rowNames[18]? = some "Y" ∧ signalBalls.contains (19, 2) = true ∧ rowNames[30]? = some "AM" ∧ signalBalls.contains (31, 31) = true := by decide +kernel

/-- Outputs that float: in LISTEN a PDM clock does not, a TDM port and CAN0_TX do; in ACTIVE a TDM port does while its Rate is 0, and the clocks of a slave always (Table 12-3, Table 17-6). -/
theorem test_floats :
    let listen : State := { up with power := { up.power with state := 2 } }
    listen.floats (.pdmClk 0) = false ∧ listen.floats (.tdmData 0) = true ∧ listen.floats (.canTx 0) = true ∧ listen.floats .coreEn = false ∧
    (up.wrn 0x5500 1 0).floats (.tdmData 0) = true ∧ (up.wrn 0x5500 1 0x40100).floats (.tdmData 0) = false ∧
    (up.wrn 0x5500 1 0x40100).floats (.tdmClock 0) = true ∧ (up.wrn 0x5500 1 0x40000).floats (.tdmClock 0) = false := by decide +kernel

/-! ### Firmware and security -/

/-- A Virkin image of 65 536 bytes with one section and the device's stepping (Table 15-8). -/
def firmware : List Byte :=
  leBytes 256 (0x4E4B5256 + 0x0100 * 2 ^ 32 + 0x0100 * 2 ^ 48 + 65536 * 2 ^ 64 + 3 * 2 ^ 96 + 2 ^ (160 + State.revision / 65536) + 0 * 2 ^ 512 + 0x100 * 2 ^ 544 +
    61968 * 2 ^ 576 + ((List.range 7).map fun k => 0xFF * 2 ^ (640 + 128 * k)).foldl (· + ·) 0) ++ List.replicate 65280 0

theorem witness_VirkinLoads_format : Virkin.formatOk firmware 65536 = true := by decide +kernel
theorem witness_VirkinLoads : up.alive = true ∧ up.busMaster 0 = true ∧ up.rdn 0x2200 1 = 2 ∧ ({ up with link := { up.link with image := none } } : State).rdn 0x2200 1 ≠ 1 ∧
    Virkin.formatOk [1, 2] 2 = false ∧
    after (.virkinLoadStart 2 0 [1, 2] false) up (fun t => t.rdn 0x2200 5 = 1 ∧ t.rdn 0x2220 1 = 8 ∧ t.link = up.link) = true ∧
    after (.virkinLoadStart 2 0 [1, 2] false) (entries { up with link := { up.link with image := none } } [(0x2200, 1, 0)]) (fun t => t.rdn 0x2200 5 = 2 ∧ t.link.image = none) = true ∧
    after (.virkinLoadStart 2 0 [1, 2] true) (entries { up with link := { up.link with image := none } } [(0x2200, 1, 0)]) (fun t => t.rdn 0x2200 5 = 3) = true ∧
    after (.virkinLoadStart 2 0 [1, 2] false) (entries { up with link := { up.link with image := none, bme := [] } } [(0x2200, 1, 0)]) (fun t => t.rdn 0x2200 5 = 3) = true ∧
    after (.virkinLoadUpdate 2 0 [1, 2] false) (entries up [(0x2200, 1, 3)]) (fun t => t.rdn 0x2200 5 = 1) = true ∧
    after (.virkinLoadUpdate 2 0 [1, 2] false) up (fun t => t.rdn 0x2200 5 = 2 ∧ t.link = up.link) = true := by decide +kernel

/-- A hand-off to image version 2 is due; `hold` says whether the hold runs. -/
def updating (hold : Bool) : State :=
  { entries up [(0x2200, 1, 3)] with link := { up.link with hold := hold, update := some ⟨2, 1, false, 1, 0x7F, [1, 1, 1, 1, 1, 1], []⟩ } }

theorem witness_HandOffAndComponents :
    after .handoffHold (updating false) (fun t => t.link.hold) = true ∧
    after (.handoffAdopt true) (updating true) (fun t => !t.link.hold ∧ t.rdn 0x2200 2 = 2 ∧ t.rdn 0x2200 7 = 1 ∧ t.rdn 0x2220 1 = 2) = true ∧
    after (.handoffAdopt false) (updating true) (fun t => !t.link.hold ∧ t.rdn 0x2200 5 = 7 ∧ t.link.image = up.link.image) = true ∧
    after (.handoffAdopt true) (updating false) (fun t => t.rdn 0x2200 1 = 3) = true ∧
    after (.componentTrap 4) up (fun t => t.link.restarting = [4] ∧ t.rdn 0x2210 5 = 1 ∧ t.rdn 0x2220 1 = 1) = true ∧
    after (.componentTrap 5) up (fun t => t.faults.mode = .halted) = true ∧
    after (.componentTrap 4) { up with time := 3600000000, link := { up.link with lastTrap := [(4, some 0)] } } (fun t => t.faults.mode = .halted) = true ∧
    after (.componentTrap 4) { up with time := 3600000001, link := { up.link with lastTrap := [(4, some 0)] } } (fun t => t.faults.mode ≠ .halted) = true ∧
    after (.componentRestartDone 4) { up with link := { up.link with restarting := [4] } } (fun t => t.link.restarting = []) = true ∧
    after (.busMasterEnableSet (.vf 7)) up (fun t => t.busMaster 8) = true ∧
    after (.doeDiscovery .pf 1) up (fun t => t.out.length = 1) = true := by decide +kernel
theorem witness_SecurityServices : Reaches up .pf 0xA010 1 ∧ up.xferOf 0 = none ∧ up.randomFailed = false ∧
    after (.fleetEnrol .pf [1]) up (fun t => t.rdn 0xA010 2 = 2 ∧ t.sec.fleets = []) = true ∧
    after (.fleetRemove .pf 9) { up with sec := { up.sec with fleets := [⟨9, 0, []⟩, ⟨8, 0, []⟩] } } (fun t => t.rdn 0xA010 2 = 1 ∧ t.sec.fleets.map Fleet.id = [8]) = true ∧
    after (.fleetRemove .pf 9) up (fun t => t.rdn 0xA010 2 = 7) = true ∧
    after (.attestNonce (.vf 0) 5) tenants (fun t => (t.attest (.vf 0)).any (fun a => a.nonce = 5 && a.scope = 0 && a.report = [])) = true ∧
    after (.randomHealthFail true) up (fun t => t.rdn 0xA040 1 = 2 ∧ t.rdn 0xA040 2 = 1 ∧ t.rdn 0xA001 1 = 128 ∧ t.sec.log.length = 1) = true ∧
    after (.randomHealthFail false) up (fun t => t.rdn 0xA040 1 = 0 ∧ t.rdn 0xA040 2 = 1) = true ∧
    after (.randomRetry true) (entries up [(0xA040, 1, 2)]) (fun t => t.rdn 0xA040 1 = 0) = true ∧
    after (.crashDumpClear .pf) { up with link := { up.link with dump := some ⟨0xF0, 1, 2, 3, 4, [], 0⟩ } } (fun t => t.link.dump = none) = true :=
  ⟨reaches_pf (by decide +kernel) _ _, by decide +kernel⟩

/-! ### The field port and the TAP -/

/-- Controller 1 as `c`, with its configuration on and stored node 9. -/
def ported (c : Can) : State := { entries up [(0x2011, 2, 0x20001), (0x2010, 1, 9), (0x2010, 4, 0xFF)] with cans := [(0, controller 2), (1, c)] }

theorem witness_NmtCommands : (ported (controller 2)).canServes 1 = true ∧ (ported (controller 2)).nodeChoice = (9, 2) ∧
    after (.nmtStart 1) (ported (controller 2)) (fun t => (t.can 1).nmt = 3 ∧ (t.can 0).nmt = 2) = true ∧
    after (.nmtStop 1) (ported (controller 3)) (fun t => (t.can 1).nmt = 4) = true ∧
    after (.nmtEnterPreOperational 1) (ported (controller 4)) (fun t => (t.can 1).nmt = 2) = true ∧
    after (.nmtResetCommunication 1) (ported (controller 3)) (fun t => (t.can 1).nmt = 2 ∧ (t.can 1).node = 9 ∧ t.out = [Output.can 1 0x709 [0]]) = true ∧
    after (.nmtResetNode 1) (entries (ported (controller 3)) [(0x2010, 1, 0xFF)]) (fun t => (t.can 1).nmt = 5 ∧ t.out = []) = true ∧
    after (.nmtResetCommunication 1) (entries (ported (controller 3)) [(0x2011, 2, 0)]) (fun t => t.can 1 = Can.off) = true ∧
    after (.nmtStart 1) (ported (controller 5)) (fun t => (t.can 1).nmt = 5) = true := by decide +kernel
theorem witness_SdoServices : Running (ported (controller 2)) ∧ (ported (controller 2)).sdoRuns 1 = true ∧ (ported (controller 2)).canFd 1 = false ∧
    after (.sdoDownload 1 ⟨0x2102, 3⟩ true 2 500) (ported (controller 2)) (fun t => t.rdn 0x2102 3 = 500 ∧ t.out = [Output.sdo 1 0 []]) = true ∧
    after (.sdoDownload 1 ⟨0x2102, 3⟩ true 1 5) (ported (controller 2)) (fun t => t.rdn 0x2102 3 = 0 ∧ t.out = [Output.sdo 1 0x06070010 []]) = true ∧
    after (.sdoDownload 1 ⟨0x1FFF, 0⟩ true 1 5) (ported (controller 2)) (fun t => t.out = [Output.sdo 1 0x06020000 []] ∧ t.rdn 0x2013 1 = 32) = true ∧
    after (.sdoUpload 1 ⟨0x2102, 3⟩) (entries (ported (controller 2)) [(0x2102, 3, 0x102)]) (fun t => t.out = [Output.sdo 1 0 [2, 1]]) = true ∧
    after (.sdoBlockDownload 1 ⟨0x2102, 3⟩ [1, 2] true) (ported (controller 2)) (fun t => t.rdn 0x2102 3 = 0x201) = true ∧
    after (.sdoBlockDownload 1 ⟨0x2102, 3⟩ [1, 2] false) (ported (controller 2)) (fun t => t.rdn 0x2102 3 = 0 ∧ t.out = [Output.sdo 1 0x05040004 []]) = true ∧
    after (.usdoRequest 1 ⟨0x2102, 3⟩ true [1, 2]) (ported { controller 2 with cfg := 3 }) (fun t => t.rdn 0x2102 3 = 0x201) = true ∧
    after (.sdoSegment 1 false false [1, 2]) (ported (controller 2)) (fun t => t.out = [Output.sdo 1 0x05040001 []]) = true ∧
    after (.sdoSegment 1 true false [1, 2]) (ported { controller 2 with sdo := some ⟨0x2102, 3, true, false, [], false⟩ })
      (fun t => t.out = [Output.sdo 1 0x05030000 []] ∧ (t.can 1).sdo = none) = true ∧
    after (.sdoSegment 1 false true [1, 2]) (ported { controller 2 with sdo := some ⟨0x2102, 3, true, false, [], false⟩ })
      (fun t => t.rdn 0x2102 3 = 0x201 ∧ (t.can 1).sdo = none) = true ∧
    after (.sdoSegment 1 true false []) (ported { controller 2 with sdo := some ⟨0x1008, 0, false, true, [1, 2, 3, 4, 5, 6, 7, 8], false⟩ })
      (fun t => t.out = [Output.sdo 1 0 [1, 2, 3, 4, 5, 6, 7]] ∧ (t.can 1).sdo = some ⟨0x1008, 0, false, false, [8], false⟩) = true ∧
    after (.sdoTimeout 1) (ported { controller 2 with sdo := some ⟨0x2102, 3, true, false, [], false⟩ }) (fun t => t.out = [Output.sdo 1 0x05040000 []]) = true :=
  ⟨⟨by decide +kernel, by decide +kernel, by decide +kernel⟩, by decide +kernel⟩

/-- Both controllers operational; RPDO 1 maps `2102:03`, TPDO 2 maps it too. -/
def mapping (tx rx : Nat) : State :=
  { entries up [(0x1401, 1, 0x205), (0x1401, 2, rx), (0x1601, 0, 1), (0x1601, 1, 0x21020310), (0x1802, 1, 0x385), (0x1802, 2, tx), (0x1802, 3, 50), (0x1802, 5, 7),
      (0x1A02, 0, 1), (0x1A02, 1, 0x21020310)] with
    cans := [(0, controller 3), (1, controller 3)], time := 9000, tpdos := [(2, ⟨some 4000, [1, 2], 1, true⟩)] }

theorem witness_Pdos : Running (mapping 2 255) ∧ (mapping 2 255).pdoValid 0x1401 = true ∧ (mapping 2 255).mapped 0x1601 = [(0x2102, 3, 2)] ∧ (mapping 2 255).tpdoLive 2 = true ∧
    after (.rpdo 1 1 [9, 0, 7]) (mapping 2 255) (fun t => t.rdn 0x2102 3 = 9) = true ∧
    after (.rpdo 1 1 [9]) (mapping 2 255) (fun t => t.rdn 0x2102 3 = 0 ∧ t.rdn 0x2013 1 = 16) = true ∧
    after (.rpdo 1 1 [9, 0, 7]) (mapping 2 240) (fun t => t.rpdoWait = [(1, 1, [9, 0])]) = true ∧
    after (.rpdo 1 0 [9, 0, 7]) (mapping 2 255) (fun t => t.rdn 0x2102 3 = 0) = true ∧
    after (.sync 0) (mapping 2 255) (fun t => (t.tpdo 2).syncs = 0 ∧ (t.tpdo 2).lastSent = some 9000) = true ∧
    after (.sync 0) (mapping 3 255) (fun t => (t.tpdo 2).syncs = 2 ∧ (t.tpdo 2).lastSent = some 4000) = true ∧
    after .tpdoChangeCheck (mapping 254 255) (fun t => (t.tpdo 2).lastSent = some 9000) = true ∧
    after .tpdoChangeCheck (entries (mapping 254 255) [(0x1802, 3, 51)]) (fun t => (t.tpdo 2).lastSent = some 4000 ∧ (t.tpdo 2).changed) = true ∧
    after (.tpdoEventTimer 2) (mapping 255 255) (fun t => (t.tpdo 2).lastSent = some 9000) = true ∧
    after (.tpdoEventTimer 2) (mapping 2 255) (fun t => (t.tpdo 2).lastSent = some 4000) = true :=
  ⟨⟨by decide +kernel, by decide +kernel, by decide +kernel⟩, by decide +kernel⟩
theorem witness_PdosComplete : Running (mapping 0 255) ∧ (mapping 0 255).canServes 1 = true ∧ ((mapping 0 255).can 1).nmt = 3 ∧ (mapping 0 255).tpdoLive 2 = true ∧
    (mapping 0 255).tpdoLive 1 = false ∧ (mapping 0 255).tpdoChanged 2 = true ∧ State.mapBytes ((mapping 0 255).mapped 0x1601) = 2 ∧
    takes ((mapping 0 255).judgeRw 0x2102 3 9) 9 = true ∧
    after (.sync 1) (mapping 0 255) (fun t => (t.tpdo 2).lastSent = some 9000 ∧ !(t.tpdo 2).changed) = true ∧
    after (.sync 1) { mapping 255 0 with rpdoWait := [(1, 1, [9, 0]), (0, 1, [8, 0])] } (fun t => t.rpdoWait = [(0, 1, [8, 0])] ∧ t.rdn 0x2102 3 = 9) = true ∧
    after .tpdoChangeCheck (mapping 0 255) (fun t => (t.tpdo 2).lastSent = some 4000 ∧ (t.tpdo 2).changed) = true ∧
    after .tpdoChangeCheck { mapping 255 255 with tpdos := [(2, ⟨some 4000, [0, 0, 0, 0], 1, false⟩)] }
      (fun t => t.tpdo 2 = ⟨some 4000, [0, 0, 0, 0], 1, false⟩) = true :=
  ⟨⟨by decide +kernel, by decide +kernel, by decide +kernel⟩, by decide +kernel⟩
theorem witness_HeartbeatsAndErrors : (ported (controller 2)).emcyRuns 1 = true ∧
    after (.heartbeatProduce 1) (entries (ported (controller 3)) [(0x1017, 0, 100)]) (fun t => t.out = [Output.can 1 0x705 [5]]) = true ∧
    after (.heartbeatProduce 1) (entries (ported (controller 3)) [(0x1017, 0, 0)]) (fun t => t.out = []) = true ∧
    after (.heartbeatReceived 1 0x22) { entries (ported (controller 3)) [(0x1016, 3, 0x220064)] with hbLost := [2] } (fun t => t.hbArmed = [(2, 1)] ∧ t.hbLost = []) = true ∧
    after (.heartbeatConsumerTimeout 2) { ported (controller 3) with hbArmed := [(2, 1)] } (fun t => t.hbLost = [2] ∧ t.hbArmed = [] ∧ t.rdn 0x2013 1 = 8) = true ∧
    after (.emcyInhibitExpiry 1) (ported { controller 3 with inhibited := true, emcy := [(0x8110, 1, 0)] }) (fun t => (t.can 1).emcy = [] ∧ t.out.length = 1) = true ∧
    after (.errorPassive 1 7) (ported (controller 3)) (fun t => (t.can 1).err = 1 ∧ (t.can 1).txErr = 7 ∧ t.rdn 0x2013 1 = 2) = true ∧
    after (.rxOverrun 1) (ported (controller 3)) (fun t => t.rdn 0x2013 1 = 4) = true ∧
    after (.busOff 1) (ported (controller 3)) (fun t => (t.can 1).err = 2 ∧ (t.can 1).txErr = 256 ∧ t.rdn 0x2013 1 = 1) = true ∧
    after (.canErrorActive 1) (ported { controller 3 with err := 1 }) (fun t => (t.can 1).err = 0) = true ∧
    after (.busOffRecovery 1) (ported { controller 3 with err := 2, txErr := 256 }) (fun t => (t.can 1).err = 0 ∧ (t.can 1).txErr = 0 ∧ (t.can 1).node = 9) = true := by
  decide +kernel

/-- Controller 1 in LSS configuration as `l`. -/
def configuring (nmt : Nat) (l : Lss) : State := ported { controller nmt with lss := l }

/-- The identity as an LSS address. -/
def address : BitVec 128 :=
  BitVec.ofNat 128 (((List.range 4).map fun k => up.lssPart k * 2 ^ (32 * k)).foldl (· + ·) 0)

theorem witness_LayerSettings : up.canServes 1 = true ∧ (∀ k < 4, State.addrPart address.toNat k = (ported (controller 2)).lssPart k) ∧
    (ported (controller 2)).judgeRwp (.can 1) 0x2010 1 11 matches .ok 11 ∧
    after (.lssSwitchStateGlobal 1 true) (ported (controller 2)) (fun t => (t.can 1).lss.configuration) = true ∧
    after (.lssSwitchStateGlobal 1 false) (configuring 5 { Lss.idle with configuration := true }) (fun t => (t.can 1).node = 9 ∧ (t.can 1).nmt = 2) = true ∧
    after (.lssSwitchStateSelective 1 address) (ported (controller 2)) (fun t => (t.can 1).lss.configuration) = true ∧
    after (.lssSwitchStateSelective 1 (address + 1)) (ported (controller 2)) (fun t => !(t.can 1).lss.configuration) = true ∧
    after (.lssConfigureNodeId 1 11) (configuring 2 { Lss.idle with configuration := true }) (fun t => (t.can 1).lss.pendingNode = some 11) = true ∧
    after (.lssConfigureNodeId 1 128) (configuring 2 { Lss.idle with configuration := true }) (fun t => (t.can 1).lss.pendingNode = none ∧ t.out = [Output.lss 1 0x11 1]) = true ∧
    after (.lssConfigureNodeId 1 11) (ported (controller 2)) (fun t => (t.can 1).lss.pendingNode = none) = true ∧
    after (.lssConfigureBitTiming 1 0 4) (configuring 2 { Lss.idle with configuration := true }) (fun t => (t.can 1).lss.pendingRate = some 4) = true ∧
    after (.lssConfigureBitTiming 1 0 5) (configuring 2 { Lss.idle with configuration := true }) (fun t => (t.can 1).lss.pendingRate = none ∧ t.out = [Output.lss 1 0x13 1]) = true ∧
    after (.lssActivateBitTiming 1 20) (configuring 2 { Lss.idle with configuration := true, pendingRate := some 4 }) (fun t => (t.can 1).lss.activating = some (4, 20)) = true ∧
    after (.lssBitTimingSwitch 1) (configuring 2 { Lss.idle with activating := some (4, 20) }) (fun t => (t.can 1).rate = 4 ∧ (t.can 1).lss.activating = none) = true := by
  decide +kernel
theorem witness_LayerSettings_store :
    after (.lssStoreConfiguration 1) (configuring 2 { Lss.idle with configuration := true, pendingNode := some 11 }) (fun t => t.rdn 0x2010 1 = 11 ∧ t.out = [Output.lss 1 0x17 0]) = true ∧
    after (.lssInquireIdentity 1 2) (configuring 2 { Lss.idle with configuration := true }) (fun t => t.out = [Output.lss 1 0x5C (BitVec.ofNat 32 (up.lssPart 2))]) = true ∧
    after (.lssInquireNodeId 1) (configuring 2 { Lss.idle with configuration := true }) (fun t => t.out = [Output.lss 1 0x5E 5]) = true ∧
    after (.lssIdentifyRemoteSlave 1 address address) (ported (controller 2)) (fun t => t.out = [Output.lss 1 0x4F 0]) = true ∧
    after (.lssIdentifyRemoteSlave 1 (address + 1) (address + 1)) (ported (controller 2)) (fun t => t.out = []) = true ∧
    after (.lssIdentifyNonConfigured 1) (ported (controller 5)) (fun t => t.out = [Output.lss 1 0x50 0]) = true ∧
    after (.lssIdentifyNonConfigured 1) (ported (controller 2)) (fun t => t.out = []) = true ∧
    after (.lssFastscan 1 0 0x80 0 0) (ported (controller 5)) (fun t => t.out = [Output.lss 1 0x4F 0]) = true ∧
    after (.lssFastscan 1 (BitVec.ofNat 32 (up.lssPart 3)) 0 3 0) (ported { controller 5 with lss := { Lss.idle with scan := 3 } })
      (fun t => (t.can 1).lss.configuration ∧ t.out = [Output.lss 1 0x4F 0]) = true ∧
    after (.lssFastscan 1 (BitVec.ofNat 32 (up.lssPart 3) + 1) 0 3 0) (ported { controller 5 with lss := { Lss.idle with scan := 3 } })
      (fun t => !(t.can 1).lss.configuration ∧ t.out = []) = true := by decide +kernel
theorem witness_BoundaryScan : up.power.state ≠ 0 ∧ up.power.coreEn = true ∧
    after .tapIdcode up (fun t => t.out = [Output.tap "IDCODE" 0x22564A3B]) = true ∧
    after .tapBypass up (fun t => t.tap.instr = .bypass) = true ∧
    after (.tapSamplePreload 6 5) up (fun t => t.tap = ⟨.samplePreload, 5⟩ ∧ t.out = [Output.tap "SAMPLE/PRELOAD" 6]) = true ∧
    after .tapExtest up (fun t => t.tap.instr = .extest ∧ !t.tapDrives) = true ∧
    after .tapExtest { up with link := { up.link with perst := true } } (fun t => t.tapDrives) = true ∧
    after .tapIdcode { up with power := { up.power with coreEn := false } } (fun t => t.out = []) = true := by decide +kernel

end Sys2Proof.Tests
end

/-! SUPPORT. What folds over a state keep, and the operations that touch the memories alone. -/

/-- Entries that a set of entries tells apart differ in their index or their sub-index. -/
theorem Sys2Proof.Machine.Od.entry_ne {f : Nat → Nat → Bool} {i j i' j' : Nat} (h : f i j = true) (h' : f i' j' = false) :
    i' ≠ i ∨ j' ≠ j := by
  by_cases hi : i' = i
  · refine .inr fun hj => ?_
    rw [hi, hj, h] at h'
    cases h'
  · exact .inl hi

namespace Sys2Proof.Machine.State

/-- What every step of a fold keeps, the fold keeps. -/
theorem foldl_keeps {β γ : Type} (g : State → γ) {f : State → β → State} (h : ∀ s b, g (f s b) = g s) (l : List β) (s : State) :
    g (l.foldl f s) = g s := by
  induction l generalizing s with
  | nil => rfl
  | cons b l ih => rw [List.foldl_cons, ih, h]

/-- A state without its memories: two states agree in it where they differ in the memories alone. -/
def memless (s : State) : State := { s with mem := Mem.clear }

theorem updMem_memless (s : State) (f : Mem → Mem) : (s.updMem f).memless = s.memless := rfl

theorem part_memless {s t : State} (h : t.memless = s.memless) (q : Nat) : t.part q = s.part q := by
  have hp := congrArg State.parts h
  exact congrArg (fun m => NMap.get (fun _ => Part.empty) m q) hp

theorem rd_memless {s t : State} (h : t.memless = s.memless) (i j : Nat) : t.rd i j = s.rd i j := rd_congr (congrArg State.od h :) i j

@[simp] theorem part_wrn (s : State) (i j v q : Nat) : (s.wrn i j v).part q = s.part q := rfl
@[simp] theorem part_bump32 (s : State) (i j n q : Nat) : (s.bump32 i j n).part q = s.part q := rfl
@[simp] theorem part_raise (s : State) (i b q : Nat) : (s.raise i b).part q = s.part q := rfl

theorem bondedStore_memless (s : State) (c o : Nat) (bs : List Byte) : (s.bondedStore c o bs).memless = s.memless := by
  unfold bondedStore
  dsimp only
  split
  · rfl
  · split <;> rfl

theorem releaseLine_memless (s : State) (c l : Nat) : (s.releaseLine c l).memless = s.memless := by
  unfold releaseLine
  split
  · rfl
  · dsimp only
    split
    · rfl
    · exact bondedStore_memless _ _ _ _

theorem releaseAll_memless (s : State) (p : Nat) : (s.releaseAll p).memless = s.memless := by
  unfold releaseAll
  exact foldl_keeps memless (fun u e => releaseLine_memless u _ _) _ s

theorem privWriteLine_memless (s : State) (c o : Nat) (bs : List Byte) : (s.privWriteLine c o bs).memless = s.memless :=
  (bondedStore_memless _ _ _ _).trans (releaseLine_memless _ _ _)

theorem privWrite_memless (s : State) (c o : Nat) (bs : List Byte) : (s.privWrite c o bs).memless = s.memless := by
  have hN : ∀ (k o : Nat) (bs : List Byte) (u : State), (privWriteN c k o bs u).memless = u.memless := by
    intro k
    induction k with
    | zero => intro o bs u; rfl
    | succ k ih =>
      intro o bs u
      unfold privWriteN
      split
      · rfl
      · exact (ih _ _ _).trans (privWriteLine_memless _ _ _ _)
  exact hN _ _ _ _

/-- A write of the device's own engines to a window. -/
theorem writeWindow_memless (s : State) (p a : Nat) (bs : List Byte) : (s.writeWindow p a bs).memless = s.memless := by
  have hN : ∀ (k a : Nat) (bs : List Byte) (u : State), (writeWindowN p false k a bs u).memless = u.memless := by
    intro k
    induction k with
    | zero => intro a bs u; rfl
    | succ k ih =>
      intro a bs u
      unfold writeWindowN
      split
      · rfl
      · exact (ih _ _ _).trans (privWriteLine_memless _ _ _ _)
  exact hN _ _ _ _

theorem zeroMarked_memless (s : State) (n : Nat) : (s.zeroMarked n).memless = s.memless := by
  unfold zeroMarked
  refine foldl_keeps memless (fun u k => ?_) _ s
  rfl

theorem loadLive_memless (s : State) (l : Loaded) (area : NMap Byte) : (s.loadLive l area).memless = s.memless := by
  unfold loadLive
  exact foldl_keeps memless (fun u _ => updMem_memless u _) _ s

/-- The lane statuses of an ATTEND go to memory, or with its record (R212). -/
theorem putLaneStatus_memless (s : State) (p addr : Nat) (bs : List Byte) (place : List Nat) :
    (s.putLaneStatus p addr bs place).1.memless = s.memless := by
  unfold putLaneStatus
  split
  · rfl
  · exact writeWindow_memless _ _ _ _
  · exact updMem_memless _ _
  · exact updMem_memless _ _
  · rfl

end Sys2Proof.Machine.State

/-! SUPPORT. What the end of a request leaves beside the requests themselves (R300, R306). -/

namespace Sys2Proof.Machine

/-- A partition without its requests and their records. -/
def Part.idle (x : Part) : Part := { x with work := [], waiting := [], window := [] }

namespace State

/-- What the end of a request never touches: neither the requests, the chunks and the buffers that they hold, nor what they send. -/
def besidesRequests (s : State) : State × (Nat → Part) :=
  ({ s with od := [], parts := [], pipes := [], streams := [], groups := [], mem := { s.mem with host := [] }, out := []
            link := { s.link with msgs := [] } }, fun q => (s.part q).idle)

theorem besidesRequests_updPart (s : State) (p : Nat) {f : Part → Part} (hf : ∀ x, (f x).idle = x.idle) :
    (s.updPart p f).besidesRequests = s.besidesRequests := by
  refine Prod.ext rfl (funext fun q => ?_)
  show ((s.updPart p f).part q).idle = (s.part q).idle
  rw [part_updPart]
  split
  · next h => rw [hf, h]
  · rfl

theorem releaseSlot_besidesRequests (s : State) (p slot : Nat) : (s.releaseSlot p slot).besidesRequests = s.besidesRequests := by
  refine besidesRequests_updPart s p ?_
  intro x; rfl

theorem setPhase_besidesRequests (s : State) (p slot : Nat) (ph : WorkPhase) : (s.setPhase p slot ph).besidesRequests = s.besidesRequests := by
  refine besidesRequests_updPart s p ?_
  intro x; rfl

theorem dropHolds_besidesRequests (s : State) (h : Nat) : (s.dropHolds h).besidesRequests = s.besidesRequests := by
  unfold dropHolds
  refine foldl_keeps besidesRequests (fun u k => ?_) _ s
  rfl

theorem toHost_besidesRequests (s : State) (a : Nat) (bs : List Byte) : (s.toHost a bs).besidesRequests = s.besidesRequests := rfl
theorem bump32_besidesRequests (s : State) (i j n : Nat) : (s.bump32 i j n).besidesRequests = s.besidesRequests := rfl

theorem msix_besidesRequests (s : State) (fn v : Nat) : (s.msix fn v).besidesRequests = s.besidesRequests := by
  unfold msix; split <;> rfl

theorem writeRecord_besidesRequests (s : State) (p : Nat) (r : Record) : (s.writeRecord p r).besidesRequests = s.besidesRequests := by
  have hpre : (r.pre.foldl (fun s (x : Nat × List Byte) => s.toHost x.1 x.2) s).besidesRequests = s.besidesRequests := by
    refine foldl_keeps besidesRequests (fun u x => ?_) _ s
    rfl
  unfold writeRecord
  dsimp only
  generalize hu : State.bump32 _ 0x701A (p + 1) 1 = u
  have h1 : u.besidesRequests = s.besidesRequests := by
    rw [← hu, bump32_besidesRequests, toHost_besidesRequests, hpre]
  have h2 : (if r.chunk = true then u else u.releaseSlot p r.slot).besidesRequests = s.besidesRequests := by
    split
    · exact h1
    · rw [releaseSlot_besidesRequests, h1]
  split
  · split <;> rw [msix_besidesRequests, h2]
  · exact h2

theorem flush_besidesRequests (s : State) (p : Nat) : (s.flush p).besidesRequests = s.besidesRequests := by
  have hN : ∀ (n : Nat) (u : State), (flushN p n u).besidesRequests = u.besidesRequests := by
    intro n
    induction n with
    | zero => intro u; rfl
    | succ n ih =>
      intro u
      unfold flushN
      split
      · rfl
      · split
        · rw [ih, writeRecord_besidesRequests]
          refine besidesRequests_updPart u p ?_
          intro x; rfl
        · refine besidesRequests_updPart u p ?_
          intro x; rfl
  exact hN _ _

theorem endWith_besidesRequests (s : State) (p : Nat) (r : Record) : (s.endWith p r).besidesRequests = s.besidesRequests := by
  unfold endWith
  rw [flush_besidesRequests]
  refine (besidesRequests_updPart _ p ?_).trans ?_
  · intro x; rfl
  · split <;> rfl

theorem endWorkWith_besidesRequests (s : State) (p slot status detail info : Nat) (rp : Bool) (pre : List (Nat × List Byte)) :
    (s.endWorkWith p slot status detail info rp pre).besidesRequests = s.besidesRequests := by
  unfold endWorkWith
  split
  · rfl
  · rw [endWith_besidesRequests, dropHolds_besidesRequests, setPhase_besidesRequests]

theorem endWork_besidesRequests (s : State) (p slot status detail info : Nat) (rp : Bool) :
    (s.endWork p slot status detail info rp).besidesRequests = s.besidesRequests := endWorkWith_besidesRequests ..

theorem idle_besidesRequests {s t : State} (h : t.besidesRequests = s.besidesRequests) (q : Nat) : (t.part q).idle = (s.part q).idle :=
  congrFun (congrArg Prod.snd h) q

theorem updStream_besidesRequests (s : State) (n : Nat) (f : Stream → Stream) : (s.updStream n f).besidesRequests = s.besidesRequests := rfl
theorem leaveSteps_besidesRequests (s : State) (n : Nat) : (s.leaveSteps n).besidesRequests = s.besidesRequests := rfl

theorem endChunk_besidesRequests (s : State) (p n : Nat) (c : Chunk) (status : Nat) (rp : Bool) :
    (s.endChunk p n c status rp).besidesRequests = s.besidesRequests := by
  unfold endChunk
  dsimp only
  generalize hu : (if c.inStep = true then _ else _) = u
  have hu' : u.besidesRequests = s.besidesRequests := by rw [← hu]; split <;> rfl
  split
  · exact hu'
  · rw [endWith_besidesRequests, hu']

theorem endChunks_besidesRequests (s : State) (p n : Nat) (f : Chunk → Bool) (status : Nat) :
    (s.endChunks p n f status).besidesRequests = s.besidesRequests := by
  unfold endChunks
  exact foldl_keeps besidesRequests (fun u c => endChunk_besidesRequests u p n c status false) _ s

/-- What a partition lets go of as everything that it has taken ends: its invocations and its loads with their frames. -/
theorem letGo_parts (s : State) (p : Nat) :
    (s.letGo p).parts = (s.updPart p fun x => { x with invs := [], loads := [], frames := dropLoads x.loads x.frames }).parts := by
  unfold letGo
  exact foldl_keeps State.parts (fun t m => updStream_parts t m _) _ _

theorem letGo_part (s : State) (p q : Nat) : (s.letGo p).part q =
    if q = p then { s.part p with invs := [], loads := [], frames := dropLoads (s.part p).loads (s.part p).frames } else s.part q := by
  rw [← part_updPart s p q fun x => { x with invs := [], loads := [], frames := dropLoads x.loads x.frames }, part, letGo_parts, part]

/-- Beside the requests, the end of all that a partition has taken is what it lets go of. -/
theorem endTaken_idle (s : State) (p status q : Nat) : ((s.endTaken p status).part q).idle = ((s.letGo p).part q).idle := by
  refine idle_besidesRequests ?_ q
  unfold endTaken
  refine (foldl_keeps besidesRequests (fun u n => ?_) _ _).trans (foldl_keeps besidesRequests (fun u w => ?_) _ _)
  · rw [endChunks_besidesRequests, leaveSteps_besidesRequests]
  · exact endWork_besidesRequests ..

theorem endTaken_invs (s : State) (p status q : Nat) :
    ((s.endTaken p status).part q).invs = if q = p then [] else (s.part q).invs := by
  have h := congrArg Part.invs (endTaken_idle s p status q)
  rw [letGo_part] at h
  refine h.trans ?_
  split <;> rfl

/-- A fence of a partition ends its invocations. -/
theorem fencePart_invs (s : State) (p q : Nat) : ((s.fencePart p).part q).invs = if q = p then [] else (s.part q).invs := by
  unfold fencePart
  rw [endTaken_invs]
  split
  · rfl
  · next h =>
    rw [part_raise, part_updPart, if_neg h]

/-- Beside the requests, the end of an invocation takes it from its partition. -/
theorem endInvocation_idle (s : State) (p : Nat) (id : W64) (status q : Nat) :
    ((s.endInvocation p id status).part q).idle = ((s.dropInv p id).part q).idle := by
  unfold endInvocation
  split
  · next h =>
    have hnone : (s.part p).invs.filter (fun v => v.planId ≠ id) = (s.part p).invs := by
      refine List.filter_eq_self.2 fun v hv => ?_
      simpa using List.find?_eq_none.1 h v hv
    simp only [dropInv, part_updPart]
    split
    · next hq => rw [hnone, hq]
    · rfl
  · next v _ =>
    have hrel : ((s.releaseAll p).dropInv p id).part q = (s.dropInv p id).part q := by
      simp only [dropInv, part_updPart, part_memless (releaseAll_memless s p)]
    dsimp only
    split
    · rw [idle_besidesRequests (endWork_besidesRequests ..), hrel]
    · rw [idle_besidesRequests (endWorkWith_besidesRequests ..), part_memless (putLaneStatus_memless ..), hrel]

/-- The end of an invocation leaves its partition none of its plan. -/
theorem endInvocation_invs (s : State) (p : Nat) (id : W64) (status : Nat) :
    ((s.endInvocation p id status).part p).invs = (s.part p).invs.filter fun v => v.planId ≠ id := by
  have h := congrArg Part.invs (endInvocation_idle s p id status p)
  rw [dropInv, part_updPart, if_pos rfl] at h
  exact h

theorem endInvocation_no_inv (s : State) (p : Nat) (id : W64) (status : Nat) :
    ∀ x ∈ ((s.endInvocation p id status).part p).invs, x.planId ≠ id := by
  intro x hx
  rw [endInvocation_invs] at hx
  simpa using (List.mem_filter.1 hx).2

end State
end Sys2Proof.Machine

/-! SUPPORT. Writes of clock requests, of the host's clock limit and of the rail targets (R34, R331, R338). -/

namespace Sys2Proof.Machine.State

/-- Every logical tile has its clock request among the entries 3110 to 3113. -/
theorem lookup_tileClock (n : Fin 512) : Od.lookup (0x3110 + n.val / 128) (n.val % 128 + 1) =
    some ⟨0x3110, 0x3113, 0x01, 0x80, .u16, .rw, 0xFFFF, .val 1800⟩ := by
  revert n; decide +kernel

/-- A clock request belongs to the device, not to an interface. -/
theorem copyOf_tileClock (fn : Iface) (n : Fin 512) : copyOf fn (0x3110 + n.val / 128) (n.val % 128 + 1) = 0 := by
  have h : ∀ n : Fin 512, ownCopy (0x3110 + n.val / 128) (n.val % 128 + 1) = false := by decide +kernel
  simp [copyOf, h n]

/-- A write of a clock request sets it to the clock that its range gives (R34). -/
theorem writeEntry_tileClock (s : State) (fn : Iface) (n : Fin 512) (v : W16) (t : Nat) :
    s.writeEntry fn (0x3110 + n.val / 128) (n.val % 128 + 1) (v.setWidth 64) t =
      (s.wrn (0x3110 + n.val / 128) (n.val % 128 + 1) (roundClock v.toNat), .done) := by
  have hn : n.val / 128 < 4 := by omega
  have h1 : 0x3110 + n.val / 128 ≠ 0x1003 ∧ 0x3110 + n.val / 128 ≠ 0x1010 ∧ 0x3110 + n.val / 128 ≠ 0x1011 ∧
      0x3110 + n.val / 128 ≠ 0x2102 ∧ 0x3110 + n.val / 128 ≠ 0x7019 ∧ 0x3110 + n.val / 128 ≠ 0x8002 := by omega
  obtain ⟨h1003, h1010, h1011, h2102, h7019, h8002⟩ := h1
  have hj : s.judgeRw (0x3110 + n.val / 128) (n.val % 128 + 1) v.toNat = .ok (roundClock v.toNat) := by
    have hr : 0x3110 + n.val / 128 ≤ 0x3113 := by omega
    simp [judgeRw, h1003, h1010, h1011, h2102, hr]
  unfold writeEntry
  rw [lookup_tileClock]
  simp only [mask16_toNat, writeRw, hj, h7019, h1011, h1003, h8002, copyOf_tileClock, if_false]
  rfl

/-- Commanding the rail again moves its voltage alone. -/
theorem setRail_fields (s : State) : s.setRail.od = s.od ∧ s.setRail.mem = s.mem ∧ s.setRail.parts = s.parts ∧
    s.setRail.fuse = s.fuse ∧ s.setRail.power.state = s.power.state := by
  unfold setRail; split <;> simp

/-- The rail's voltage follows from the dictionary, the fuses and the power state. -/
theorem railVolts_congr {s t : State} (ho : t.od = s.od) (hf : t.fuse = s.fuse) (hp : t.power.state = s.power.state) :
    t.railVolts = s.railVolts := by
  simp only [railVolts, fRail, rdn, rd_congr ho, hf, hp]

/-- With the rail commanded, its voltage is the one that follows from f_rail (R330). -/
theorem setRail_railMv (s : State) (h : 3 ≤ s.power.state) : s.setRail.power.railMv = s.setRail.railVolts := by
  obtain ⟨ho, -, -, hf, hp⟩ := setRail_fields s
  rw [railVolts_congr ho hf hp]
  unfold setRail
  split
  · next hc => simpa [Nat.not_lt.mpr h] using hc
  · simp

/-- A write of a frequency of 8002 stores what its range gives and commands the rail (R331, R338). -/
theorem writeEntry_rail (s : State) (fn : Iface) {j : Nat} (hj : j = 5 ∨ j = 6 ∨ j = 7) (v : W16) (t : Nat) :
    s.writeEntry fn 0x8002 j (v.setWidth 64) t =
      ((s.wrn 0x8002 j (if j = 5 then roundClock v.toNat else clampNat 200 1800 v.toNat)).setRail, .done) := by
  have hc : copyOf fn 0x8002 j = 0 := by
    obtain rfl | rfl | rfl := hj <;> rfl
  have hl : ∃ r, Od.lookup 0x8002 j = some r ∧ r.ty = .u16 ∧ r.acc = .rw ∧ r.mask = 0xFFFF := by
    obtain rfl | rfl | rfl := hj <;> exact ⟨_, rfl, rfl, rfl, rfl⟩
  obtain ⟨r, hr, hty, hacc, hmask⟩ := hl
  have hw : s.judgeRw 0x8002 j v.toNat = .ok (if j = 5 then roundClock v.toNat else clampNat 200 1800 v.toNat) := by
    obtain rfl | rfl | rfl := hj <;> simp [judgeRw]
  unfold writeEntry
  rw [hr]
  simp only [hty, hacc, hmask, mask16_toNat, writeRw, hw, hc]
  rfl

end Sys2Proof.Machine.State

namespace Sys2Proof

open Sys2Proof.Machine

/-- What a write of a frequency of 8002 leaves when it reaches its entry. -/
theorem put_rail {s : State} {fn : Iface} {j : Nat} (hj : j = 5 ∨ j = 6 ∨ j = 7) (v : W16) (h : Reaches s fn 0x8002 j) :
    ∃ t, s.put fn 0x8002 j (v.setWidth 64) = answered fn t ∧
      t.od = (s.wrn 0x8002 j (if j = 5 then State.roundClock v.toNat else State.clampNat 200 1800 v.toNat)).od ∧
      (3 ≤ s.power.state → t.power.railMv = t.railVolts) ∧ t.mem = s.mem ∧ t.parts = s.parts := by
  refine ⟨_, put_reaches h (State.writeEntry_rail s fn hj v s.time), ?_⟩
  obtain ⟨ho, hm, hp, -, -⟩ := State.setRail_fields
    (s.wrn 0x8002 j (if j = 5 then State.roundClock v.toNat else State.clampNat 200 1800 v.toNat))
  exact ⟨ho, fun h3 => State.setRail_railMv _ (by simpa using h3), by simpa using hm, by simpa using hp⟩

/-- Settles O16, by what a write of each of these entries leaves. -/
theorem clockWrites : Obligations.ClockWrites := by
  unfold Obligations.ClockWrites
  intro s fn tile v watch
  refine ⟨fun h => ?_, fun h => ?_, fun h => ?_⟩
  · exact congrArg Host.Outcome.next (put_reaches h (State.writeEntry_tileClock s fn tile v s.time))
  · obtain ⟨t, ht, hf⟩ := put_rail (Or.inl rfl) v h
    exact ⟨t, congrArg Host.Outcome.next ht, hf⟩
  · have hj : (if watch then 7 else 6) = 6 ∨ (if watch then 7 else 6) = 7 := by cases watch <;> simp
    have hne : (if watch then 7 else 6) ≠ 5 := by cases watch <;> decide
    obtain ⟨t, ht, ho, hf⟩ := put_rail (j := if watch then 7 else 6) (Or.inr hj) v h
    rw [if_neg hne] at ho
    exact ⟨t, congrArg Host.Outcome.next ht, ho, hf⟩

end Sys2Proof

/-! SUPPORT. Starts: what a start keeps and what it sets (R354, R398, R427, Table 15-5). -/

namespace Sys2Proof.Machine

namespace NMap

variable {α : Type}

/-- A selection by key keeps the values of the keys that it selects. -/
theorem find_filter_key (g : Nat → Bool) (k : Nat) (m : NMap α) :
    find k (m.filter fun x => g x.1) = if g k then find k m else none := by
  induction m with
  | nil => simp
  | cons x m ih =>
    obtain ⟨a, v⟩ := x
    by_cases ha : a = k
    · subst ha; cases hg : g a <;> simp [hg, find, ih]
    · cases hg : g a <;> simp [hg, find, ha, ih]

end NMap

/-- The entries that a start reports in, beside its own count. -/
def Od.reported (i j : Nat) : Bool :=
  [0x4401, 0x4480, 0x9001, 0x9003, 0x9011, 0xF002].contains i || (i = 0x2010 && 2 ≤ j)

/-- The row of an rwp entry. -/
theorem Od.row_of_isRwp {i j : Nat} (h : Od.isRwp i j = true) :
    ∃ r ∈ Od.page (i / 256), r.lo ≤ i ∧ i ≤ r.hi ∧ r.acc = .rwp ∧ j ≤ r.subHi := by
  simp only [Od.isRwp, Od.lookup] at h
  split at h
  · next r hr =>
    have hf := List.find?_some hr
    simp only [Bool.and_eq_true, decide_eq_true_eq] at hf
    obtain ⟨⟨⟨hlo, hhi⟩, -⟩, hsub⟩ := hf
    exact ⟨r, List.mem_of_find?_eq_some hr, hlo, hhi, by simpa using h, hsub⟩
  · split at h
    · split at h <;> simp at h
    · simp at h

/-- A start reports in no rwp entry, and counts in none. -/
theorem Od.isRwp_not_reported {i j : Nat} (h : Od.isRwp i j = true) : Od.reported i j = false ∧ i ≠ 0xA000 := by
  obtain ⟨r, hr, hlo, hhi, hacc, hsub⟩ := Od.row_of_isRwp h
  have hnone : ∀ i ∈ [0x4401, 0x4480, 0x9001, 0x9003, 0x9011, 0xF002, 0xA000], ∀ r ∈ Od.page (i / 256),
      r.lo ≤ i → i ≤ r.hi → r.acc ≠ .rwp := by decide +kernel
  have hnode : ∀ r ∈ Od.page (0x2010 / 256), r.lo ≤ 0x2010 → 0x2010 ≤ r.hi → r.acc = .rwp → r.subHi ≤ 1 := by decide +kernel
  have hout : i ∉ [0x4401, 0x4480, 0x9001, 0x9003, 0x9011, 0xF002, 0xA000] := fun hi => hnone i hi r hr hlo hhi hacc
  have hsub2 : i = 0x2010 → ¬ 2 ≤ j := by
    rintro rfl; have := hnode r hr hlo hhi hacc; omega
  simp only [List.mem_cons, List.not_mem_nil, or_false, not_or] at hout
  simp only [Od.reported, List.contains_eq_mem, List.mem_cons, List.not_mem_nil, or_false, Bool.or_eq_false_iff,
    decide_eq_false_iff_not, Bool.and_eq_false_iff]
  omega

namespace State

/-- A state without its dictionary, its store, its map of tiles and its bedrock. -/
def unstored (s : State) : State :=
  { s with od := [], persist := Persist.fresh, fabric := State.reset.fabric, bedrock := Bedrock.empty }

theorem rd_wrn_reported (s : State) {i j i' j' : Nat} (v : Nat) (hi : Od.reported i j = true) (hj : j < 256) (hj' : j' < 256)
    (h : Od.reported i' j' = false) : (s.wrn i j v).rd i' j' = s.rd i' j' := by
  exact rd_wrn_other s v (odKey_ne hj hj' (Od.entry_ne hi h))

theorem rd_raise_reported (s : State) {i b i' j' : Nat} (hi : ∀ j, Od.reported i j = true) (hb : b < 64) (hj' : j' < 256)
    (h : Od.reported i' j' = false) : (s.raise i b).rd i' j' = s.rd i' j' := by
  have hne : i' ≠ i := by rintro rfl; rw [hi] at h; cases h
  exact rd_raise_other s (odKey_ne (by omega) hj' (.inl hne)) (odKey_ne (by omega) hj' (.inl hne))

/-- From `s` to `t` a start has gone on: it reports, builds its map, and takes in its store and its bedrock. -/
structure StartGoesOn (s t : State) : Prop where
  unstored : t.unstored = s.unstored
  rd : ∀ i j, j < 256 → Od.reported i j = false → t.rd i j = s.rd i j

theorem StartGoesOn.refl (s : State) : StartGoesOn s s := ⟨rfl, fun _ _ _ _ => rfl⟩

theorem StartGoesOn.trans {s t u : State} (h : StartGoesOn s t) (k : StartGoesOn t u) : StartGoesOn s u :=
  ⟨k.unstored.trans h.unstored, fun i j hj hr => (k.rd i j hj hr).trans (h.rd i j hj hr)⟩

theorem StartGoesOn.raise {s t : State} (k : StartGoesOn s t) {i b : Nat} (hi : ∀ j, Od.reported i j = true) (hb : b < 64) :
    StartGoesOn s (t.raise i b) :=
  k.trans ⟨rfl, fun _ _ hj hr => rd_raise_reported t hi hb hj hr⟩

theorem StartGoesOn.wrn {s t : State} (k : StartGoesOn s t) {i j : Nat} (v : Nat) (hi : Od.reported i j = true) (hj : j < 256) :
    StartGoesOn s (t.wrn i j v) :=
  k.trans ⟨rfl, fun _ _ hj' hr => rd_wrn_reported t v hi hj hj' hr⟩

/-- What touches no entry of the dictionary goes on. -/
theorem StartGoesOn.same {s t u : State} (k : StartGoesOn s t) (h : u.unstored = t.unstored) (ho : u.od = t.od) : StartGoesOn s u :=
  k.trans ⟨h, fun i j _ _ => rd_congr ho i j⟩

theorem StartGoesOn.ite {c : Prop} [Decidable c] {s t u : State} (h : StartGoesOn s t) (k : StartGoesOn s u) :
    StartGoesOn s (if c then t else u) := by
  split
  · exact h
  · exact k

/-- With no bad page, no page of the store gets factory content. -/
theorem factoryPages_nil {found : StartFinds} (h : found.badPages = []) : factoryPages found = [] := by
  simp [factoryPages, h]

theorem factory_nil (s : State) : s.factory [] = s := by simp [factory]

/-- The check of a store without a bad page reports at most the bad word. -/
theorem storeCheck_goesOn (s : State) {found : StartFinds} (h : found.badPages = []) : StartGoesOn s (s.storeCheck found) := by
  unfold storeCheck
  simp only [factoryPages_nil h, factory_nil, List.foldl_nil]
  refine .ite (.raise ?_ (fun _ => rfl) (by decide)) ?_
  all_goals exact .same (.refl s) rfl rfl

theorem installResult_goesOn (s : State) (r : Nat) : StartGoesOn s (s.installResult r) := by
  have h : StartGoesOn s ((s.wrn 0x4480 6 r).wrn 0x4480 5 0) := ((StartGoesOn.refl s).wrn r rfl (by decide)).wrn 0 rfl (by decide)
  unfold installResult
  exact .ite h (h.raise (fun _ => rfl) (by decide))

theorem restoreJournal_goesOn (s : State) (off : Bool) : StartGoesOn s (s.restoreJournal off) := by
  unfold restoreJournal
  dsimp only
  refine .ite (.raise ?_ (fun _ => rfl) (by decide)) ?_
  all_goals exact .same (.refl s) rfl rfl

theorem startJournal_goesOn (s : State) (off : Bool) : StartGoesOn s (s.startJournal off) := by
  unfold startJournal
  have h : StartGoesOn s (if (off || s.persist.unclean) = true then s.restoreJournal off else s) :=
    .ite (restoreJournal_goesOn s off) (.refl s)
  exact .ite (.same (h.raise (i := 0x4401) (b := 8) (fun _ => rfl) (by decide)) rfl rfl) h

/-- A self-test in which no checker fails and no failure is of class 3 reports its result. -/
theorem selfTest_goesOn (s : State) {found : StartFinds} (h : found.failed = []) (h3 : found.class3 = false) :
    StartGoesOn s (s.selfTest found) := by
  unfold selfTest
  simp only [h, h3, List.foldl_nil, Bool.false_eq_true, if_false]
  refine .wrn ?_ _ (i := 0x9011) (j := 1) rfl (by decide)
  exact .same (.refl s) rfl rfl

/-- The report of a halt before this start (R354). -/
def haltReport (s : State) : State :=
  if s.persist.fatalPending then
    { (s.bump32 0x9003 3 1).raise 0x9001 11 with persist := { s.persist with fatalPending := false } }
  else s

theorem countStart_eq (s : State) (off : Bool) : s.countStart off =
    haltReport (if off then (s.bump32 0xA000 6 1).bump32 0xA000 5 1 else s.bump32 0xA000 6 1) := rfl

theorem haltReport_goesOn (s : State) : StartGoesOn s s.haltReport := by
  have h : StartGoesOn s ((s.bump32 0x9003 3 1).raise 0x9001 11) :=
    ((StartGoesOn.refl s).wrn _ (i := 0x9003) (j := 3) rfl (by decide)).raise (fun _ => rfl) (by decide)
  exact .ite (.same h rfl rfl) (.refl s)

/-- Counting the start touches the counts and reports. -/
theorem countStart_facts (s : State) (off : Bool) :
    (s.countStart off).unstored = s.unstored ∧
    (∀ i j, j < 256 → Od.reported i j = false → i ≠ 0xA000 → (s.countStart off).rd i j = s.rd i j) ∧
    (s.countStart off).rdn 0xA000 6 = (s.rdn 0xA000 6 + 1) % 4294967296 ∧
    (off = true → (s.countStart off).rdn 0xA000 5 = (s.rdn 0xA000 5 + 1) % 4294967296) := by
  obtain ⟨hu, hr⟩ := haltReport_goesOn (if off = true then (s.bump32 0xA000 6 1).bump32 0xA000 5 1 else s.bump32 0xA000 6 1)
  rw [← countStart_eq] at hu hr
  refine ⟨hu.trans (by cases off <;> rfl), fun i j hj hn hi => ?_, ?_, ?_⟩
  · have hk : ∀ j', odKey 0 i j ≠ odKey 0 0xA000 (5 + j' % 2) := fun j' => odKey_ne (by omega) hj (.inl hi)
    have h5 := hk 0
    have h6 := hk 1
    rw [hr i j hj hn]
    cases off <;> simp_all [rd_bump32]
  · simp only [rdn]
    rw [hr _ _ (by decide) rfl]
    cases off <;> simp [rd_bump32, odKey, rdn] <;> omega
  · rintro rfl
    simp only [rdn]
    rw [hr _ _ (by decide) rfl]
    simp [rd_bump32, odKey, rdn]
    omega

/-- Of the entries that all interfaces share, a start keeps those of class rwp and the counts and records that stand in the store; every other reads as at reset. -/
theorem rd_fresh (s : State) (off : Bool) (lk : Link) {i j : Nat} (hi : i < 65536) (hj : j < 256) :
    (s.fresh off lk).rd i j = if Od.isRwp i j || Od.kept i j then s.rd i j else Od.default (odKey 0 i j) := by
  have hkey : odKey 0 i j / 256 = i ∧ odKey 0 i j % 256 = j ∧ odKey 0 i j < 16777216 := by simp only [odKey]; omega
  obtain ⟨h1, h2, h3⟩ := hkey
  have hf := NMap.find_filter_key (fun k => decide (k < 16777216) && (Od.isRwp (k / 256) (k % 256) || Od.kept (k / 256) (k % 256)))
    (odKey 0 i j) s.od
  simp only [h1, h2, h3, decide_true, Bool.true_and] at hf
  simp only [rd, rdI, fresh, NMap.get, hf]
  split <;> simp

/-- What a start begins from keeps the dictionary's rwp entries through the loss of the install job and of the memories. -/
def startFrom (s : State) (off : Bool) : State :=
  let s0 := if s.installBusy then s.dropInstall else s
  if off then s0.loseUnits fun _ => true else s0

theorem dropInstall_fields (s : State) : s.dropInstall.od = s.od ∧ s.dropInstall.time = s.time ∧ s.dropInstall.pending = s.pending := by
  unfold dropInstall
  split
  · exact ⟨rfl, rfl, rfl⟩
  · dsimp only; split <;> exact ⟨rfl, rfl, rfl⟩

theorem startFrom_fields (s : State) (off : Bool) :
    (s.startFrom off).od = s.od ∧ (s.startFrom off).time = s.time ∧ (s.startFrom off).pending = s.pending := by
  have h : (if s.installBusy then s.dropInstall else s).od = s.od ∧ (if s.installBusy then s.dropInstall else s).time = s.time ∧
      (if s.installBusy then s.dropInstall else s).pending = s.pending := by
    split
    · exact dropInstall_fields s
    · exact ⟨rfl, rfl, rfl⟩
  unfold startFrom
  cases off <;> exact h

/-- A start from what it begins with up to the choice of the node-ID (Table 15-5). -/
theorem start_eq (s : State) (off : Bool) (lk : Link) (straps : Nat) {found : StartFinds} (hf : found.failed = [])
    (h3 : found.class3 = false) (hb : found.badPages = []) :
    ∃ a u : State, ∃ id src ap : Nat, StartGoesOn ((s.startFrom off).fresh off lk) a ∧ StartGoesOn (a.countStart off) u ∧
      s.start off lk straps found =
        (((u.wrn 0x2010 4 straps).wrn 0x2010 2 id).wrn 0x2010 3 src).updLink fun l => { l with aperture := ap } := by
  refine ⟨_, _, _, _, _, storeCheck_goesOn _ hb, ?_, rfl⟩
  refine .trans ?_ (startJournal_goesOn _ off)
  refine .trans ?_ (selfTest_goesOn _ hf h3)
  refine .same (t := if s.installBusy then ((((s.startFrom off).fresh off lk).storeCheck found).countStart off).installResult 9
    else (((s.startFrom off).fresh off lk).storeCheck found).countStart off) ?_ rfl rfl
  exact .ite (installResult_goesOn _ 9) (.refl _)

/-- The device right after a start from `s`: ACTIVE and NORMAL, no image, no work, the straps read, the start counted, every rwp entry kept. -/
def StartedFrom (s : State) (straps : BitVec 7) (t : State) : Prop :=
  t.power.state = 4 ∧ t.parts = [] ∧ t.streams = [] ∧ t.groups = [] ∧ t.seqs = [] ∧ t.pools = [] ∧ t.cans = [] ∧ t.staged = [] ∧ t.xfer = [] ∧
    t.pending = s.pending ∧ t.faults.mode = .normal ∧ t.rdn 0x2200 1 = 0 ∧ t.link.image = none ∧ t.rdn 0x2010 4 = straps.toNat ∧
    t.rdn 0xA000 6 = (s.rdn 0xA000 6 + 1) % 4294967296 ∧ ∀ i sub, i < 65536 → sub < 256 → Od.isRwp i sub = true → t.rd i sub = s.rd i sub

/-- What a start without a failure comes to. -/
theorem start_startedFrom (s : State) (off : Bool) {lk : Link} (straps : BitVec 7) {found : StartFinds} (hlk : lk.image = none)
    (hf : found.failed = []) (h3 : found.class3 = false) (hb : found.badPages = []) :
    StartedFrom s straps (s.start off lk straps.toNat found) ∧
    (s.start off lk straps.toNat found).time = (if off then 0 else s.time) ∧
    (s.start off lk straps.toNat found).link.perst = lk.perst ∧
    (off = true → (s.start off lk straps.toNat found).rdn 0xA000 5 = (s.rdn 0xA000 5 + 1) % 4294967296) := by
  obtain ⟨a, u, id, src, ap, ha, hu, heq⟩ := start_eq s off lk straps.toNat hf h3 hb
  obtain ⟨hcu, hcr, hc6, hc5⟩ := countStart_facts a off
  obtain ⟨hod, htime, hpend⟩ := startFrom_fields s off
  have hE : u.unstored = ((s.startFrom off).fresh off lk).unstored := hu.unstored.trans (hcu.trans ha.unstored)
  -- what the start does not report in reads as before its counts
  have hrest : ∀ i j, j < 256 → Od.reported i j = false → (s.start off lk straps.toNat found).rd i j = (a.countStart off).rd i j := by
    intro i j hj hr
    rw [heq]
    have h1 := hu.rd i j hj hr
    rw [← rd_wrn_reported u straps.toNat (i := 0x2010) (j := 4) rfl (by decide) hj hr,
      ← rd_wrn_reported _ id (i := 0x2010) (j := 2) rfl (by decide) hj hr,
      ← rd_wrn_reported _ src (i := 0x2010) (j := 3) rfl (by decide) hj hr] at h1
    exact h1
  have hfresh : ∀ i j, i < 65536 → j < 256 → Od.reported i j = false →
      a.rd i j = if Od.isRwp i j || Od.kept i j then s.rd i j else Od.default (odKey 0 i j) := by
    intro i j hi hj hr
    rw [ha.rd i j hj hr, rd_fresh _ _ _ hi hj, rd_congr hod]
  have hA : ∀ j, j < 256 → Od.kept 0xA000 j = true → a.rdn 0xA000 j = s.rdn 0xA000 j := by
    intro j hj hk
    simp only [rdn]
    rw [hfresh _ _ (by decide) hj rfl, if_pos (by simp [hk])]
  have hfirmware : (s.start off lk straps.toNat found).rdn 0x2200 1 = 0 := by
    simp only [rdn]
    rw [hrest _ _ (by decide) rfl, hcr _ _ (by decide) rfl (by decide), hfresh _ _ (by decide) (by decide) rfl,
      if_neg (by decide +kernel)]
    decide +kernel
  have hstraps : (s.start off lk straps.toNat found).rdn 0x2010 4 = straps.toNat := by
    have hs := straps.isLt
    rw [heq]
    show State.rdn (State.wrn (State.wrn _ _ _ _) _ _ _) 0x2010 4 = _
    rw [rdn_wrn_other _ _ (by decide), rdn_wrn_other _ _ (by decide), rdn_wrn_same _ _ _ _ (by omega)]
  have hcount : (s.start off lk straps.toNat found).rdn 0xA000 6 = (s.rdn 0xA000 6 + 1) % 4294967296 := by
    rw [← hA 6 (by decide) rfl, ← hc6, rdn, hrest _ _ (by decide) rfl, rdn]
  have hcold : off = true → (s.start off lk straps.toNat found).rdn 0xA000 5 = (s.rdn 0xA000 5 + 1) % 4294967296 := fun ho => by
    rw [← hA 5 (by decide) rfl, ← hc5 ho, rdn, hrest _ _ (by decide) rfl, rdn]
  have hrwp : ∀ i sub, i < 65536 → sub < 256 → Od.isRwp i sub = true →
      (s.start off lk straps.toNat found).rd i sub = s.rd i sub := by
    intro i j hi hj hr
    obtain ⟨hrep, hne⟩ := Od.isRwp_not_reported hr
    rw [hrest i j hj hrep, hcr i j hj hrep hne, hfresh i j hi hj hrep, hr, Bool.true_or, if_pos rfl]
  have htime0 : ((s.startFrom off).fresh off lk).time = if off then 0 else s.time := by
    rw [← htime]; rfl
  rw [heq] at hfirmware hstraps hcount hcold hrwp ⊢
  exact ⟨⟨congrArg (fun t : State => t.power.state) hE, congrArg State.parts hE, congrArg State.streams hE, congrArg State.groups hE,
    congrArg State.seqs hE, congrArg State.pools hE, congrArg State.cans hE, congrArg State.staged hE, congrArg State.xfer hE,
    (congrArg State.pending hE).trans hpend, congrArg (fun t : State => t.faults.mode) hE, hfirmware,
    (congrArg (fun t : State => t.link.image) hE).trans hlk, hstraps, hcount, hrwp⟩,
    (congrArg State.time hE).trans htime0, congrArg (fun t : State => t.link.perst) hE, hcold⟩

/-- Loss of power: the device is OFF and every output is released (R449, R460). -/
theorem powerDown_off {s : State} (h : s.power.state ≠ 0) (clean : Bool) :
    let t := s.powerDown clean
    t.power.state = 0 ∧ t.power.coreEn = false ∧ t.link.wakeN = false ∧ t.faults.faultN = false ∧ t.tap = ⟨.idcode, 0⟩ ∧
      (∀ o, t.floats o = true) ∧ (∀ r, t.railOn r = false) ∧ t.persist = { s.persist with unclean := !clean } ∧ t.od = s.od ∧
      t.bedrock = s.bedrock ∧ t.pending = s.pending ∧ t.alive = false := by
  have heq : s.powerDown clean = { s.updPower fun x => { x with state := 0, coreEn := false, xtal := false } with
      persist := { s.persist with unclean := !clean }
      link := { s.link with wakeN := false, width := 0, speed := 0, dump := none }
      faults := { s.faults with faultN := false }
      tap := ⟨.idcode, 0⟩ } := if_neg h
  rw [heq]
  exact ⟨rfl, rfl, rfl, rfl, rfl, fun _ => rfl, fun _ => rfl, rfl, rfl, rfl, rfl, off_alive rfl⟩

end State
end Sys2Proof.Machine

/-! SUPPORT. The function-level reset of a virtual function: what it takes from its partition and what it leaves (R394). -/

namespace Sys2Proof.Machine

namespace NMap

variable {α : Type}

theorem mem_keys_of_find {k : Nat} {v : α} {m : NMap α} (h : find k m = some v) : k ∈ keys m := by
  induction m with
  | nil => cases h
  | cons x m ih =>
    obtain ⟨a, w⟩ := x
    by_cases ha : a = k
    · simp [keys, ha]
    · rw [find, if_neg ha] at h
      exact List.mem_cons_of_mem _ (ih h)

/-- A key that does not read as an unlisted one is listed. -/
theorem mem_keys_of_get_ne {d : Nat → α} {k : Nat} {m : NMap α} (h : get d m k ≠ d k) : k ∈ keys m := by
  cases hf : find k m with
  | none => exact absurd (by rw [get, hf]; rfl) h
  | some v => exact mem_keys_of_find hf

end NMap

namespace State

/-- A state without what its partitions share: the fabric, the memories, the page tables, and what runs in the engines. -/
def unshared (s : State) : State :=
  { s with fabric := State.reset.fabric, mem := Mem.clear, seqs := [], pools := [], pipes := [], edges := [], groups := [] }

theorem parts_unshared {s t : State} (h : t.unshared = s.unshared) : t.parts = s.parts := by
  have := congrArg State.parts h
  exact this

theorem part_unshared {s t : State} (h : t.unshared = s.unshared) (q : Nat) : t.part q = s.part q := by
  rw [part, parts_unshared h, part]

theorem dropHolds_unshared (s : State) (h : Nat) : (s.dropHolds h).unshared = s.unshared := by
  unfold dropHolds
  refine foldl_keeps unshared (fun u k => ?_) _ s
  rfl

theorem unshared_memless {s t : State} (h : t.memless = s.memless) : t.unshared = s.unshared :=
  (congrArg unshared h :)

theorem setHalves_unshared (s : State) (n : Nat) (h : Halves) : (s.setHalves n h).unshared = s.unshared := rfl
theorem setSeq_unshared (s : State) (q : Nat) (x : Seq) : (s.setSeq q x).unshared = s.unshared := rfl
theorem setPool_unshared (s : State) (p : Nat) (x : Pool) : (s.setPool p x).unshared = s.unshared := rfl

theorem putPool_unshared (s : State) (p k o : Nat) (bs : List Byte) : (s.putPool p k o bs).unshared = s.unshared := by
  unfold putPool
  exact unshared_memless (privWrite_memless _ _ _ _)

theorem dropPage_unshared (s : State) (p k : Nat) : (s.dropPage p k).unshared = s.unshared := by
  unfold dropPage setCount
  rw [putPool_unshared, setPool_unshared]

theorem setLeaf_unshared (p c d : Nat) (x : Option Nat) (s : State) : (setLeaf p c d x s).unshared = s.unshared := by
  unfold setLeaf putEntry
  rw [putPool_unshared, setSeq_unshared]

theorem setEntry_unshared (p c v : Nat) (x : Option Nat) (s : State) : (setEntry p c v x s).unshared = s.unshared := by
  unfold setEntry putEntry
  dsimp only
  split
  · rw [putPool_unshared, setSeq_unshared]
  · rfl

theorem unmapPage_unshared (p c : Nat) (s : State) (v : Nat) : (unmapPage p c s v).unshared = s.unshared := by
  unfold unmapPage
  dsimp only
  split
  · rfl
  · next k _ =>
    have h : (setEntry p c v none (s.dropPage p k)).unshared = s.unshared := by rw [setEntry_unshared, dropPage_unshared]
    split
    · exact h
    · split
      · exact h
      · rw [setLeaf_unshared, dropPage_unshared, h]

theorem freeSeq_unshared (s : State) (p c : Nat) : (s.freeSeq p c).unshared = s.unshared := by
  have hlab : (s.dropLab c).unshared = s.unshared := by
    unfold dropLab
    refine foldl_keeps unshared (fun u n => ?_) _ s
    rfl
  have hpages := foldl_keeps unshared (unmapPage_unshared p c) ((s.seq c).pages.map Prod.fst) (s.dropLab c)
  unfold freeSeq
  rw [setSeq_unshared, dropPage_unshared, hpages, hlab]

theorem dropConfig_unshared (s : State) (p : Nat) (id : W64) : (s.dropConfig p id).unshared = s.unshared := by
  unfold dropConfig
  refine foldl_keeps unshared (fun u n => ?_) _ s
  dsimp only
  split
  · rw [setHalves_unshared]
    exact unshared_memless (zeroMarked_memless u n)
  · rfl

/-- What partition `q` keeps while partition p loses plans and frames: all of it, but for the plans and the frames of p itself. -/
def keptPart (s : State) (p q : Nat) : Part := if q = p then { s.part q with frames := [], plans := [] } else s.part q

theorem keptPart_congr {s t : State} (h : t.parts = s.parts) (p : Nat) : t.keptPart p = s.keptPart p := by
  funext q
  simp only [keptPart, part, h]

theorem keptPart_unshared {s t : State} (h : t.unshared = s.unshared) (p : Nat) : t.keptPart p = s.keptPart p :=
  keptPart_congr (parts_unshared h) p

theorem keptPart_updPart (s : State) (p : Nat) {f : Part → Part}
    (hf : ∀ x, { f x with frames := [], plans := [] } = { x with frames := [], plans := [] }) :
    (s.updPart p f).keptPart p = s.keptPart p := by
  funext q
  simp only [keptPart, part_updPart]
  split
  · next h => subst h; exact hf _
  · rfl

theorem emptyFrames_keptPart (s : State) (p : Nat) (f : FrameUse → Bool) : (s.emptyFrames p f).keptPart p = s.keptPart p := by
  refine keptPart_updPart s p ?_
  intro x; rfl

theorem freeStream_keptPart (s : State) (p n : Nat) : (s.freeStream p n).keptPart p = s.keptPart p := by
  refine (keptPart_congr (setStream_parts _ _ _) p).trans ?_
  exact emptyFrames_keptPart s p _

/-- An unloaded plan takes plans and frames from its partition alone. -/
theorem unloadPlan_keptPart (s : State) (p : Nat) (id : W64) : (s.unloadPlan p id).keptPart p = s.keptPart p := by
  refine (keptPart_updPart _ p ?_).trans ((emptyFrames_keptPart _ p _).trans (keptPart_unshared (dropConfig_unshared s p id) p))
  intro x; rfl

/-- Of a partition's plans, unloading one leaves the others. -/
theorem unloadPlan_plans (s : State) (p : Nat) (id : W64) :
    ((s.unloadPlan p id).part p).plans = (s.part p).plans.filter fun l => l.plan.planId ≠ id := by
  simp only [unloadPlan, emptyFrames, part_updPart, if_true, part_unshared (dropConfig_unshared s p id)]

/-- Unloading plans one by one leaves the plans that are not among them. -/
theorem foldl_unloadPlan_plans (p : Nat) (ids : List W64) (s : State) :
    ((ids.foldl (fun s id => s.unloadPlan p id) s).part p).plans = (s.part p).plans.filter fun l => l.plan.planId ∉ ids := by
  induction ids generalizing s with
  | nil => exact (List.filter_eq_self.2 fun _ _ => by simp).symm
  | cons id ids ih => simp [ih, unloadPlan_plans, List.filter_filter, Bool.and_comm]

theorem unloadPlan_streams (s : State) (p : Nat) (id : W64) : (s.unloadPlan p id).streams = s.streams := by
  have := congrArg State.streams (dropConfig_unshared s p id)
  exact this


/-- The open streams of a partition are those of its range that are not FREE. -/
theorem mem_openStreams {s : State} {p n : Nat} : n ∈ s.openStreams p ↔
    s.streamBase p ≤ n ∧ n < s.streamBase p + s.streamCount p ∧ (s.stream n).state ≠ .free := by
  simp only [openStreams, List.mem_filter, Bool.and_eq_true, decide_eq_true_eq]
  constructor
  · rintro ⟨-, ⟨h1, h2⟩, h3⟩; exact ⟨h1, h2, h3⟩
  · rintro ⟨h1, h2, h3⟩
    refine ⟨NMap.mem_keys_of_get_ne (d := fun _ => Stream.free) ?_, ⟨h1, h2⟩, h3⟩
    intro hg
    exact h3 (by rw [stream, hg]; rfl)

/-- The end of a partition's steps and jobs leaves its streams in their states. -/
theorem letGo_state (s : State) (p n : Nat) : ((s.letGo p).stream n).state = (s.stream n).state := by
  unfold letGo
  refine (foldl_keeps (fun t : State => (t.stream n).state) (fun t m => ?_) _ _).trans rfl
  simp only [stream_updStream]
  split
  · next h => subst h; rfl
  · rfl

/-- What neither a partition's requests nor its plans and streams are in. -/
def untenanted (s : State) : State := { s.unshared with parts := [], streams := [] }

theorem untenanted_unshared {s t : State} (h : t.unshared = s.unshared) : t.untenanted = s.untenanted := by
  rw [untenanted, h, untenanted]

theorem letGo_untenanted (s : State) (p : Nat) : (s.letGo p).untenanted = s.untenanted := by
  unfold letGo
  refine (foldl_keeps untenanted (fun t m => ?_) _ _).trans rfl
  rfl

/-- What a reset of its partition does with an open stream: a feed keeps its context (R291). -/
def resetStream (p : Nat) (s : State) (n : Nat) : State :=
  if s.feedHolds n then (s.leaveSteps n).updStream n fun x => { x with chunks := [] } else (s.leaveSteps n).freeStream p n

theorem resetStream_untenanted (p : Nat) (s : State) (n : Nat) : (resetStream p s n).untenanted = s.untenanted := by
  unfold resetStream; split <;> rfl

theorem resetStream_keptPart (p : Nat) (s : State) (n : Nat) : (resetStream p s n).keptPart p = s.keptPart p := by
  unfold resetStream
  split
  · exact keptPart_congr (by simp [leaveSteps]) p
  · exact (freeStream_keptPart _ p n).trans (keptPart_congr (by simp [leaveSteps]) p)

theorem feedHolds_untenanted {s t : State} (h : t.untenanted = s.untenanted) (n : Nat) : t.feedHolds n = s.feedHolds n := by
  have ha : t.audio = s.audio := by
    have := congrArg State.audio h
    exact this
  rw [feedHolds, ha, feedHolds]

/-- A stream that is FREE stays so, and one that no feed holds becomes so. -/
theorem resetStream_free {p : Nat} {s : State} {n m : Nat} (hf : s.feedHolds n = false) (h : (s.stream n).state = .free ∨ n = m) :
    ((resetStream p s m).stream n).state = .free := by
  unfold resetStream
  split
  · next hm =>
    have hne : n ≠ m := by rintro rfl; rw [hf] at hm; cases hm
    rw [stream_updStream, if_neg hne]
    exact h.resolve_right hne
  · rw [freeStream, stream, setStream]
    by_cases hne : n = m
    · subst hne; rw [NMap.get_set_same]; rfl
    · rw [NMap.get_set_other _ _ _ hne]
      exact h.resolve_right hne

theorem foldl_resetStream_free (p : Nat) (l : List Nat) {s : State} {n : Nat} (hf : s.feedHolds n = false)
    (h : (s.stream n).state = .free ∨ n ∈ l) : ((l.foldl (resetStream p) s).stream n).state = .free := by
  induction l generalizing s with
  | nil => simpa using h
  | cons m l ih =>
    rw [List.foldl_cons]
    refine ih ((feedHolds_untenanted (resetStream_untenanted p s m) n).trans hf) ?_
    rw [List.mem_cons, ← or_assoc] at h
    exact h.imp_left (resetStream_free hf)

/-- A reset of a virtual function, first: what its partition has taken ends without a record. -/
def requestsEnded (s : State) (p : Nat) : State :=
  let s0 := (s.part p).work.foldl (fun s w => s.dropHolds (p * 64 + w.slot)) s
  (s0.letGo p).updPart p fun x => { x with work := [], waiting := [], window := [] }

/-- Then its streams go. -/
def streamsGone (p : Nat) (s : State) : State := (s.openStreams p).foldl (resetStream p) s

/-- Then its sequences. -/
def seqsGone (p : Nat) (s : State) : State := (s.openSeqs p).foldl (fun s q => s.freeSeq p q) s

/-- Then its plans. -/
def plansGone (p : Nat) (s : State) : State := ((s.part p).plans.map fun l => l.plan.planId).foldl (fun s id => s.unloadPlan p id) s

/-- Last its ring, its Bus Master Enable and its messages. -/
def ringGone (p : Nat) (s : State) : State :=
  ((s.wrn 0x7019 (p + 1) 0).wrn 0x701A (p + 1) 0).updLink fun l =>
    { l with bme := l.bme.filter (· ≠ p + 1), msgs := l.msgs.filter fun x => x.1 ≠ p + 1 }

theorem resetVf_eq (s : State) (p : Nat) :
    s.resetVf p = ringGone p (plansGone p (seqsGone p (streamsGone p (s.requestsEnded p)))) := rfl

theorem dropHolds_fold_unshared (s : State) (p : Nat) :
    ((s.part p).work.foldl (fun s w => s.dropHolds (p * 64 + w.slot)) s).unshared = s.unshared :=
  foldl_keeps unshared (fun u _ => dropHolds_unshared u _) _ s

theorem requestsEnded_untenanted (s : State) (p : Nat) : (s.requestsEnded p).untenanted = s.untenanted := by
  unfold requestsEnded
  refine Eq.trans ?_ ((letGo_untenanted _ p).trans (untenanted_unshared (dropHolds_fold_unshared s p)))
  rfl

theorem requestsEnded_part (s : State) (p q : Nat) : (s.requestsEnded p).part q = if q = p then
    { s.part p with work := [], waiting := [], window := [], invs := [], loads := [], frames := dropLoads (s.part p).loads (s.part p).frames }
    else s.part q := by
  have h := part_unshared (dropHolds_fold_unshared s p)
  simp only [requestsEnded, part_updPart, letGo_part, h, if_true]
  split <;> rfl

theorem requestsEnded_state (s : State) (p n : Nat) : ((s.requestsEnded p).stream n).state = (s.stream n).state := by
  have hs : ((s.part p).work.foldl (fun s w => s.dropHolds (p * 64 + w.slot)) s).streams = s.streams := by
    have := congrArg State.streams (dropHolds_fold_unshared s p)
    exact this
  have h := letGo_state ((s.part p).work.foldl (fun s w => s.dropHolds (p * 64 + w.slot)) s) p n
  simp only [requestsEnded]
  rw [stream, updPart_streams, ← stream, h, stream, hs, stream]

theorem od_untenanted {s t : State} (h : t.untenanted = s.untenanted) : t.od = s.od := by
  have := congrArg State.od h
  exact this

/-- The end of its requests leaves a partition's open streams open. -/
theorem openStreams_requestsEnded (s : State) (p n : Nat) : n ∈ (s.requestsEnded p).openStreams p ↔ n ∈ s.openStreams p := by
  have ho := od_untenanted (requestsEnded_untenanted s p)
  simp only [mem_openStreams, requestsEnded_state, streamBase, streamCount, rdn, rd_congr ho]

theorem streamsGone_free {s : State} {p n : Nat} (hn : n ∈ s.openStreams p) (hf : s.feedHolds n = false) :
    ((streamsGone p s).stream n).state = .free := foldl_resetStream_free p _ hf (.inr hn)

theorem streamsGone_keptPart (p : Nat) (s : State) : (streamsGone p s).keptPart p = s.keptPart p :=
  foldl_keeps (fun u : State => u.keptPart p) (fun u n => resetStream_keptPart p u n) _ s

theorem seqsGone_unshared (p : Nat) (s : State) : (seqsGone p s).unshared = s.unshared :=
  foldl_keeps unshared (fun u q => freeSeq_unshared u p q) _ s

theorem plansGone_keptPart (p : Nat) (s : State) : (plansGone p s).keptPart p = s.keptPart p :=
  foldl_keeps (fun u : State => u.keptPart p) (fun u id => unloadPlan_keptPart u p id) _ s

theorem plansGone_streams (p : Nat) (s : State) : (plansGone p s).streams = s.streams :=
  foldl_keeps State.streams (fun u id => unloadPlan_streams u p id) _ s

theorem plansGone_plans (p : Nat) (s : State) : ((plansGone p s).part p).plans = [] := by
  refine (foldl_unloadPlan_plans p _ s).trans (List.filter_eq_nil_iff.2 fun l hl => ?_)
  simpa using ⟨l, hl, rfl⟩

theorem ringGone_parts (p : Nat) (s : State) : (ringGone p s).parts = s.parts := by simp [ringGone]

theorem ringGone_streams (p : Nat) (s : State) : (ringGone p s).streams = s.streams := by simp [ringGone]

/-- The ring is at its start and Bus Master Enable is clear. -/
theorem ringGone_facts {p : Nat} (hp : p < 128) (s : State) : (ringGone p s).rdn 0x7019 (p + 1) = 0 ∧
    (ringGone p s).rdn 0x701A (p + 1) = 0 ∧ p + 1 ∉ (ringGone p s).link.bme := by
  have hod : ∀ i j, (ringGone p s).rdn i j = ((s.wrn 0x7019 (p + 1) 0).wrn 0x701A (p + 1) 0).rdn i j := fun i j =>
    congrArg BitVec.toNat (rd_congr rfl i j)
  refine ⟨?_, ?_, ?_⟩
  · rw [hod, rdn_wrn_other _ _ (odKey_ne (by omega) (by omega) (.inl (by decide))), rdn_wrn_same _ _ _ _ (by decide)]
  · rw [hod, rdn_wrn_same _ _ _ _ (by decide)]
  · simp [ringGone]

/-- A function-level reset of a virtual function leaves its partition nothing, and the other partitions all (R394). -/
theorem resetVf_parts (s : State) (p : Nat) :
    ((s.resetVf p).part p).work = [] ∧ ((s.resetVf p).part p).waiting = [] ∧ ((s.resetVf p).part p).invs = [] ∧
    ((s.resetVf p).part p).plans = [] ∧ ∀ q, q ≠ p → (s.resetVf p).part q = s.part q := by
  have hkept : (s.resetVf p).keptPart p = (s.requestsEnded p).keptPart p := by
    rw [resetVf_eq, keptPart_congr (ringGone_parts p _), plansGone_keptPart, keptPart_unshared (seqsGone_unshared p _),
      streamsGone_keptPart]
  have hplans : ((s.resetVf p).part p).plans = [] := by
    rw [resetVf_eq, part, ringGone_parts]
    exact plansGone_plans p _
  have hp := congrFun hkept p
  simp only [keptPart, if_true, requestsEnded_part] at hp
  refine ⟨?_, ?_, ?_, hplans, fun q hq => ?_⟩
  · simpa using congrArg Part.work hp
  · simpa using congrArg Part.waiting hp
  · simpa using congrArg Part.invs hp
  · have h := congrFun hkept q
    simpa only [keptPart, if_neg hq, requestsEnded_part] using h

/-- It frees every open stream that no feed holds. -/
theorem resetVf_streams (s : State) (p : Nat) {n : Nat} (hn : n ∈ s.openStreams p) (hf : s.feedHolds n = false) :
    ((s.resetVf p).stream n).state = .free := by
  have hf1 : (s.requestsEnded p).feedHolds n = false := (feedHolds_untenanted (requestsEnded_untenanted s p) n).trans hf
  have hseqs : (seqsGone p (streamsGone p (s.requestsEnded p))).streams = (streamsGone p (s.requestsEnded p)).streams := by
    have := congrArg State.streams (seqsGone_unshared p (streamsGone p (s.requestsEnded p)))
    exact this
  rw [resetVf_eq, stream, ringGone_streams, plansGone_streams, hseqs]
  exact streamsGone_free ((openStreams_requestsEnded s p n).2 hn) hf1

end State
end Sys2Proof.Machine

namespace Sys2Proof

open Sys2Proof.Machine

/-- The link from which a function-level reset of the physical function starts the device (R354). -/
def flrLink (s : State) : Link :=
  { Link.down with dump := s.link.dump, perst := s.link.perst, width := s.link.width, speed := s.link.speed, aspm := s.link.aspm }

/-- The link from which PERST_N starts it (R395). -/
def perstLink (s : State) : Link := { Link.down with dump := s.link.dump, wakeN := s.link.wakeN }

/-- Settles O4: what a start keeps and sets, what a reset of a virtual function takes, and what a loss of power leaves. -/
theorem startsAndStops : Obligations.StartsAndStops := by
  unfold Obligations.StartsAndStops
  refine ⟨fun s straps found => ⟨fun h => ?_, fun h => ⟨?_, ?_⟩, fun h hd hk hm => ?_, fun hf h3 hb => ⟨fun h => ?_, fun h => ?_, fun h hn => ?_⟩⟩,
    fun s p => ⟨fun h => ?_, fun h hh => ?_, fun h hh => ?_⟩, fun s => ⟨fun h => ?_, fun h => ?_⟩⟩
  · exact congrArg Host.Outcome.next (if_pos h)
  · exact congrArg Host.Outcome.next (if_pos h)
  · exact congrArg Host.Outcome.next (if_pos h)
  · have heq : s.perstOn straps.toNat found = (s.updLink fun l => { l with
        perst := true, width := 0, speed := 0, aspm := 0, numVfs := 0, bme := [], pmeEn := false, pmeStatus := false }).raise 0x2101 5 := by
      simp [State.perstOn, h, hd, hk, hm]
    refine ⟨_, rfl, ?_⟩
    rw [heq]
    exact ⟨rfl, rfl, rfl, rfl, State.rd_raise_flag _ _ _ (by decide), rfl, rfl, rfl, rfl, rfl⟩
  · have heq : s.powerUp straps.toNat found = s.start true { Link.down with perst := s.link.perst } straps.toNat found := by
      simp [State.powerUp, h]
    obtain ⟨hs, ht, -, hc⟩ := State.start_startedFrom s true (lk := { Link.down with perst := s.link.perst }) straps rfl hf h3 hb
    rw [← heq] at hs ht hc
    exact ⟨_, rfl, hs, ht, hc rfl⟩
  · have heq : s.pfFlr straps.toNat found = s.start false (flrLink s) straps.toNat found := if_neg h
    obtain ⟨hs, ht, hp, -⟩ := State.start_startedFrom s false (lk := flrLink s) straps rfl hf h3 hb
    rw [← heq] at hs ht hp
    exact ⟨_, rfl, hs, ht, hp⟩
  · have heq : s.perstOn straps.toNat found = s.start false (perstLink s) straps.toNat found := by
      have hc : ¬ ((s.link.dstate = 4 && s.rdn 0x2102 2 = 1 && s.faults.mode ≠ .halted) = true) := by
        rcases hn with h | h | h <;> simp [h]
      unfold State.perstOn
      rw [if_neg h, if_neg hc]
      rfl
    obtain ⟨hs, ht, hp, -⟩ := State.start_startedFrom s false (lk := perstLink s) straps rfl hf h3 hb
    rw [← heq] at hs ht hp
    exact ⟨_, rfl, hs, ht, hp⟩
  · exact congrArg Host.Outcome.next (by simp [State.vfFlr, h])
  · exact congrArg Host.Outcome.next (by simp [State.vfFlr, h, hh, State.updLink])
  · have heq : s.vfFlr p.val = s.resetVf p.val := by simp [State.vfFlr, h, hh]
    obtain ⟨hw, hr, hi, hpl, hq⟩ := State.resetVf_parts s p.val
    obtain ⟨h7019, h701A, hbme⟩ := State.ringGone_facts p.isLt (State.plansGone p.val (State.seqsGone p.val
      (State.streamsGone p.val (s.requestsEnded p.val))))
    rw [← State.resetVf_eq] at h7019 h701A hbme
    exact ⟨_, congrArg Host.Outcome.next heq, hw, hr, hi, hpl, h7019, h701A, hbme, fun n hn hf => State.resetVf_streams s p.val hn hf, hq⟩
  · exact ⟨⟨_, rfl, State.powerDown_off h true⟩, ⟨_, rfl, State.powerDown_off h false⟩⟩
  · exact ⟨congrArg Host.Outcome.next (if_pos h), congrArg Host.Outcome.next (if_pos h)⟩

end Sys2Proof

/-! SUPPORT. Invocations: what the operations on them leave in their partition (R40, R305, R310, R311). -/

namespace Sys2Proof.Machine.State

/-- Every invocation of a plan in a partition has the property. -/
def InvsHave (s : State) (p : Nat) (id : W64) (P : Invocation → Prop) : Prop := ∀ x ∈ (s.part p).invs, x.planId = id → P x

theorem InvsHave.of_invs {s t : State} {p : Nat} {id : W64} {P : Invocation → Prop} (h : s.InvsHave p id P)
    (ht : (t.part p).invs = (s.part p).invs) : t.InvsHave p id P := by
  unfold InvsHave
  rw [ht]
  exact h

theorem InvsHave.mono {s : State} {p : Nat} {id : W64} {P Q : Invocation → Prop} (h : s.InvsHave p id P) (hPQ : ∀ v, P v → Q v) :
    s.InvsHave p id Q := fun x hx hi => hPQ x (h x hx hi)

theorem invsHave_of_none {s : State} {p : Nat} {id : W64} (h : s.findInv p id = none) (P : Invocation → Prop) : s.InvsHave p id P := by
  intro x hx hi
  exact absurd hi (by simpa using List.find?_eq_none.1 h x hx)

/-- A change of a plan's invocations gives them what it gives one that had `P`. -/
theorem InvsHave.updInv {s : State} {p : Nat} {id : W64} {P Q : Invocation → Prop} (h : s.InvsHave p id P) {f : Invocation → Invocation}
    (hf : ∀ v, P v → Q (f v)) : (s.updInv p id f).InvsHave p id Q := by
  intro x hx hi
  rw [State.updInv, part_updPart, if_pos rfl] at hx
  obtain ⟨v, hv, rfl⟩ := List.mem_map.1 hx
  by_cases hv' : v.planId = id
  · rw [if_pos hv']
    exact hf v (h v hv hv')
  · rw [if_neg hv'] at hi
    exact absurd hi hv'

theorem invsHave_updInv (s : State) (p : Nat) (id : W64) {Q : Invocation → Prop} {f : Invocation → Invocation} (hf : ∀ v, Q (f v)) :
    (s.updInv p id f).InvsHave p id Q :=
  InvsHave.updInv (P := fun _ => True) (fun _ _ _ => trivial) fun v _ => hf v

/-- A replay that catches up changes only what it remembers of its fault (R361). -/
theorem caughtUp_invsHave {s : State} {p : Nat} {id : W64} {P : Invocation → Prop} (h : s.InvsHave p id P)
    (hP : ∀ v, P v → P { v with behind := none }) : (s.caughtUp p id).InvsHave p id P := by
  unfold caughtUp
  split
  · exact h
  · split
    · exact h
    · split
      · exact h
      · refine InvsHave.updInv (h.of_invs ?_) hP
        unfold keepMax; split <;> rfl

/-- The plans of a partition stay as they are while its invocations change. -/
theorem updInv_findPlan (s : State) (p : Nat) (id : W64) (f : Invocation → Invocation) (q : Nat) (k : W64) :
    (s.updInv p id f).findPlan q k = s.findPlan q k := by
  unfold findPlan
  rw [updInv, part_updPart]
  split
  · next h => rw [h]
  · rfl

/-- A logged security event takes no invocation into a partition (R385). -/
theorem security_invs_sub (s : State) (kind : Nat) (p : Option Nat) (d : W64) (q : Nat) :
    ∀ x ∈ ((s.security kind p d).part q).invs, x ∈ (s.part q).invs := by
  have hlog : ∀ x ∈ ((s.logSecurity kind p d).part q).invs, x ∈ (s.part q).invs := by
    unfold logSecurity
    dsimp only
    split
    · split
      · intro x hx
        rw [fencePart_invs] at hx
        split at hx
        · cases hx
        · exact hx
      · exact fun x hx => hx
    · exact fun x hx => hx
  unfold security
  split
  · split
    · exact fun x hx => hx
    · exact hlog
  · exact hlog

/-- An invocation that the device may not copy at its point ends: none of its plan is left (R42). -/
theorem endMarked_invsHave (s : State) (p : Nat) (id : W64) (x : Nat × Nat) (P : Invocation → Prop) : (s.endMarked p id x).InvsHave p id P := by
  intro v hv hi
  exact absurd hi (endInvocation_no_inv s p id 0x80 v (security_invs_sub _ _ _ _ _ v hv))

/-- Passing a point that its plan has leaves the invocation there (R40). -/
theorem passCheap_cheap {s : State} {p : Nat} {id : W64} {i : Nat} {l : Loaded} (hl : (s.passCheap p id i).findPlan p id = some l)
    (hc : l.active.cheaps[i]? ≠ none) : (s.passCheap p id i).InvsHave p id fun x => x.cheap = i := by
  cases hv : s.findInv p id with
  | none =>
    have heq : s.passCheap p id i = s := by
      unfold passCheap; rw [hv]; cases s.findPlan p id <;> rfl
    rw [heq]
    exact invsHave_of_none hv _
  | some v =>
    unfold passCheap at hl ⊢
    cases hl' : s.findPlan p id with
    | none =>
      rw [hl', hv] at hl
      rw [hl'] at hl
      cases hl
    | some l' =>
      simp only [hl', hv] at hl ⊢
      cases hi : l'.active.cheaps[i]? with
      | none =>
        simp only [hi, hl'] at hl
        obtain rfl := Option.some.inj hl
        exact absurd hi hc
      | some c =>
        dsimp only
        split
        · exact endMarked_invsHave _ _ _ _ _
        · refine InvsHave.of_invs ?_ (congrArg Part.invs (part_memless (releaseAll_memless _ p) p))
          exact caughtUp_invsHave (invsHave_updInv _ _ _ fun _ => rfl) fun _ hx => hx

/-- A part that has passed its point did so by passing the point (R40). -/
theorem advance_passed {s u : State} {p : Nat} {id : W64} {i : Nat} {l : Loaded} {v : Invocation} (hl : s.findPlan p id = some l)
    (hv : s.findInv p id = some v) (h : s.advance p id (some i) = (u, .passed)) : ∃ w : State, u = w.passCheap p id i := by
  unfold advance at h
  rw [hl, hv] at h
  dsimp only at h
  split at h
  · cases h
  · cases h
  · cases h
  · cases h
    exact ⟨_, rfl⟩

theorem halves_setHalves (s : State) (n m : Nat) (h : Halves) : (s.setHalves n h).halves m = if m = n then h else s.halves m := by
  unfold setHalves halves updFabric
  split
  · next hm => subst hm; exact NMap.get_set_same _ _ _ _
  · next hm => exact NMap.get_set_other _ _ _ hm

theorem halves_memless {s t : State} (h : t.memless = s.memless) (n : Nat) : t.halves n = s.halves n :=
  (congrArg (fun u : State => u.halves n) h :)

/-- A tile that takes a configuration runs it, and a tile that runs it goes on running it (R46). -/
theorem runOn_running (s : State) (p : Nat) (id : W64) (tiles : List Nat) (n : Nat) (h : n ∈ tiles ∨ (s.halves n).running = some (p, id)) :
    ((s.runOn p id tiles).halves n).running = some (p, id) := by
  induction tiles generalizing s with
  | nil => exact h.resolve_left (by simp)
  | cons t tiles ih =>
    rw [List.mem_cons, or_comm, ← or_assoc] at h
    refine ih _ (Or.symm (h.imp_left fun h => ?_))
    dsimp only
    by_cases ht : (s.halves t).running = some (p, id)
    · rw [if_pos ht]
      rcases h with h | rfl
      · exact h
      · exact ht
    · rw [if_neg ht, halves_setHalves]
      split
      · rfl
      · next hn => rw [halves_memless (zeroMarked_memless s t)]; exact h.resolve_right hn

theorem runOn_parts (s : State) (p : Nat) (id : W64) (tiles : List Nat) : (s.runOn p id tiles).parts = s.parts := by
  unfold runOn
  refine foldl_keeps State.parts (fun u t => ?_) _ _
  dsimp only
  split
  · rfl
  · exact (congrArg State.parts (zeroMarked_memless u t) :)

theorem caughtUp_fabric (s : State) (p : Nat) (id : W64) : (s.caughtUp p id).fabric = s.fabric := by
  unfold caughtUp keepMax
  repeat' split
  all_goals rfl

/-- A stop at a point whose live ranges hold no marked line: the invocation stands still, counted and flagged (R311). -/
theorem stopAt_facts {s : State} {p : Nat} (hp : p < 128) {id : W64} {i : Nat} {l : Loaded} {v : Invocation} (hl : s.findPlan p id = some l)
    (hv : s.findInv p id = some v) (hm : (l.active.cheaps[i]?).bind (s.liveMarked l) = none) :
    (s.stopAt p id i).InvsHave p id (fun x => x.stopped = true ∧ x.stop = .none) ∧
    (s.stopAt p id i).rdn 0x7029 (p + 1) = (s.rdn 0x7029 (p + 1) + 1) % 4294967296 ∧ (s.stopAt p id i).rd 0x7001 1 = s.rd 0x7001 1 ||| 0x8 := by
  unfold stopAt
  rw [hl, hv]
  dsimp only
  rw [hm]
  dsimp only
  generalize hu : State.updInv _ p id _ = u
  have hod : u.od = s.od := by
    rw [← hu]; unfold saveLive; split <;> rfl
  have hinv : u.InvsHave p id fun x => x.stopped = true ∧ x.stop = .none := by
    rw [← hu]; exact invsHave_updInv _ _ _ fun _ => ⟨rfl, rfl⟩
  have hkeep : ∀ i j, odKey 0 i j ≠ odKey 0 0x702A (p + 1) → (u.keepMax 0x702A (p + 1) (s.time - v.stopTime)).rd i j = s.rd i j := by
    intro i j hne
    unfold keepMax
    split
    · rw [rd_wrn_other _ _ hne, rd_congr hod]
    · exact rd_congr hod i j
  refine ⟨hinv.of_invs ?_, ?_, ?_⟩
  · unfold keepMax; split <;> rfl
  · rw [rdn, rd_raise_other _ (odKey_ne (by decide) (by omega) (.inl (by decide))) (odKey_ne (by decide) (by omega) (.inl (by decide))), ← rdn]
    simp only [bump32]
    rw [rdn_wrn_same _ _ _ _ (by omega), rdn, hkeep _ _ (odKey_ne (by omega) (by omega) (.inl (by decide))), ← rdn]
  · rw [rd_raise_flag _ _ _ (by decide)]
    simp only [bump32]
    rw [rd_wrn_other _ _ (odKey_ne (by omega) (by decide) (.inl (by decide))), hkeep _ _ (odKey_ne (by omega) (by decide) (.inl (by decide)))]
    rfl

end Sys2Proof.Machine.State

namespace Sys2Proof

open Sys2Proof.Machine

/-- What CHEAP_POINT_REACHED does where a plan's invocation goes on to a point that is not its last. -/
theorem cheapPoint_eq {s u : State} {p : Nat} {id : W64} {l : Loaded} {v : Invocation} {c : CheapRec} (hl : s.findPlan p id = some l)
    (hv : s.findInv p id = some v) (hpr : s.progresses p id = true) (hc : l.active.cheaps[v.cheap + 1]? = some c)
    (hlt : v.cheap + 2 < l.active.cheaps.length) (ha : s.advance p id (some (v.cheap + 1)) = (u, .passed)) :
    s.cheapPoint p id =
      if (v.stop = .abort && c.preempt) || (v.stop = .abortChosen && l.active.usable c) then u.endInvocation p id 0x72
      else if (v.stop = .preempt || v.stop = .slice) && l.active.usable c then u.stopAt p id (v.cheap + 1)
      else u.pauseFor p id l := by
  have hlast : ¬ l.active.cheaps.length ≤ v.cheap + 1 + 1 := by omega
  unfold State.cheapPoint
  simp only [hl, hv, hc, hpr, ha, hlast, Bool.not_true, Bool.false_or, decide_false, Bool.false_eq_true, if_false]

/-- Settles O25, by what each operation on an invocation leaves in its partition. -/
theorem invocationProgress : Obligations.InvocationProgress := by
  unfold Obligations.InvocationProgress
  refine ⟨fun s p id l v hl hv hpr => ⟨fun u c hc hlt ha hstop hsh => ?_, fun hat hsa => ⟨fun met u st hm hst => ?_, ?_⟩⟩,
    fun s p id l v hl hv => ⟨fun u c l1 v1 hpr hc hlt hu hst ha hl1 hv1 hm => ?_, fun hs hst hf hpw hpl => ?_, fun hs hsl ht hst hsp hw => ?_, fun h => ?_⟩⟩
  · have hcp : s.cheapPoint p.val id = u := by
      rw [cheapPoint_eq hl hv hpr hc hlt ha, hstop]
      have hno : ¬ (l.place.any u.shifting) = true := by simpa using hsh
      simp [State.pauseFor, hno]
    refine ⟨congrArg Host.Outcome.next hcp, fun l1 hl1 hcs => ?_⟩
    obtain ⟨w, rfl⟩ := State.advance_passed hl hv ha
    exact State.passCheap_cheap hl1 (by rw [hcs, hc]; simp)
  · refine congrArg Host.Outcome.next ?_
    simp [State.invocationEnd, hl, hv, hat, hpr, hsa, hm, hst]
  · intro met u0 st0 u w u2 st x hm hst0 ha hx hxs hw hslot hcp
    have hend : s.invocationEnd met p.val id =
        u2.endInvocation p.val id (if st ≠ 0 then st else if x.replayed then 2 else if x.corrected then 1 else 0) := by
      have hst : ¬ 0x10 ≤ st0 := by omega
      rw [hslot] at hw
      simp [State.invocationEnd, hl, hv, hat, hpr, hsa, hm, hst, ha, hx, hw, hxs, hcp, State.invResult]
    exact ⟨_, congrArg Host.Outcome.next hend, rfl, State.endInvocation_no_inv _ _ _ _⟩
  · have hcp : s.preemptStop p.val id = u.stopAt p.val id (v.cheap + 1) := by
      have hpc : s.preemptStop p.val id = s.cheapPoint p.val id := by
        simp [State.preemptStop, hl, hv, hc, hu, hst]
      rw [hpc, cheapPoint_eq hl hv hpr hc hlt ha]
      rcases hst with h | h <;> simp [h, hu]
    exact ⟨_, congrArg Host.Outcome.next hcp, State.stopAt_facts p.isLt hl1 hv1 hm⟩
  · let w := (s.runOn p.val id l.place).loadLive l l.saved
    let t := (w.updInv p.val id fun v => { v with stopped := false, resumed := s.time, passed := s.time }).caughtUp p.val id
    have hrs : s.preemptResume p.val id = t := by
      have hno : (l.place.any fun t => (s.busyTiles p.val id).contains t || s.shifting t) = false := by
        simp only [List.any_eq_false, Bool.or_eq_true, List.contains_eq_mem, decide_eq_true_eq, not_or, Bool.not_eq_true]
        exact hpl
      simp only [State.preemptResume, hl, hv, hs, hst, hf, hpw, hno, Bool.not_true, Bool.or_self, Bool.false_eq_true, if_false]
      rfl
    refine ⟨t, congrArg Host.Outcome.next hrs, ?_, fun n hn => ?_⟩
    · exact State.caughtUp_invsHave (State.invsHave_updInv _ _ _ fun _ => ⟨rfl, rfl⟩) fun _ hx => hx
    · have hh : t.halves n = (s.runOn p.val id l.place).halves n := by
        rw [State.halves, State.caughtUp_fabric]
        exact State.halves_memless (State.loadLive_memless _ l l.saved) n
      rw [hh]
      exact State.runOn_running s p.val id l.place n (.inl hn)
  · refine congrArg Host.Outcome.next ?_
    obtain ⟨w, hw, hwt, k, hk, x, hx, hxid, hxp, hxl⟩ := hw
    unfold State.timeSlice
    rw [hv]
    refine if_pos ?_
    simp only [hs, ht, hst, hsp, decide_true, Bool.not_false, Bool.and_true, Bool.true_and, Bool.and_eq_true, decide_eq_true_eq]
    refine ⟨hsl, List.any_eq_true.2 ⟨w, List.mem_filter.2 ⟨hw, hwt⟩, ?_⟩⟩
    rw [hk]
    exact List.any_eq_true.2 ⟨x, hx, by simp [hxid, hxp, hxl]⟩
  · refine congrArg Host.Outcome.next ?_
    simp [State.timeSlice, hv, h]

end Sys2Proof

/-! SUPPORT. Flags that only rise, EMCY messages, and the opening of fault records (R349, R353, Table 13-3). -/

namespace Sys2Proof.Machine

/-- Every bit of `x` stands in `y`. -/
def Within (x y : W64) : Prop := y &&& x = x

theorem Within.refl (x : W64) : Within x x := BitVec.and_self

theorem within_or (x y : W64) : Within x (x ||| y) := by
  ext i hi
  simp only [BitVec.getElem_and, BitVec.getElem_or]
  cases x[i] <;> simp

theorem Within.trans {x y z : W64} (h : Within x y) (k : Within y z) : Within x z := by
  unfold Within at *
  rw [← h, ← BitVec.and_assoc, k]

theorem within_or_right (x y : W64) : Within y (x ||| y) := by
  rw [BitVec.or_comm]; exact within_or y x

namespace State

/-- The bits of a flag entry that the device has set stay set as it raises flags. -/
theorem raise_within (s : State) (i b i' : Nat) (hb : b < 64) : Within (s.rd i' 1) ((s.raise i b).rd i' 1) := by
  by_cases h : i' = i
  · subst h; rw [rd_raise_flag _ _ _ hb]; exact within_or _ _
  · rw [rd_raise_other _ (odKey_ne (by decide) (by decide) (.inl h)) (odKey_ne (by omega) (by decide) (.inl h))]
    exact .refl _

/-- A state without its dictionary, its controllers and its outputs. -/
def mute (s : State) : State := { s with od := [], cans := [], out := [] }

theorem mute_sameButCan {s t : State} (h : SameButCan t s) : t.mute = s.mute := by
  have hm := congrArg mute h
  exact hm

theorem wrn_mute (s : State) (i j v : Nat) : (s.wrn i j v).mute = s.mute := rfl

theorem noteError_mute (s : State) (v : Nat) : (s.noteError v).mute = s.mute := by
  unfold noteError
  dsimp only
  rw [wrn_mute, wrn_mute]
  have hfold := foldl_keeps mute (f := fun t k => t.wr 0x1003 (16 - k) (t.rd 0x1003 (15 - k))) (fun _ _ => rfl) (List.range 15) s
  exact hfold

/-- An error is noted in the error history alone. -/
theorem noteError_rd (s : State) (v : Nat) {i j : Nat} (hi : i ≠ 0x1003) (hj : j < 256) : (s.noteError v).rd i j = s.rd i j := by
  have hfold := foldl_keeps (fun t : State => t.rd i j) (f := fun t k => t.wr 0x1003 (16 - k) (t.rd 0x1003 (15 - k)))
    (fun t k => rd_wr_other t _ (odKey_ne (by omega) hj (.inl hi))) (List.range 15) s
  unfold noteError
  dsimp only
  rw [rd_wrn_other _ _ (odKey_ne (by decide) hj (.inl hi)), rd_wrn_other _ _ (odKey_ne (by decide) hj (.inl hi))]
  exact hfold

/-- An EMCY message changes the error history, the controllers and the outputs alone (R437). -/
theorem emcy_mute (s : State) (code : W16) (rest : BitVec 40) : (s.emcy code rest).mute = s.mute := by
  unfold emcy
  dsimp only
  rw [mute_sameButCan (emcyOn_sameButCan ..), mute_sameButCan (emcyOn_sameButCan ..)]
  split
  · rfl
  · exact noteError_mute _ _

theorem emcy_rd (s : State) (code : W16) (rest : BitVec 40) {i j : Nat} (hi : i ≠ 0x1003) (hj : j < 256) :
    (s.emcy code rest).rd i j = s.rd i j := by
  unfold emcy
  dsimp only
  rw [rd_congr (sameButCan_od (emcyOn_sameButCan ..)), rd_congr (sameButCan_od (emcyOn_sameButCan ..))]
  split
  · rfl
  · exact noteError_rd _ _ hi hj

/-- A state without its dictionary, its faults, its controllers and its outputs. -/
def unfaulted (s : State) : State := { s.mute with faults := Faults.none }

theorem unfaulted_mute {s t : State} (h : t.mute = s.mute) : t.unfaulted = s.unfaulted := by rw [unfaulted, h, unfaulted]

theorem faults_mute {s t : State} (h : t.mute = s.mute) : t.faults = s.faults := (congrArg State.faults h :)

/-- The record that a fault opens. -/
def openedRec (s : State) (source cls kind unit detail : Nat) : FaultRec :=
  { seq := s.faults.nextSeq, source := source, cls := cls, kind := kind, handling := true
    otherUnit := false, escalated := false, replayed := false, unit := unit
    secondKind := 0xFF, secondUnit := 0xFFFF, merged := 0, raiseTime := s.time
    handleMicros := 0, detail := BitVec.ofNat 32 detail }

theorem any_handling_updFirst (cls kind unit : Nat) {l : List FaultRec} (h : l.any FaultRec.handling = true) :
    (updFirst (mergeInto cls kind unit) l).any FaultRec.handling = true := by
  have hm : ∀ r : FaultRec, (mergeInto cls kind unit r).handling = r.handling := by
    intro r; unfold mergeInto; dsimp only; split <;> split <;> rfl
  induction l with
  | nil => exact h
  | cons r l ih =>
    unfold updFirst
    split
    · next hr => rw [List.any_cons, hm, hr, Bool.true_or]
    · next hr => rw [List.any_cons, ih (by simpa [hr] using h), Bool.or_true]

/-- Of the records that the device keeps, the newest is one. -/
theorem mem_drop_append_singleton {α : Type} (l : List α) (r : α) : r ∈ (l ++ [r]).drop (l.length + 1 - 32) := by
  rw [List.drop_append_of_le_length (by omega)]
  simp

theorem updFaults_unfaulted (s : State) (f : Faults → Faults) : (s.updFaults f).unfaulted = s.unfaulted := rfl
theorem raise_unfaulted (s : State) (i b : Nat) : (s.raise i b).unfaulted = s.unfaulted := by cases s; rfl
theorem bump32_unfaulted (s : State) (i j n : Nat) : (s.bump32 i j n).unfaulted = s.unfaulted := by cases s; rfl
theorem emit_unfaulted (s : State) (o : Output) : (s.emit o).unfaulted = s.unfaulted := rfl

theorem faultEmcy_unfaulted (s : State) (source cls kind unit : Nat) : (s.faultEmcy source cls kind unit).unfaulted = s.unfaulted :=
  unfaulted_mute (emcy_mute _ _ _)

theorem faultEmcy_faults (s : State) (source cls kind unit : Nat) : (s.faultEmcy source cls kind unit).faults = s.faults :=
  faults_mute (emcy_mute _ _ _)

theorem faultEmcy_rd (s : State) (source cls kind unit : Nat) {i j : Nat} (hi : i ≠ 0x1003) (hj : j < 256) :
    (s.faultEmcy source cls kind unit).rd i j = s.rd i j := emcy_rd _ _ _ hi hj

/-- A unit-fatal event is counted, and the device is in FAULT (R349, R350). -/
def unitEvent (s : State) : State :=
  (s.bump32 0x9003 6 1).updFaults fun f =>
    { f with mode := if f.mode = .normal then .fault else f.mode, lastEvent := s.time, faultN := true }

/-- A record that is HANDLING takes the event in. -/
def eventMerged (s : State) (kind unit : Nat) : State := s.updFaults fun f => { f with records := updFirst (mergeInto 2 kind unit) f.records }

/-- A record opens. -/
def recordOpened (s : State) (r : FaultRec) : State := s.updFaults fun f =>
  { f with records := (f.records ++ [r]).drop (f.records.length + 1 - 32), nextSeq := f.nextSeq + 1, errBits := f.errBits ||| emcyBits r.source }

theorem openFault_unit_eq (s : State) (source kind unit detail cp component : Nat) :
    s.openFault source 2 kind unit detail cp component =
      if s.anyHandling then (s.unitEvent.eventMerged kind unit).raise 0x9001 1
      else (((s.unitEvent.recordOpened (s.openedRec source 2 kind unit detail)).faultEmcy source 2 kind unit).raise 0x9001 0).emit
        (.aer "Corrected Internal Error") := rfl

theorem unitEvent_rdn_count (s : State) : s.unitEvent.rdn 0x9003 6 = (s.rdn 0x9003 6 + 1) % 4294967296 :=
  rdn_wrn_same _ _ _ _ (by omega)

theorem unitEvent_rd (s : State) {i j : Nat} (hj : j < 256) (hi : i ≠ 0x9003) : s.unitEvent.rd i j = s.rd i j :=
  rd_wrn_other _ _ (odKey_ne (by decide) hj (.inl hi))

/-- What a unit-fatal fault of a device that is not halted leaves of the faults before the unit is fenced or held (R349, R350). -/
structure FaultOpened (s : State) (source kind unit detail : Nat) (t : State) : Prop where
  unfaulted : t.unfaulted = s.unfaulted
  mode : t.faults.mode = .fault
  faultN : t.faults.faultN = true
  held : t.faults.heldPipes = s.faults.heldPipes ∧ t.faults.heldEdges = s.faults.heldEdges ∧ t.faults.heldCans = s.faults.heldCans ∧
    t.faults.roostHeld = s.faults.roostHeld
  handling : t.anyHandling = true
  count : t.rdn 0x9003 6 = (s.rdn 0x9003 6 + 1) % 4294967296
  flags : Within (s.rd 0x9001 1) (t.rd 0x9001 1)
  merged : s.anyHandling = true → Within 2 (t.rd 0x9001 1)
  opened : s.anyHandling = false → s.openedRec source 2 kind unit detail ∈ t.faults.records
  rd : ∀ i j, j < 256 → i ≠ 0x1003 → i ≠ 0x9001 → i ≠ 0x9003 → t.rd i j = s.rd i j

theorem openFault_unit (s : State) (source kind unit detail cp component : Nat) (h : s.faults.mode ≠ .halted) :
    FaultOpened s source kind unit detail (s.openFault source 2 kind unit detail cp component) := by
  have hmode : s.unitEvent.faults.mode = .fault := by
    show (if s.faults.mode = .normal then FaultMode.fault else s.faults.mode) = .fault
    cases hm : s.faults.mode <;> simp_all
  rw [openFault_unit_eq]
  cases ha : s.anyHandling
  · rw [if_neg (by decide)]
    generalize hu : (s.unitEvent.recordOpened (s.openedRec source 2 kind unit detail)).faultEmcy source 2 kind unit = u
    have hf : u.faults = (s.unitEvent.recordOpened (s.openedRec source 2 kind unit detail)).faults := by rw [← hu, faultEmcy_faults]
    have hr : ∀ i j, j < 256 → i ≠ 0x1003 → u.rd i j = s.unitEvent.rd i j := by
      intro i j hj hi
      rw [← hu, faultEmcy_rd _ _ _ _ _ hi hj]
      rfl
    have hrec : s.openedRec source 2 kind unit detail ∈ u.faults.records := by
      rw [hf]; exact mem_drop_append_singleton _ _
    refine ⟨?_, ?_, ?_, ?_, ?_, ?_, ?_, fun h => ?_, fun _ => ?_, fun i j hj h1 h2 h3 => ?_⟩
    · rw [emit_unfaulted, raise_unfaulted, ← hu, faultEmcy_unfaulted]; rfl
    · rw [emit_faults, raise_faults, hf]; exact hmode
    · rw [emit_faults, raise_faults, hf]; rfl
    · rw [emit_faults, raise_faults, hf]; exact ⟨rfl, rfl, rfl, rfl⟩
    · rw [anyHandling, emit_faults, raise_faults]; exact List.any_eq_true.2 ⟨_, hrec, rfl⟩
    · rw [rdn, rd_emit, rd_raise_other _ (by decide) (by decide), hr _ _ (by decide) (by decide), ← rdn, unitEvent_rdn_count]
    · rw [rd_emit, ← unitEvent_rd s (by decide) (by decide), ← hr _ _ (by decide) (by decide)]
      exact raise_within _ _ _ _ (by decide)
    · rw [ha] at h; cases h
    · rw [emit_faults, raise_faults]; exact hrec
    · rw [rd_emit, rd_raise_other _ (odKey_ne (by decide) hj (.inl h2)) (odKey_ne (by decide) hj (.inl h2)), hr _ _ hj h1, unitEvent_rd _ hj h3]
  · rw [if_pos rfl]
    refine ⟨?_, ?_, ?_, ?_, ?_, ?_, ?_, fun _ => ?_, fun h => ?_, fun i j hj h1 h2 h3 => ?_⟩
    · rw [raise_unfaulted]; rfl
    · rw [raise_faults]; exact hmode
    · rw [raise_faults]; rfl
    · rw [raise_faults]; exact ⟨rfl, rfl, rfl, rfl⟩
    · rw [anyHandling, raise_faults]; exact any_handling_updFirst 2 kind unit ha
    · rw [rdn, rd_raise_other _ (by decide) (by decide), ← rdn]; exact unitEvent_rdn_count s
    · rw [← unitEvent_rd s (by decide) (by decide)]; exact raise_within (s.unitEvent.eventMerged kind unit) _ _ _ (by decide)
    · rw [rd_raise_flag _ _ _ (by decide)]; exact within_or_right _ _
    · rw [ha] at h; cases h
    · rw [rd_raise_other _ (odKey_ne (by decide) hj (.inl h2)) (odKey_ne (by decide) hj (.inl h2))]; exact unitEvent_rd s hj h3

end State
end Sys2Proof.Machine

/-! SUPPORT. What the reactions to faults leave alone: the map of tiles, the store, the records and the counts of faults (R48 to R50, R357, R359). -/

namespace Sys2Proof.Machine

/-- The entries in which a reaction to a fault counts and flags, beside the count of events and the entries of the fence. -/
def Od.reacts (i j : Nat) : Bool :=
  [0x5001, 0x5801, 0x6401, 0x650C, 0x7001, 0x701A, 0x9001].contains i || (i = 0x3001 && (1 ≤ j && j ≤ 5)) || (i = 0x9003 && (j = 7 || j = 8))

namespace State

/-- A record but for its mark of a replay. -/
def unreplayed (r : FaultRec) : FaultRec := { r with replayed := false }

/-- A state without what a reaction moves: requests and what serves them, memories, configurations, and the marks of replays. -/
def unmoved (s : State) : State :=
  { s with free := 0, od := [], mem := Mem.clear, parts := [], streams := [], groups := [], seqs := [], pools := [], pipes := [], edges := [], sensors := []
           out := [], fabric := { s.fabric with halves := [] }, link := { s.link with msgs := [] }
           faults := { s.faults with records := s.faults.records.map unreplayed } }

/-- From `s` to `t` a reaction to a fault has gone on. -/
structure Reacts (s t : State) : Prop where
  unmoved : t.unmoved = s.unmoved
  rd : ∀ i j, j < 256 → Od.reacts i j = false → t.rd i j = s.rd i j
  flags : ∀ i, i = 0x9001 ∨ i = 0x3001 → Within (s.rd i 1) (t.rd i 1)
  fenced : ∀ p, (s.part p).fenced = true → (t.part p).fenced = true

theorem Reacts.refl (s : State) : Reacts s s := ⟨rfl, fun _ _ _ _ => rfl, fun _ _ => .refl _, fun _ h => h⟩

theorem Reacts.trans {s t u : State} (h : Reacts s t) (k : Reacts t u) : Reacts s u :=
  ⟨k.unmoved.trans h.unmoved, fun i j hj hr => (k.rd i j hj hr).trans (h.rd i j hj hr), fun i hi => (h.flags i hi).trans (k.flags i hi),
    fun p hp => k.fenced p (h.fenced p hp)⟩

theorem Reacts.ite {c : Prop} [Decidable c] {s t u : State} (h : Reacts s t) (k : Reacts s u) : Reacts s (if c then t else u) := by
  split
  · exact h
  · exact k

theorem Reacts.fold {β : Type} {f : State → β → State} {l : List β} {s t : State} (k : Reacts s t)
    (h : ∀ u b, b ∈ l → Reacts u (f u b)) : Reacts s (l.foldl f t) := by
  induction l generalizing t with
  | nil => exact k
  | cons b l ih => exact ih (k.trans (h t b (by simp))) fun u c hc => h u c (by simp [hc])

/-- What touches neither the dictionary nor a partition's fence. -/
theorem Reacts.same {s t u : State} (k : Reacts s t) (h : u.unmoved = t.unmoved) (ho : u.od = t.od) (hp : ∀ q, (u.part q).fenced = (t.part q).fenced) :
    Reacts s u :=
  k.trans ⟨h, fun i j _ _ => rd_congr ho i j, fun i _ => by rw [rd_congr ho]; exact .refl _, fun q hq => by rw [hp, hq]⟩

theorem Reacts.memless {s t u : State} (k : Reacts s t) (h : u.memless = t.memless) : Reacts s u :=
  k.same ((congrArg State.unmoved h :)) (congrArg State.od h :) fun q => by rw [part_memless h]

theorem Reacts.updPart {s t : State} (k : Reacts s t) (p : Nat) {f : Part → Part} (hf : ∀ x, x.fenced = true → (f x).fenced = true) :
    Reacts s (t.updPart p f) :=
  k.trans ⟨rfl, fun i j _ _ => rd_congr (updPart_od _ _ _) i j, fun i _ => by rw [rd_congr (updPart_od _ _ _)]; exact .refl _, fun q hq => by
    rw [part_updPart]
    split
    · next h => subst h; exact hf _ hq
    · exact hq⟩

theorem Reacts.updInv {s t : State} (k : Reacts s t) (p : Nat) (id : W64) (f : Invocation → Invocation) : Reacts s (t.updInv p id f) :=
  k.updPart p fun _ h => h

theorem Reacts.updPlan {s t : State} (k : Reacts s t) (p : Nat) (id : W64) (f : Loaded → Loaded) : Reacts s (t.updPlan p id f) :=
  k.updPart p fun _ h => h

/-- A count or a largest value, of the entries that a reaction counts in. -/
theorem Reacts.wrn {s t : State} (k : Reacts s t) {i j : Nat} (v : Nat) (hi : Od.reacts i j = true) (hj : j < 256)
    (hf : j ≠ 1 ∨ (i ≠ 0x9001 ∧ i ≠ 0x3001)) : Reacts s (t.wrn i j v) := by
  refine k.trans ⟨by cases t; rfl, fun i' j' hj' hr => ?_, fun i' hi' => ?_, fun _ h => h⟩
  · exact rd_wrn_other t v (odKey_ne hj hj' (Od.entry_ne hi hr))
  · rw [rd_wrn_other t v (odKey_ne hj (by decide) (by omega))]
    exact .refl _

theorem Reacts.raise {s t : State} (k : Reacts s t) {i b : Nat} (hi : Od.reacts i 1 = true ∧ Od.reacts i (2 + b) = true) (hb : b < 64) : Reacts s (t.raise i b) := by
  refine k.trans ⟨by cases t; rfl, fun i' j' hj' hr => ?_, fun i' _ => raise_within t i b i' hb, fun _ h => h⟩
  exact rd_raise_other t (odKey_ne (by decide) hj' (Od.entry_ne hi.1 hr)) (odKey_ne (by omega) hj' (Od.entry_ne hi.2 hr))

/-- The end of requests is no more than a reaction. -/
theorem Ends.reacts {s t : State} (h : Ends s t) : Reacts s t := by
  refine ⟨?_, fun i j hj hr => h.rd i j hj ?_ ?_, fun i hi => ?_, fun p hp => by rw [(h.part p).fenced, hp]⟩
  · have hl := congrArg (fun l : Link => ({ l with msgs := [] } : Link)) h.link
    calc t.unmoved = { t.unmoved with link := { t.link with msgs := [] } } := rfl
      _ = { t.unmoved with link := { s.link with msgs := [] } } := congrArg (fun l => { t.unmoved with link := l }) hl
      _ = s.unmoved := (congrArg State.unmoved h.rest :)
  · rintro rfl; cases hr
  · rintro rfl; cases hr
  · rw [h.rd i 1 (by decide) (by rintro rfl; simp at hi) (by rintro rfl; simp at hi)]
    exact .refl _

theorem Reacts.ends {s t u : State} (k : Reacts s t) (h : Ends t u) : Reacts s u := k.trans h.reacts

/-- The end of an invocation (R212, R305). -/
theorem endInvocation_reacts (s : State) {p : Nat} (hp : p < 128) (id : W64) (status : Nat) : Reacts s (s.endInvocation p id status) := by
  unfold endInvocation
  split
  · exact .refl s
  · next v _ =>
    have h1 : Reacts s ((s.releaseAll p).dropInv p id) := ((Reacts.refl s).memless (releaseAll_memless s p)).updPart p fun _ h => h
    dsimp only
    split
    · exact h1.ends ((Ends.refl _).endWork hp ..)
    · exact (h1.memless (putLaneStatus_memless ..)).ends ((Ends.refl _).endWorkWith hp ..)

theorem updGroup_reacts (s : State) (g : Nat) (f : Group → Group) : Reacts s (s.updGroup g f) :=
  (Reacts.refl s).ends ((Ends.refl s).updGroup g f)

/-- Every request that a plan serves ends. -/
theorem failPlan_reacts (s : State) {p : Nat} (hp : p < 128) (id : W64) (status : Nat) : Reacts s (s.failPlan p id status) := by
  unfold failPlan
  refine (endInvocation_reacts s hp id status).fold fun u g _ => ?_
  unfold failSteps
  exact (updGroup_reacts u g _).fold fun w n _ => (Ends.endChunks (.refl w) hp n _ status).reacts

theorem setHalves_reacts (s : State) (n : Nat) (h : Halves) : Reacts s (s.setHalves n h) := (Reacts.refl s).same rfl rfl fun _ => rfl

theorem zeroMarked_reacts (s : State) (n : Nat) : Reacts s (s.zeroMarked n) := (Reacts.refl s).memless (zeroMarked_memless s n)

theorem dropConfig_reacts (s : State) (p : Nat) (id : W64) : Reacts s (s.dropConfig p id) := by
  unfold dropConfig
  refine (Reacts.refl s).fold fun u n _ => ?_
  exact Reacts.trans (.ite (zeroMarked_reacts u n) (.refl u)) (setHalves_reacts _ n _)

/-- A plan's configuration goes to its tiles (R46). -/
theorem stage_reacts (s : State) (p : Nat) (id : W64) (tiles : List Nat) : Reacts s (s.stage p id tiles) := by
  unfold stage
  refine (Reacts.refl s).fold fun u n _ => ?_
  exact .ite (setHalves_reacts u n _) ((zeroMarked_reacts u n).trans (setHalves_reacts _ n _))

theorem keepMax_reacts (s : State) (n : Nat) : Reacts s (s.keepMax 0x9003 8 n) :=
  .ite ((Reacts.refl s).wrn n rfl (by decide) (.inl (by decide))) (.refl s)

theorem caughtUp_reacts (s : State) (p : Nat) (id : W64) : Reacts s (s.caughtUp p id) := by
  unfold caughtUp
  split
  · exact .refl s
  · split
    · exact .refl s
    · exact .ite (.refl s) ((keepMax_reacts s _).updInv p id _)

/-- A replay is counted and flagged (R360). -/
theorem replayNoted_reacts (s : State) : Reacts s ((s.bump32 0x9003 7 1).raise 0x9001 6) :=
  ((Reacts.refl s).wrn _ (i := 0x9003) (j := 7) rfl (by decide) (.inl (by decide))).raise ⟨rfl, rfl⟩ (by decide)

theorem replayFrom_reacts (s : State) (p : Nat) (id : W64) (l : Loaded) (i : Nat) (c : Bool) : Reacts s (s.replayFrom p id l i c) := by
  unfold replayFrom
  dsimp only
  refine Reacts.trans ?_ (caughtUp_reacts _ p id)
  refine Reacts.trans (Reacts.updInv (.ite (Reacts.memless ?_ (loadLive_memless _ _ _)) ?_) p id _) (replayNoted_reacts _)
  all_goals exact (Reacts.refl s).fold fun u n _ => (zeroMarked_reacts u n).trans (setHalves_reacts _ n _)

theorem replayLater_reacts (s : State) (p : Nat) (id : W64) (l : Loaded) (i : Nat) : Reacts s (s.replayLater p id l i) :=
  (((Reacts.refl s).updPlan p id _).updInv p id _).trans (replayNoted_reacts _)

theorem replaySteps_reacts (s : State) (p : Nat) (id : W64) : Reacts s (s.replaySteps p id) := by
  unfold replaySteps
  exact (Reacts.refl s).fold fun u g _ => .ite (.refl u) ((updGroup_reacts u g _).raise ⟨rfl, rfl⟩ (by decide))

/-- A plan replays, or its work ends (R359). -/
theorem replayPlan_reacts (s : State) {p : Nat} (hp : p < 128) (id : W64) : Reacts s (s.replayPlan p id) := by
  unfold replayPlan
  split
  · exact .refl s
  · refine Reacts.trans ?_ (replaySteps_reacts _ p id)
    split
    · exact .refl s
    · split
      · exact replayFrom_reacts ..
      · exact endInvocation_reacts s hp id _

/-- A record that says that a replay has started says nothing else anew (Table 13-3). -/
theorem noteReplay_reacts (before s : State) (kind unit : Nat) : Reacts s (noteReplay before s kind unit) := by
  unfold noteReplay
  refine .ite (.refl s) ((Reacts.refl s).same ?_ rfl fun _ => rfl)
  have hrec : ∀ l : List FaultRec, (l.map fun r => if r.handling && ((r.kind = kind && r.unit = unit) ||
      (r.secondKind = kind && r.secondUnit = unit)) then { r with replayed := true } else r).map unreplayed = l.map unreplayed := by
    intro l
    rw [List.map_map]
    refine List.map_congr_left fun r _ => ?_
    dsimp only [Function.comp]
    split <;> rfl
  simp only [State.unmoved, updFaults, hrec]

theorem spareFlags_reacts (s : State) (y : Nat) : Reacts s (s.spareFlags y) := by
  unfold spareFlags
  have h1 : Reacts s (if s.rowSparesLeft y = 0 then s.raise 0x3001 1 else s) := .ite ((Reacts.refl s).raise ⟨rfl, rfl⟩ (by decide)) (.refl s)
  exact .ite (h1.raise ⟨rfl, rfl⟩ (by decide)) h1

theorem takeOver_reacts (s : State) (n : Nat) : Reacts s (s.takeOver n) := by
  have hdraw : ∀ was : Nat, Reacts s (if was = 0 then (0, s) else (s.draw.1 + 1, s.draw.2)).2 := by
    intro was
    split
    · exact .refl s
    · exact (Reacts.refl s).same rfl rfl fun _ => rfl
  unfold takeOver
  exact ((hdraw _).memless (updMem_memless _ _)).memless (updMem_memless _ _)

/-- Invocations that a shift let stop go on. -/
theorem goOn_reacts (s : State) : Reacts s s.goOn := by
  unfold goOn
  refine (Reacts.refl s).fold fun u p _ => (Reacts.refl u).updPart p fun x h => h

theorem plansOn_part {s : State} {n : Nat} {x : Nat × W64} (h : x ∈ s.plansOn n) : x.1 < 128 := by
  obtain ⟨p, hp, hx⟩ := List.mem_flatMap.1 h
  obtain ⟨l, -, rfl⟩ := List.mem_map.1 hx
  simpa using (List.mem_filter.1 hp).2

/-- The state in which a shift without faults that wait has put its row's new map in force, its fence recorded (Table 2-16 step 4). -/
def shifted (s : State) (y : Nat) (h : Shift) : State :=
  let n := (s.logical (y * 66 + h.col)).getD 0
  let s1 := (s.takeOver n).updFabric fun f =>
    { f with skips := NMap.set (fun _ => []) f.skips y (insertNat h.col (s.skipsOf y))
             shifts := f.shifts.filter fun g => g.row ≠ y }
  ((s1.zeroMarked n).burnFence (y * 66 + h.col)).raise 0x3001 0

/-- From there only flags, replays and invocations that go on follow (Table 2-16 step 5). -/
theorem endShift_reacts {s : State} {y : Nat} {h : Shift} (hf : (s.fabric.shifts.find? fun g => g.row = y && g.moving) = some h)
    (hw : h.waiting = []) : Reacts (s.shifted y h) (s.endShift y) := by
  unfold endShift
  rw [hf]
  simp only [hw, List.foldl_nil]
  refine Reacts.trans (spareFlags_reacts (s.shifted y h) y) (Reacts.trans ?_ (goOn_reacts _))
  refine Reacts.trans ?_ (noteReplay_reacts _ _ _ _)
  exact (Reacts.refl _).fold fun u x hx => replayPlan_reacts u (plansOn_part hx) x.2

theorem burnFence_mem (s : State) (p : Nat) : p ∈ (s.burnFence p).persist.fencedTiles ∧ p ∈ (s.burnFence p).fuse.fieldFenced := by
  unfold burnFence
  constructor <;> dsimp only <;> split <;> simp_all

theorem Reacts.fabric {s t : State} (h : Reacts s t) : ({ t.fabric with halves := [] } : Fabric) = { s.fabric with halves := [] } :=
  (congrArg State.fabric h.unmoved :)

theorem Reacts.persist {s t : State} (h : Reacts s t) : t.persist = s.persist := (congrArg State.persist h.unmoved :)

theorem Reacts.fuse {s t : State} (h : Reacts s t) : t.fuse = s.fuse := (congrArg State.fuse h.unmoved :)

theorem shifted_fabric (s : State) (y : Nat) (h : Shift) : (s.shifted y h).fabric.skips = NMap.set (fun _ => []) s.fabric.skips y (insertNat h.col (s.skipsOf y)) ∧
    (s.shifted y h).fabric.shifts = s.fabric.shifts.filter fun g => g.row ≠ y := by
  have hto := (takeOver_reacts s ((s.logical (y * 66 + h.col)).getD 0)).fabric
  have hskips : (s.takeOver ((s.logical (y * 66 + h.col)).getD 0)).fabric.skips = s.fabric.skips := (congrArg Fabric.skips hto :)
  have hshifts : (s.takeOver ((s.logical (y * 66 + h.col)).getD 0)).fabric.shifts = s.fabric.shifts := (congrArg Fabric.shifts hto :)
  have hz : ∀ (u : State) (n : Nat), (u.zeroMarked n).fabric = u.fabric := fun u n => (congrArg State.fabric (zeroMarked_memless u n) :)
  constructor
  · rw [shifted, raise_fabric, burnFence, hz, updFabric_fabric, hskips]
  · rw [shifted, raise_fabric, burnFence, hz, updFabric_fabric, hshifts]

/-- What a shift leaves once it is done (Table 2-16, R50). -/
theorem endShift_facts {s : State} {y : Nat} {h : Shift} (hf : (s.fabric.shifts.find? fun g => g.row = y && g.moving) = some h)
    (hw : h.waiting = []) :
    (s.endShift y).skipsOf y = insertNat h.col (s.skipsOf y) ∧ (∀ z, z ≠ y → (s.endShift y).skipsOf z = s.skipsOf z) ∧
    (∀ g ∈ (s.endShift y).fabric.shifts, g.row ≠ y) ∧ y * 66 + h.col ∈ (s.endShift y).persist.fencedTiles ∧
    y * 66 + h.col ∈ (s.endShift y).fuse.fieldFenced ∧ (s.endShift y).rd 0x3001 1 &&& 1 = 1 := by
  have hr := endShift_reacts hf hw
  obtain ⟨hskips, hshifts⟩ := shifted_fabric s y h
  rw [← (congrArg Fabric.skips hr.fabric :)] at hskips
  rw [← (congrArg Fabric.shifts hr.fabric :)] at hshifts
  refine ⟨?_, fun z hz => ?_, fun g hg => ?_, ?_, ?_, ?_⟩
  · rw [skipsOf, hskips, NMap.get_set_same]
  · rw [skipsOf, hskips, NMap.get_set_other _ _ _ hz, ← skipsOf]
  · rw [hshifts] at hg
    simpa using (List.mem_filter.1 hg).2
  · rw [hr.persist]
    exact (burnFence_mem _ _).1
  · rw [hr.fuse]
    exact (burnFence_mem _ _).2
  · refine Within.trans ?_ (hr.flags 0x3001 (.inr rfl))
    rw [shifted, rd_raise_flag _ _ _ (by decide)]
    exact within_or_right _ _

end State
end Sys2Proof.Machine

/-! SUPPORT. Device-fatal faults, the end of a reaction, and the retests of a quiet exit (R349, R352, R353). -/

namespace Sys2Proof.Machine.State

/-- Whatever record a device-fatal fault opens or takes over, the device halts after it (R353). -/
theorem openFault_fatal (s : State) (source kind unit detail cp component : Nat) :
    ∃ u : State, u.unfaulted = s.unfaulted ∧ s.openFault source 3 kind unit detail cp component = u.halt source cp component := by
  refine ⟨_, ?_, rfl⟩
  dsimp only
  split
  · exact (faultEmcy_unfaulted _ _ _ _ _).trans ((updFaults_unfaulted _ _).trans ((raise_unfaulted _ _ _).trans (updFaults_unfaulted _ _)))
  · exact (faultEmcy_unfaulted _ _ _ _ _).trans (updFaults_unfaulted _ _)

/-- A halt for a source of the control processors leaves a crash dump that names it (R408). -/
theorem halt_facts (s : State) {source : Nat} (cp component : Nat) (h : 0xF0 ≤ source) :
    let t := s.halt source cp component
    t.faults.mode = .halted ∧ t.faults.faultN = true ∧ t.persist.fatalPending = true ∧ t.parts = s.parts ∧ t.mem = s.mem ∧
      ∃ d, t.link.dump = some d ∧ d.source = source ∧ d.cp = cp ∧ d.component = component ∧ d.time = s.time := by
  unfold halt
  dsimp only
  rw [if_pos h]
  exact ⟨rfl, rfl, rfl, rfl, rfl, _, rfl, rfl, rfl, rfl, rfl⟩

theorem fatalCode_ge (src : FatalSource) : 0xF0 ≤ fatalCode src := by cases src <;> decide

/-- The record of which a reaction's end is told is no longer HANDLING; the others stay as they are (R349). -/
theorem handled_records (s : State) (seq : Nat) (micros : W32) {r : FaultRec} (hr : r ∈ s.faults.records) :
    (r.seq = seq → r.handling = true → r.kind ≠ 1 → r.secondKind ≠ 1 →
      { r with handling := false, handleMicros := micros } ∈ (s.handled seq micros).faults.records) ∧
    ((r.seq ≠ seq ∨ r.handling = false ∨ (r.kind = 1 ∧ s.shiftPending r.unit = true)) → r ∈ (s.handled seq micros).faults.records) := by
  refine ⟨fun h1 h2 h3 h4 => List.mem_map.2 ⟨r, hr, ?_⟩, fun h => List.mem_map.2 ⟨r, hr, ?_⟩⟩
  · simp [h1, h2, h3, h4]
  · refine if_neg ?_
    rcases h with h | h | ⟨h1, h2⟩
    · simp [h]
    · simp [h]
    · simp [h1, h2]

/-- A state without what a restart of communication touches. -/
def hushed (s : State) : State := { s.mute with rpdoWait := [] }

theorem hushed_mute {s t : State} (h : t.mute = s.mute) : t.hushed = s.hushed := by rw [hushed, h, hushed]

theorem chooseNode_facts (s : State) : s.chooseNode.mute = s.mute ∧
    ∀ i j, j < 256 → i ≠ 0x2010 → i ≠ 0x2013 → s.chooseNode.rd i j = s.rd i j := by
  unfold chooseNode
  dsimp only
  split
  · exact ⟨rfl, fun i j hj h1 _ => rd_wrn_other _ _ (odKey_ne (by decide) hj (.inl h1))⟩
  · refine ⟨by cases s; rfl, fun i j hj h1 h2 => ?_⟩
    rw [rd_raise_other _ (odKey_ne (by decide) hj (.inl h2)) (odKey_ne (by decide) hj (.inl h2)),
      rd_wrn_other _ _ (odKey_ne (by decide) hj (.inl h1)), rd_wrn_other _ _ (odKey_ne (by decide) hj (.inl h1))]

/-- A restart of a controller's communication touches its node-ID, the controllers and what they send (R431). -/
theorem resetComm_facts (s : State) (n : Nat) : (s.resetComm n).hushed = s.hushed ∧
    ∀ i j, j < 256 → i ≠ 0x2010 → i ≠ 0x2013 → (s.resetComm n).rd i j = s.rd i j := by
  obtain ⟨hm, hr⟩ := chooseNode_facts s
  unfold resetComm
  dsimp only
  generalize s.chooseNode = c at hm hr ⊢
  split
  · exact ⟨rfl, fun _ _ _ _ _ => rfl⟩
  · generalize hu : ({ State.updCan _ n _ with rpdoWait := _ } : State) = u
    have h1 : u.hushed = s.hushed := by
      rw [← hu, ← hushed_mute hm]; rfl
    have h2 : u.od = c.od := by rw [← hu]; rfl
    split
    · exact ⟨h1, fun i j hj hi hi' => (rd_congr h2 i j).trans (hr i j hj hi hi')⟩
    · refine ⟨?_, fun i j hj hi hi' => ?_⟩
      · rw [hushed_mute (mute_sameButCan (updCan_sameButCan _ _ _)), hushed_mute (mute_sameButCan (canSend_sameButCan _ _ _ _)), h1]
      · rw [rd_congr (sameButCan_od (updCan_sameButCan _ _ _)), rd_congr (sameButCan_od (canSend_sameButCan _ _ _ _)), rd_congr h2, hr i j hj hi hi']

/-- The unit is held (Table 13-4). -/
def UnitHeld (s : State) : FaultUnit → Prop
  | .pipeline k => k.val ∈ s.faults.heldPipes
  | .edgeEngine e => e.val ∈ s.faults.heldEdges
  | .canController n => n.val ∈ s.faults.heldCans
  | .roost => s.faults.roostHeld = true
  | _ => False

theorem mem_heldUnits (s : State) (u : FaultUnit) : u ∈ s.heldUnits ↔ s.UnitHeld u := by
  unfold heldUnits UnitHeld
  cases u <;> simp

/-- What the retests of a quiet exit may touch: the faults, the audio plan to load, and what a restart of communication touches. -/
def unretested (s : State) : State := { s.hushed with faults := Faults.none, audio := { s.audio with loadDue := false } }

theorem unretested_hushed {s t : State} (h : t.hushed = s.hushed) : t.unretested = s.unretested := by
  have ha : t.audio = s.audio := (congrArg State.audio h :)
  rw [unretested, h, ha, unretested]

theorem faults_hushed {s t : State} (h : t.hushed = s.hushed) : t.faults = s.faults := (congrArg State.faults h :)
theorem audio_hushed {s t : State} (h : t.hushed = s.hushed) : t.audio = s.audio := (congrArg State.audio h :)

/-- The faults after a unit has passed its retest. -/
def released (f : Faults) : FaultUnit → Faults
  | .pipeline k => { f with heldPipes := f.heldPipes.filter (· ≠ k.val) }
  | .edgeEngine e => { f with heldEdges := f.heldEdges.filter (· ≠ e.val) }
  | .canController n => { f with heldCans := f.heldCans.filter (· ≠ n.val) }
  | .roost => { f with roostHeld := false }
  | _ => f

/-- A unit that passes its retest is no longer held, and a roost has its plan to load again (R352). -/
theorem retest_passes {failed : List FaultUnit} {s : State} {u : FaultUnit} (h : u ∉ failed) :
    (retest failed s u).unretested = s.unretested ∧ (retest failed s u).faults = released s.faults u ∧
    ((retest failed s u).audio.loadDue = (s.audio.loadDue || decide (u = .roost))) ∧
    ∀ i j, j < 256 → i ≠ 0x2010 → i ≠ 0x2013 → (retest failed s u).rd i j = s.rd i j := by
  have hb : failed.contains u = false := by simpa using h
  unfold retest
  rw [hb]
  cases u with
  | canController n =>
    dsimp only
    generalize hu : s.updFaults _ = t
    obtain ⟨hh, hr⟩ := resetComm_facts t n.val
    have hf : t.faults = released s.faults (.canController n) := by rw [← hu]; rfl
    have ht : t.unretested = s.unretested := by rw [← hu]; rfl
    have ha : t.audio.loadDue = (s.audio.loadDue || decide (FaultUnit.canController n = .roost)) := by rw [← hu]; simp
    have ho : t.od = s.od := by rw [← hu]; rfl
    rw [if_neg Bool.false_ne_true]
    split
    · exact ⟨(unretested_hushed hh).trans ht, (faults_hushed hh).trans hf, by rw [audio_hushed hh, ha],
        fun i j hj h1 h2 => (hr i j hj h1 h2).trans (rd_congr ho i j)⟩
    · exact ⟨ht, hf, ha, fun i j _ _ _ => rd_congr ho i j⟩
  | _ => exact ⟨rfl, rfl, by simp, fun _ _ _ _ _ => rfl⟩

theorem unitHeld_released {s t : State} {u : FaultUnit} (h : t.faults = released s.faults u) (w : FaultUnit) :
    t.UnitHeld w ↔ s.UnitHeld w ∧ w ≠ u := by
  unfold UnitHeld
  rw [h]
  cases u <;> cases w <;> simp [released, Fin.ext_iff]

theorem records_released (f : Faults) (u : FaultUnit) : (released f u).records = f.records := by cases u <;> rfl

/-- Units that all pass their retests are held no longer; no record opens (R352). -/
theorem retests_pass (us : List FaultUnit) (s : State) :
    (us.foldl (retest []) s).unretested = s.unretested ∧ (∀ w, (us.foldl (retest []) s).UnitHeld w ↔ s.UnitHeld w ∧ w ∉ us) ∧
    (us.foldl (retest []) s).audio.loadDue = (s.audio.loadDue || decide (FaultUnit.roost ∈ us)) ∧
    (us.foldl (retest []) s).faults.records = s.faults.records ∧
    ∀ i j, j < 256 → i ≠ 0x2010 → i ≠ 0x2013 → (us.foldl (retest []) s).rd i j = s.rd i j := by
  induction us generalizing s with
  | nil => simp
  | cons u us ih =>
    obtain ⟨hu, hf, ha, hr⟩ := retest_passes (failed := []) (s := s) (u := u) (by simp)
    obtain ⟨iu, iheld, ia, irec, ir⟩ := ih (retest [] s u)
    refine ⟨iu.trans hu, fun w => ?_, ?_, ?_, fun i j hj h1 h2 => (ir i j hj h1 h2).trans (hr i j hj h1 h2)⟩
    · rw [List.foldl_cons, iheld, unitHeld_released hf, List.mem_cons, not_or, and_assoc]
    · rw [List.foldl_cons, ia, ha, Bool.or_assoc]
      simp [eq_comm]
    · rw [List.foldl_cons, irec, hf, records_released]

/-- The state of a quiet exit after its retests. -/
def retestsDone (s : State) (failed : List FaultUnit) : State := s.heldUnits.foldl (retest failed) ((s.bump32 0x9003 2 1).raise 0x9001 2)

theorem quietExit_eq {s : State} (h : s.quiet = true) (failed : List FaultUnit) : s.quietExit failed =
    if (s.retestsDone failed).anyHandling then s.retestsDone failed
    else ((s.retestsDone failed).updFaults fun f => { f with mode := .normal, faultN := false, errBits := 0 }).emcy 0 0 := by
  unfold quietExit
  rw [h]
  rfl

/-- A device whose quiet period has passed is in FAULT, with no record HANDLING. -/
theorem quiet_facts {s : State} (h : s.quiet = true) : s.faults.mode = .fault ∧ s.anyHandling = false := by
  simp only [quiet, Bool.and_eq_true, decide_eq_true_eq, Bool.not_eq_true'] at h
  exact h.1

theorem parts_unretested {s t : State} (h : t.unretested = s.unretested) : t.parts = s.parts := (congrArg State.parts h :)
theorem parts_mute {s t : State} (h : t.mute = s.mute) : t.parts = s.parts := (congrArg State.parts h :)
theorem audio_mute {s t : State} (h : t.mute = s.mute) : t.audio = s.audio := (congrArg State.audio h :)

/-- After retests that all pass, no unit is held, a held roost has its plan to load, and the exit is counted and flagged. -/
theorem retestsDone_passes (s : State) :
    (∀ w, ¬ (s.retestsDone []).UnitHeld w) ∧ (s.faults.roostHeld = true → (s.retestsDone []).audio.loadDue = true) ∧
    (s.retestsDone []).anyHandling = s.anyHandling ∧ (s.retestsDone []).rd 0x9001 1 = s.rd 0x9001 1 ||| 4 ∧
    (s.retestsDone []).rdn 0x9003 2 = (s.rdn 0x9003 2 + 1) % 4294967296 ∧ (s.retestsDone []).parts = s.parts := by
  unfold retestsDone
  obtain ⟨hu, hheld, hload, hrec, hrd⟩ := retests_pass s.heldUnits ((s.bump32 0x9003 2 1).raise 0x9001 2)
  refine ⟨fun w hw => ?_, fun hroost => ?_, ?_, ?_, ?_, ?_⟩
  · obtain ⟨h1, h2⟩ := (hheld w).1 hw
    exact h2 ((mem_heldUnits s w).2 h1)
  · have hmem : FaultUnit.roost ∈ s.heldUnits := (mem_heldUnits s .roost).2 hroost
    rw [hload]
    simp [hmem]
  · rw [anyHandling, hrec, raise_faults, bump32_faults, anyHandling]
  · rw [hrd _ _ (by decide) (by decide) (by decide), rd_raise_flag _ _ _ (by decide), bump32, rd_wrn_other _ _ (by decide)]
    rfl
  · rw [rdn, hrd _ _ (by decide) (by decide) (by decide), rd_raise_other _ (by decide) (by decide), ← rdn, bump32,
      rdn_wrn_same _ _ _ _ (by omega)]
  · rw [parts_unretested hu, raise_parts, bump32_parts]

/-- When every unit passes its retest the device is NORMAL again, with no unit held (R352). -/
theorem quietExit_passes {s : State} (h : s.quiet = true) :
    (s.quietExit []).faults.mode = .normal ∧ (s.quietExit []).faults.faultN = false ∧ (∀ w, ¬ (s.quietExit []).UnitHeld w) ∧
    (s.faults.roostHeld = true → (s.quietExit []).audio.loadDue = true) ∧ (s.quietExit []).rd 0x9001 1 = s.rd 0x9001 1 ||| 4 ∧
    (s.quietExit []).rdn 0x9003 2 = (s.rdn 0x9003 2 + 1) % 4294967296 ∧ (s.quietExit []).parts = s.parts := by
  obtain ⟨hheld, hload, hh, hflag, hcount, hparts⟩ := retestsDone_passes s
  rw [(quiet_facts h).2] at hh
  rw [quietExit_eq h, hh, if_neg Bool.false_ne_true]
  generalize s.retestsDone [] = u at *
  have hm := emcy_mute (u.updFaults fun f => { f with mode := .normal, faultN := false, errBits := 0 }) 0 0
  have hr : ∀ i j, j < 256 → i ≠ 0x1003 → (State.emcy (u.updFaults fun f => { f with mode := .normal, faultN := false, errBits := 0 }) 0 0).rd i j = u.rd i j :=
    fun i j hj hi => emcy_rd _ _ _ hi hj
  refine ⟨by rw [faults_mute hm]; rfl, by rw [faults_mute hm]; rfl, fun w hw => hheld w ?_, fun hroost => ?_, ?_, ?_, ?_⟩
  · unfold UnitHeld at hw ⊢
    rw [faults_mute hm] at hw
    exact hw
  · rw [audio_mute hm]; exact hload hroost
  · rw [hr _ _ (by decide) (by decide)]; exact hflag
  · rw [rdn, hr _ _ (by decide) (by decide)]; exact hcount
  · rw [parts_mute hm]; exact hparts

/-- What stays as the retests go on while a unit stays held: the device is in FAULT, and the unit is held. -/
def StillHeld (k : Nat) (s : State) : Prop := s.faults.mode = .fault ∧ k ∈ s.faults.heldPipes

/-- A retest has failed: its record is HANDLING, and SELF_TEST is flagged. -/
def RetestFailed (s : State) : Prop := s.anyHandling = true ∧ Within 0x80 (s.rd 0x9001 1)

theorem retestFails_facts {s : State} {k : Nat} (h : StillHeld k s) (kind unit : Nat) :
    StillHeld k (s.retestFails kind unit) ∧ RetestFailed (s.retestFails kind unit) := by
  have ho := openFault_unit s 0xE0 kind unit 0 0 0 (by rw [h.1]; decide)
  unfold retestFails
  refine ⟨⟨?_, ?_⟩, ?_, ?_⟩
  · rw [raise_faults]; exact ho.mode
  · rw [raise_faults, ho.held.1]; exact h.2
  · rw [anyHandling, raise_faults]; exact ho.handling
  · rw [rd_raise_flag _ _ _ (by decide)]; exact within_or_right _ _

/-- A retest leaves a unit held that is not the one that passes, and it takes no failure back. -/
theorem retest_keeps {s : State} {k : Fin 8} {failed : List FaultUnit} (hk : FaultUnit.pipeline k ∈ failed) (h : StillHeld k.val s)
    (u : FaultUnit) : StillHeld k.val (retest failed s u) ∧ ((RetestFailed s ∨ u = .pipeline k) → RetestFailed (retest failed s u)) := by
  by_cases hu : u ∈ failed
  · have hb : failed.contains u = true := by simpa using hu
    unfold retest
    rw [hb]
    cases u with
    | pipeline | edgeEngine | canController | roost => exact ⟨(retestFails_facts h _ _).1, fun _ => (retestFails_facts h _ _).2⟩
    | _ => exact ⟨h, fun hr => hr.resolve_right (by simp)⟩
  · obtain ⟨-, hf, -, hr⟩ := retest_passes (s := s) hu
    have hne : u ≠ .pipeline k := by rintro rfl; exact hu hk
    refine ⟨⟨?_, ?_⟩, fun hfail => ?_⟩
    · rw [hf, ← h.1]; cases u <;> rfl
    · exact ((unitHeld_released hf (.pipeline k)).2 ⟨h.2, hne.symm⟩ :)
    · obtain ⟨hh, hw⟩ := hfail.resolve_right hne
      exact ⟨by rw [anyHandling, hf, records_released]; exact hh, by rw [hr _ _ (by decide) (by decide) (by decide)]; exact hw⟩

theorem retests_keep {k : Fin 8} {failed : List FaultUnit} (hk : FaultUnit.pipeline k ∈ failed) (us : List FaultUnit) {s : State}
    (h : StillHeld k.val s) (hu : RetestFailed s ∨ FaultUnit.pipeline k ∈ us) :
    StillHeld k.val (us.foldl (retest failed) s) ∧ RetestFailed (us.foldl (retest failed) s) := by
  induction us generalizing s with
  | nil => exact ⟨h, hu.resolve_right (by simp)⟩
  | cons u us ih =>
    obtain ⟨h1, h2⟩ := retest_keeps hk h u
    rw [List.mem_cons, ← or_assoc] at hu
    exact ih h1 (hu.imp_left fun hu => h2 (hu.imp_right Eq.symm))

/-- A unit that fails its retest stays held, and the device stays in FAULT (R352). -/
theorem quietExit_fails {s : State} (h : s.quiet = true) {k : Fin 8} {failed : List FaultUnit} (hk : FaultUnit.pipeline k ∈ failed)
    (hheld : k.val ∈ s.faults.heldPipes) :
    (s.quietExit failed).faults.mode = .fault ∧ k.val ∈ (s.quietExit failed).faults.heldPipes ∧
      (s.quietExit failed).rd 0x9001 1 &&& 0x80 = 0x80 := by
  obtain ⟨⟨hm, hp⟩, hh, hw⟩ : StillHeld k.val (s.retestsDone failed) ∧ RetestFailed (s.retestsDone failed) :=
    retests_keep hk s.heldUnits ⟨(quiet_facts h).1, hheld⟩ (.inr ((mem_heldUnits s (.pipeline k)).2 hheld))
  rw [quietExit_eq h, hh, if_pos rfl]
  exact ⟨hm, hp, hw⟩

end Sys2Proof.Machine.State

namespace Sys2Proof

open Sys2Proof.Machine

/-- Settles O50: what a device-fatal fault, the end of a reaction, a quiet exit and a substitution shift leave. -/
theorem recovery : Obligations.Recovery := by
  unfold Obligations.Recovery
  refine ⟨fun s => ⟨fun src cp comp h => ?_, fun src cp comp h => ?_, fun record micros h => ?_⟩,
    fun s h => ⟨fun failed hq => ?_, fun hq => ?_, fun failed k hq hk hheld => ?_⟩,
    fun s y h => ⟨fun hs => ?_, fun hl hr => ?_, fun hm => ?_, fun g hf hw => ?_⟩⟩
  · obtain ⟨u, hu, heq⟩ := State.openFault_fatal s (State.fatalCode src) 8 0 0 cp.toNat comp.toNat
    have hx : s.fatalFault (State.fatalCode src) cp.toNat comp.toNat = u.halt (State.fatalCode src) cp.toNat comp.toNat :=
      (if_pos h).trans heq
    obtain ⟨hm, hn, hp, hparts, hmem, d, hd, h1, h2, h3, h4⟩ := State.halt_facts u cp.toNat comp.toNat (State.fatalCode_ge src)
    exact ⟨_, congrArg Host.Outcome.next hx, hm, hn, hp, hparts.trans (congrArg State.parts hu :), hmem.trans (congrArg State.mem hu :),
      d, hd, h1, h2, h3, h4.trans (congrArg State.time hu :)⟩
  · exact congrArg Host.Outcome.next (if_neg (by simp [h]))
  · exact ⟨_, congrArg Host.Outcome.next (if_pos h), List.length_map .., rfl, rfl, fun r hr => State.handled_records s record.toNat micros hr⟩
  · have hx : s.quietExit failed = s := if_pos (by simp [hq])
    exact congrArg Host.Outcome.next ((if_pos h).trans hx)
  · obtain ⟨hm, hn, hheld, hload, hflag, hcount, hparts⟩ := State.quietExit_passes hq
    exact ⟨_, congrArg Host.Outcome.next (if_pos h), hm, hn, by simpa [State.UnitHeld] using hheld .roost, fun k hk => hheld (.pipeline ⟨k, hk⟩),
      fun k hk => hheld (.edgeEngine ⟨k, hk⟩), fun k hk => hheld (.canController ⟨k, hk⟩), hload, hflag, hcount, hparts⟩
  · exact ⟨_, congrArg Host.Outcome.next (if_pos h), State.quietExit_fails hq hk hheld⟩
  · have hx : s.startShift y.val = s := if_pos (by simpa using hs)
    exact congrArg Host.Outcome.next ((if_pos h).trans hx)
  · have hx : s.startShift y.val = s.updFabric fun f => { f with shifts := f.shifts.map fun h => if h.row = y.val then { h with moving := true } else h } :=
      if_neg (by simp [hl, hr])
    refine ⟨_, congrArg Host.Outcome.next ((if_pos h).trans hx), List.length_map .., rfl, fun g hg hy => ?_, fun g hg hy => ?_⟩
    · exact List.mem_map.2 ⟨g, hg, if_pos hy⟩
    · exact List.mem_map.2 ⟨g, hg, if_neg hy⟩
  · have hno : (s.fabric.shifts.find? fun g => g.row = y.val && g.moving) = none := by
      refine List.find?_eq_none.2 fun g hg => ?_
      simpa using hm g hg
    have hx : s.endShift y.val = s := by
      unfold State.endShift
      rw [hno]
    exact congrArg Host.Outcome.next ((if_pos h).trans hx)
  · exact ⟨_, congrArg Host.Outcome.next (if_pos h), State.endShift_facts hf hw⟩

end Sys2Proof

/-! SUPPORT. A unit-fatal fault of an edge engine whose job names a partition that the device does not have. -/

namespace Sys2Proof.Machine

/-- A number of a partition such that the key of its entry 701A is the key of 9003:06, the count of unit-fatal faults. -/
def strayPart : Nat := 0x1FE905

theorem odKey_strayPart : odKey 0 0x701A (strayPart + 1) = odKey 0 0x9003 6 := by decide

/-- An EDGE_RUN's job of that partition, for slot 0. -/
def strayJob : EdgeJob :=
  { programAddr := 0, ring := ⟨0, 0, 1, 0⟩, live := false, part := strayPart, slot := 0, frameSeq := 0, gen := 0, short := false, pipe := 0
    buffer := 0, start := 0, program := [], input := [], output := [], outBuffer := 0, seq := 0, corrected := false, blank := none }

/-- The device after its start, its lease the host's and Bus Master Enable set, with that job on edge engine 0. -/
def strayState : State :=
  { State.reset with
    od := [(odKey 0 0x2100 3, 1)]
    parts := [(strayPart, { Part.empty with work := [⟨0, 0, true, .running, []⟩] })]
    edges := [(0, ⟨some strayJob, []⟩)]
    link := { Link.down with bme := [0] } }

/-- The fault of the engine ends the job's request, and the tail of its ring is the count of unit-fatal faults: it counts 2. -/
theorem strayState_counts : (strayState.unitFault 0x21 (.edgeEngine 0)).rdn 0x9003 6 = 2 := by decide +kernel

end Sys2Proof.Machine

namespace Sys2Proof

open Sys2Proof.Machine

/-- Refutes O49: the statement is about every state, and in `strayState` the fault of an edge engine counts twice in 9003:06, since the engine's job ends in a ring whose tail is that count. -/
theorem not_unitFaults : ¬ Obligations.UnitFaults := by
  unfold Obligations.UnitFaults
  intro h
  obtain ⟨-, -, -, hedge, -⟩ := h strayState .edge (by decide)
  obtain ⟨t, ht, ⟨hcount, -⟩, -⟩ := (hedge 0 (by decide)).2 (by decide)
  have heq : strayState.unitFault 0x21 (.edgeEngine 0) = t := by
    have hx : Sys2Proof.Machine.exec (.unitFatalFault .edge (.edgeEngine 0)) strayState = .next (strayState.unitFault 0x21 (.edgeEngine 0)) :=
      congrArg Host.Outcome.next (if_pos (by decide))
    exact Host.Outcome.next.inj (hx.symm.trans ht)
  rw [← heq, strayState_counts] at hcount
  revert hcount
  decide

end Sys2Proof

/-! SUPPORT. Configurations on tiles: who holds a tile after a plan is staged and after it is dropped (R46). -/

namespace Sys2Proof.Machine.State

/-- A half of tile n holds the plan's configuration. -/
def Holds (s : State) (p : Nat) (id : W64) (n : Nat) : Prop := (s.halves n).running = some (p, id) ∨ (s.halves n).staged = some (p, id)

theorem Holds.of_memless {s t : State} {p : Nat} {id : W64} {n : Nat} (ht : t.memless = s.memless) :
    t.Holds p id n ↔ s.Holds p id n := by rw [Holds, Holds, halves_memless ht]

/-- Tile t runs an invocation of the configuration that it holds. -/
def tileRuns (s : State) (t : Nat) : Bool :=
  match (s.halves t).running with
  | some (q, k) => s.planRuns q k
  | none => false

/-- What staging a plan does to one tile (R46). -/
def stageTile (p : Nat) (id : W64) (s : State) (t : Nat) : State :=
  if s.tileRuns t then s.setHalves t { s.halves t with staged := some (p, id), pending := true }
  else (s.zeroMarked t).setHalves t { running := some (p, id), staged := (s.halves t).running, pending := false }

theorem stage_eq (s : State) (p : Nat) (id : W64) (tiles : List Nat) : s.stage p id tiles = tiles.foldl (stageTile p id) s := rfl

theorem stageTile_holds {p : Nat} {id : W64} {s : State} {t n : Nat} (h : n = t ∨ s.Holds p id n) : (stageTile p id s t).Holds p id n := by
  unfold stageTile
  split <;> simp only [Holds, halves_setHalves] <;> split
  · exact .inr rfl
  · next hn => exact h.resolve_left hn
  · exact .inl rfl
  · next hn => exact (Holds.of_memless (zeroMarked_memless s t)).2 (h.resolve_left hn)

/-- A tile that a plan is staged to holds its configuration, and a tile that holds it goes on holding it (R46). -/
theorem stage_holds (s : State) (p : Nat) (id : W64) (tiles : List Nat) (n : Nat) (h : n ∈ tiles ∨ s.Holds p id n) :
    (s.stage p id tiles).Holds p id n := by
  rw [stage_eq]
  induction tiles generalizing s with
  | nil => exact h.resolve_left (by simp)
  | cons t tiles ih =>
    rw [List.mem_cons, or_comm, ← or_assoc] at h
    exact ih _ (Or.symm (h.imp_left fun h => stageTile_holds h.symm))

theorem stage_parts (s : State) (p : Nat) (id : W64) (tiles : List Nat) : (s.stage p id tiles).parts = s.parts := by
  rw [stage_eq]
  refine foldl_keeps State.parts (fun u t => ?_) _ _
  unfold stageTile
  split
  · rfl
  · exact (congrArg State.parts (zeroMarked_memless u t) :)

/-- What dropping a plan's configuration does to one tile (R44). -/
def dropFrom (p : Nat) (id : W64) (s : State) (t : Nat) : State :=
  let h := s.halves t
  (if h.running = some (p, id) then s.zeroMarked t else s).setHalves t
    { running := if h.running = some (p, id) then none else h.running
      staged := if h.staged = some (p, id) then none else h.staged
      pending := h.pending && h.staged ≠ some (p, id) }

theorem dropConfig_eq (s : State) (p : Nat) (id : W64) : s.dropConfig p id = (NMap.keys s.fabric.halves).foldl (dropFrom p id) s := rfl

theorem dropFrom_not_holds {p : Nat} {id : W64} {s : State} {t n : Nat} (h : n = t ∨ ¬ s.Holds p id n) :
    ¬ (dropFrom p id s t).Holds p id n := by
  simp only [dropFrom, Holds, halves_setHalves]
  split
  · rw [not_or]
    constructor
    · show ite _ _ _ ≠ _
      split
      · simp
      · assumption
    · show ite _ _ _ ≠ _
      split
      · simp
      · assumption
  · next hn =>
    have hs := h.resolve_left hn
    split
    · exact fun k => hs ((Holds.of_memless (zeroMarked_memless s t)).1 k)
    · exact hs

/-- No tile holds the configuration of a plan that was dropped (R44). -/
theorem dropConfig_not_holds (s : State) (p : Nat) (id : W64) (n : Nat) : ¬ (s.dropConfig p id).Holds p id n := by
  have hfold (l : List Nat) : ∀ u : State, n ∈ l ∨ ¬ u.Holds p id n → ¬ (l.foldl (dropFrom p id) u).Holds p id n := by
    induction l with
    | nil => exact fun u h => h.resolve_left (by simp)
    | cons t l ih =>
      intro u h
      rw [List.mem_cons, or_comm, ← or_assoc] at h
      exact ih _ (Or.symm (h.imp_left fun h => dropFrom_not_holds h.symm))
  rw [dropConfig_eq]
  refine hfold _ s ((Classical.em _).imp_right fun hn hs => hn (NMap.mem_keys_of_get_ne (d := fun _ => ⟨none, none, false⟩) ?_))
  intro he
  rw [Holds, halves, he] at hs
  simp at hs

theorem unloadPlan_not_holds (s : State) (p : Nat) (id : W64) (n : Nat) : ¬ (s.unloadPlan p id).Holds p id n :=
  dropConfig_not_holds s p id n

theorem unloadPlan_findPlan (s : State) (p : Nat) (id : W64) : (s.unloadPlan p id).findPlan p id = none := by
  rw [findPlan, unloadPlan_plans, List.find?_eq_none]
  intro l hl
  simpa using (List.mem_filter.1 hl).2

/-- An unloaded plan leaves no image and no checkpoint in its partition's frames (R44). -/
theorem unloadPlan_frames (s : State) (p : Nat) (id : W64) :
    ∀ f ∈ ((s.unloadPlan p id).part p).frames, f.2 ≠ .image id ∧ f.2 ≠ .checkpoint id := by
  intro f hf
  simp only [unloadPlan, emptyFrames, part_updPart, if_true, List.mem_filter] at hf
  obtain ⟨-, hf⟩ := hf
  constructor <;> (intro he; simp [he] at hf)

/-! SUPPORT. Loads: what a load's frames, its rejection and its end leave (R43, R301). -/

/-- The state apart from its partitions, and of partition p all but its frames. -/
def besidesFrames (s : State) (p : Nat) : State × Part := ({ s with parts := [] }, { s.part p with frames := [] })

theorem pinFrames_besidesFrames {p : Nat} {use : FrameUse} {k : Nat} {s t : State} (h : pinFrames p use k s = some t) :
    t.besidesFrames p = s.besidesFrames p := by
  induction k generalizing s with
  | zero => rw [Option.some.inj h]
  | succ k ih =>
    unfold pinFrames at h
    split at h
    · cases h
    · next f =>
      rw [ih h]
      simp only [besidesFrames, setFrame, part_updPart, if_true]
      rfl

/-- Pinning a plan's frames changes the frames of its partition alone (R43). -/
theorem pinPlan_besidesFrames {s t : State} {p : Nat} {id : W64} {bytes ckpt : Nat} (h : s.pinPlan p id bytes ckpt = some t) :
    t.besidesFrames p = s.besidesFrames p := by
  unfold pinPlan at h
  split at h
  · obtain ⟨u, hu, ht⟩ := Option.bind_eq_some_iff.1 h
    rw [pinFrames_besidesFrames ht, pinFrames_besidesFrames hu]
  · cases h

theorem isLost_besidesFrames {s t : State} {p : Nat} (h : t.besidesFrames p = s.besidesFrames p) (g : PageId) : t.isLost g = s.isLost g :=
  (congrArg (fun u : State × Part => u.1.isLost g) h :)

theorem findWork_besidesFrames {s t : State} {p : Nat} (h : t.besidesFrames p = s.besidesFrames p) (slot : Nat) :
    t.findWork p slot = s.findWork p slot :=
  (congrArg (fun u : State × Part => u.2.work.find? fun w => w.slot = slot) h :)

theorem plans_besidesFrames {s t : State} {p : Nat} (h : t.besidesFrames p = s.besidesFrames p) : (t.part p).plans = (s.part p).plans :=
  (congrArg (fun u : State × Part => u.2.plans) h :)

theorem mem_besidesFrames {s t : State} {p : Nat} (h : t.besidesFrames p = s.besidesFrames p) : t.mem = s.mem ∧ t.fabric = s.fabric :=
  ⟨(congrArg (fun u : State × Part => u.1.mem) h :), (congrArg (fun u : State × Part => u.1.fabric) h :)⟩

theorem dropLoad_plans (s : State) (p : Nat) (j : LoadJob) : ((s.dropLoad p j).part p).plans = (s.part p).plans := by
  simp [dropLoad, part_updPart]

theorem dropLoad_loads (s : State) (p : Nat) (j : LoadJob) : ∀ k ∈ ((s.dropLoad p j).part p).loads, k.slot ≠ j.slot := by
  intro k hk
  simp only [dropLoad, part_updPart, if_true] at hk
  simpa using (List.mem_filter.1 hk).2

/-- A load that asks bedrock for its pages: it pins the plan's frames and joins its partition's loads (R43). -/
theorem startLoad_pins {s u : State} {p m slot : Nat} {id : W64} {e : ModelPlan} (hm : m < 256) (hst : 1 < (s.model m).state)
    (he : s.modelPlan m id = some e) (hl : s.findPlan p id = none) (hj : ∀ j ∈ (s.part p).loads, j.planId ≠ id)
    (hu : s.pinPlan p id e.bytes (ckptOf (parsePlan (s.planImage m e))) = some u) :
    startLoad ⟨[], false⟩ s p m id slot =
      let j : LoadJob := ⟨slot, id, m, imagePages m e.offset e.bytes, false, false, false⟩
      if j.left.any u.isLost then .failed (u.dropLoad p j) 0x21 1
      else .reading (u.updPart p fun x => { x with loads := x.loads ++ [j] }) := by
  have hm' : (decide (256 ≤ m) || decide ((s.model m).state ≤ 1)) = false := by simp; omega
  have hj' : ((s.part p).loads.any fun j => j.planId = id) = false := by simpa using hj
  simp [startLoad, hm', he, hl, hj', hu, meet]

/-- Every failure of a load leaves the state without it (R301). -/
theorem goLoad_failed {s t : State} {p st n : Nat} {j : LoadJob} (h : s.goLoad p j = .failed t st n) : t = s.dropLoad p j := by
  unfold goLoad at h
  dsimp only at h
  repeat' split at h
  all_goals cases h
  all_goals rfl

theorem mem_plans_stage {s : State} {p : Nat} {f : Part → Part} {l : Loaded} (hl : l ∈ (f (s.part p)).plans) (id : W64) (tiles : List Nat) :
    l ∈ (((s.updPart p f).stage p id tiles).part p).plans := by
  have hpart : ((s.updPart p f).stage p id tiles).part p = (s.updPart p f).part p := by simp only [part, stage_parts]
  rw [hpart, part_updPart, if_pos rfl]
  exact hl

/-- A load that ends loaded has appended its plan, each of whose tiles holds its configuration (R43, R46). -/
theorem goLoad_loaded {s t : State} {p st gap : Nat} {j : LoadJob} (h : s.goLoad p j = .loaded t st gap) :
    st ≤ 1 ∧ ∃ l ∈ (t.part p).plans, l.model = j.model ∧ l.plan.gap = gap ∧ ∀ n ∈ l.place, t.Holds p j.planId n := by
  unfold goLoad at h
  dsimp only at h
  repeat' split at h
  all_goals cases h
  refine ⟨by cases j.corrected <;> simp [b2n], _, mem_plans_stage (List.mem_append_right _ (List.mem_singleton.2 rfl)) _ _, ?_⟩
  exact ⟨rfl, rfl, fun n hn => stage_holds _ _ _ _ _ (.inl hn)⟩

theorem setPhase_findWork (s : State) (p slot : Nat) (ph : WorkPhase) :
    (s.setPhase p slot ph).findWork p slot = (s.findWork p slot).map fun w => { w with phase := ph } := by
  simp only [findWork, setPhase, part_updPart, if_true]
  induction (s.part p).work with
  | nil => rfl
  | cons w ws ih => by_cases h : w.slot = slot <;> simp_all

/-- The one load of a partition whose pages are read goes on with what its plan's check gives (R301). -/
theorem afterRead_one {s : State} {p : Nat} {j : LoadJob} {w : Work}
    (hj : ((s.part p).loads.filter fun j => j.slot < 64 && j.left.isEmpty) = [j]) (hw : s.findWork p j.slot = some w)
    (hr : w.phase = .running) : s.afterRead p = s.endLoad p j.slot j.planId (s.goLoad p j) := by
  simp [afterRead, hj, hw, hr]

/-- A staged plan that finds its tiles free runs on them (R46). -/
theorem stagedStart_runs {s : State} {p : Nat} {id : W64} {l : Loaded} (hl : s.findPlan p id = some l)
    (hst : ∃ n ∈ l.place, (s.halves n).staged = some (p, id)) (hf : ∀ n ∈ l.place, n ∉ s.busyTiles p id ∧ s.shifting n = false) :
    s.stagedStart p id = s.runOn p id l.place := by
  have hany : (l.place.any fun n => (s.halves n).staged = some (p, id)) = true := by simpa using hst
  have hno : (l.place.any fun n => (s.busyTiles p id).contains n || s.shifting n) = false := by
    simp only [List.any_eq_false, Bool.or_eq_true, List.contains_eq_mem, decide_eq_true_eq, not_or, Bool.not_eq_true]
    exact hf
  simp only [stagedStart, hl, hany, hno, Bool.not_false, Bool.and_self, if_true]

end Sys2Proof.Machine.State

namespace Sys2Proof

open Sys2Proof.Machine

theorem begun_findWork {op : Nat} {d : DescImage} {extra : List Byte} {s : State} (h : Starts op d extra s) :
    (begun d extra s).findWork d.part.val d.slot.val = some { workOf d extra with phase := .running } := by
  obtain ⟨⟨-, -, -, -, -, hfree⟩, -⟩ := h
  rw [begun, State.setPhase_findWork, findWork_takenState hfree]
  rfl

/-- A plan load that starts ends with what its checks and its pins give (R43, R301). -/
theorem planLoad_starts {s : State} {d : DescImage} (h : Starts 0x01 d [] s) (met : Met) :
    Sys2Proof.Machine.exec (.planLoad d met) s =
      .next ((begun d [] s).endLoad d.part.val d.slot.val (BitVec.ofNat 64 (dBody d.raw 8 8))
        (State.startLoad met (begun d [] s) d.part.val (dBody d.raw 0 2) (BitVec.ofNat 64 (dBody d.raw 8 8)) d.slot.val)) :=
  takeDesc_starts h (State.startPlanLoad met)

theorem planUnload_starts {s : State} {d : DescImage} (h : Starts 0x02 d [] s) :
    Sys2Proof.Machine.exec (.planUnload d) s = .next ((begun d [] s).startPlanUnload d.part.val (workOf d [])) :=
  takeDesc_starts h State.startPlanUnload

/-- The load that a PLAN_LOAD descriptor makes of the plan's entry in its model (R43). -/
def askedLoad (d : DescImage) (e : ModelPlan) : LoadJob :=
  ⟨d.slot.val, BitVec.ofNat 64 (dBody d.raw 8 8), dBody d.raw 0 2, State.imagePages (dBody d.raw 0 2) e.offset e.bytes, false, false, false⟩

/-- A load that asks for its pages: it ends with WEIGHT_LOST when one is lost, and reads them otherwise (R43). -/
theorem planLoad_pins {s u : State} {d : DescImage} {e : ModelPlan} (h : Starts 0x01 d [] s)
    (hm : dBody d.raw 0 2 < 256) (hst : 1 < ((begun d [] s).model (dBody d.raw 0 2)).state)
    (he : (begun d [] s).modelPlan (dBody d.raw 0 2) (BitVec.ofNat 64 (dBody d.raw 8 8)) = some e)
    (hl : (begun d [] s).findPlan d.part.val (BitVec.ofNat 64 (dBody d.raw 8 8)) = none)
    (hj : ∀ j ∈ ((begun d [] s).part d.part.val).loads, j.planId ≠ BitVec.ofNat 64 (dBody d.raw 8 8))
    (hu : (begun d [] s).pinPlan d.part.val (BitVec.ofNat 64 (dBody d.raw 8 8)) e.bytes
      (State.ckptOf (parsePlan ((begun d [] s).planImage (dBody d.raw 0 2) e))) = some u) :
    Sys2Proof.Machine.exec (.planLoad d ⟨[], false⟩) s =
      .next (if (askedLoad d e).left.any u.isLost then endedIn d (u.dropLoad d.part.val (askedLoad d e)) 0x21 1 0
        else u.updPart d.part.val fun x => { x with loads := x.loads ++ [askedLoad d e] }) := by
  have hload : State.startLoad ⟨[], false⟩ (begun d [] s) d.part.val (dBody d.raw 0 2) (BitVec.ofNat 64 (dBody d.raw 8 8)) d.slot.val =
      if (askedLoad d e).left.any u.isLost then .failed (u.dropLoad d.part.val (askedLoad d e)) 0x21 1
      else .reading (u.updPart d.part.val fun x => { x with loads := x.loads ++ [askedLoad d e] }) :=
    State.startLoad_pins hm hst he hl hj hu
  rw [planLoad_starts h, hload]
  cases (askedLoad d e).left.any u.isLost <;> rfl

/-- Settles O23, by what each operation on a load, a plan and its tiles leaves. -/
theorem planLoading : Obligations.PlanLoading := by
  unfold Obligations.PlanLoading
  intro s d
  dsimp only
  refine ⟨fun h met => ⟨fun hno => ?_, fun e l hm hst he hl => ?_, fun e u hm hst he hl hj hu => ?_⟩,
    fun q g bad ok j w ha hj hw hr => ?_, fun h => ⟨fun hl => ?_, fun l hl hp => ?_, fun l hl hp => ?_⟩,
    fun q id l ha hl hst hf => ?_⟩
  · rw [planLoad_starts h]
    refine congrArg Host.Outcome.next ?_
    have hfail : State.startLoad met (begun d [] s) d.part.val (dBody d.raw 0 2) (BitVec.ofNat 64 (dBody d.raw 8 8)) d.slot.val =
        .failed (begun d [] s) 0x33 5 := by
      unfold State.startLoad
      split
      · rfl
      · next hc =>
        simp only [Bool.or_eq_true, decide_eq_true_eq, not_or] at hc
        obtain ⟨hm, hst⟩ := hc
        rw [(hno.resolve_left hm).resolve_left hst]
    rw [hfail]
    rfl
  · rw [planLoad_starts h]
    have hc : (decide (256 ≤ dBody d.raw 0 2) || decide (((begun d [] s).model (dBody d.raw 0 2)).state ≤ 1)) = false := by simp; omega
    simp [State.startLoad, hc, he, hl, State.endLoad, endedIn]
  · have hexec := planLoad_pins h hm hst he hl hj hu
    have hsame := State.pinPlan_besidesFrames hu
    obtain ⟨hmem, hfabric⟩ := State.mem_besidesFrames hsame
    refine ⟨fun hall => ?_, fun hex => ?_⟩
    · have hno : (askedLoad d e).left.any u.isLost = false := by
        simpa [askedLoad, State.isLost_besidesFrames hsame] using hall
      rw [hno, if_neg (by simp)] at hexec
      refine ⟨_, hexec, ⟨askedLoad d e, ?_, rfl, rfl, rfl, rfl⟩, ⟨{ workOf d [] with phase := .running }, ?_, rfl⟩, ?_, ?_⟩
      · rw [State.part_updPart, if_pos rfl]
        exact List.mem_append_right _ (List.mem_singleton.2 rfl)
      · rw [← begun_findWork h, ← State.findWork_besidesFrames hsame]
        simp [State.findWork, State.part_updPart]
      · rw [← State.plans_besidesFrames hsame]
        simp [State.part_updPart]
      · exact ⟨hmem, hfabric⟩
    · have hlost : (askedLoad d e).left.any u.isLost = true := by
        simpa [askedLoad, State.isLost_besidesFrames hsame] using hex
      rw [if_pos hlost] at hexec
      exact ⟨_, hexec, (State.dropLoad_plans _ _ _).trans (State.plans_besidesFrames hsame)⟩
  · have hexec : Sys2Proof.Machine.exec (.chunkDecodeResult q g bad ok) s =
        .next ((s.chunkResult q.val (pageId g) (bad.map Fin.val) ok).afterRead q.val) :=
      congrArg Host.Outcome.next (if_pos ha)
    rw [State.afterRead_one hj hw hr] at hexec
    refine ⟨fun t st gap ht => ?_, fun t st n ht => ?_⟩
    · obtain ⟨hst, hl⟩ := State.goLoad_loaded ht
      rw [ht] at hexec
      exact ⟨hexec, hst, hl⟩
    · have hdrop := State.goLoad_failed ht
      rw [ht] at hexec
      refine ⟨hexec, ?_, ?_⟩ <;> rw [hdrop]
      · exact State.dropLoad_loads _ _ _
      · exact State.dropLoad_plans _ _ _
  · rw [planUnload_starts h]
    simp [State.startPlanUnload, workOf, hl, endedIn]
  · rw [planUnload_starts h]
    simp [State.startPlanUnload, workOf, hl, hp, endedIn]
  · refine ⟨(begun d [] s).unloadPlan d.part.val (BitVec.ofNat 64 (dBody d.raw 0 8)), ?_, State.unloadPlan_findPlan _ _ _,
      State.unloadPlan_frames _ _ _, fun n => not_or.1 (State.unloadPlan_not_holds _ _ _ n)⟩
    rw [planUnload_starts h]
    simp [State.startPlanUnload, workOf, hl, hp, endedIn]
  · refine ⟨s.runOn q.val id l.place, ?_, fun n hn => State.runOn_running s q.val id l.place n (.inl hn)⟩
    refine congrArg Host.Outcome.next ((if_pos ha).trans ?_)
    exact State.stagedStart_runs hl hst hf

end Sys2Proof

/-! SUPPORT. Statistics: what a copy into the snapshot entries and a clear leave (R86, R178). -/

namespace Sys2Proof.Machine.State

theorem rdI_congr {s t : State} (h : t.od = s.od) (fn i j : Nat) : t.rdI fn i j = s.rdI fn i j := by simp only [rdI, h]

/-- The write of one field of a snapshot, with its number, into entries `i` of interface `fn`. -/
def putField (fn i : Nat) (s : State) (v : Nat × Nat) : State := s.wrI fn i (v.2 + 1) (BitVec.ofNat 64 v.1)

theorem putSnapshot_eq (s : State) (fn i : Nat) (x : StatSet) :
    s.putSnapshot fn i x = (statFields x).zipIdx.foldl (putField fn i) s := rfl

theorem rdI_putField_other (fn i : Nat) (s : State) {v j n : Nat} (h : j ≠ n) :
    (putField fn i s (v, n)).rdI fn i (j + 1) = s.rdI fn i (j + 1) :=
  rdI_wrI_other s _ (by simp only [odKey]; omega)

/-- Fields numbered from `n` on are read back where they were written; below `n` and past the last of them nothing changed. -/
theorem rdI_foldl_putField (fn i j : Nat) (l : List Nat) (s : State) (n : Nat) :
    ((l.zipIdx n).foldl (putField fn i) s).rdI fn i (j + 1) =
      if n ≤ j ∧ j < n + l.length then BitVec.ofNat 64 ((l[j - n]?).getD 0) else s.rdI fn i (j + 1) := by
  induction l generalizing s n with
  | nil => exact (if_neg (by simp)).symm
  | cons v l ih =>
    rw [List.zipIdx_cons, List.foldl_cons, ih]
    obtain hj | rfl | hj := Nat.lt_trichotomy j n
    · rw [if_neg (by omega), if_neg (by omega), rdI_putField_other _ _ _ (Nat.ne_of_lt hj)]
    · rw [if_neg (by omega), if_pos (by simp), Nat.sub_self]
      exact rdI_wrI_same s _ _ _ _
    · have hsub : j - n = (j - (n + 1)) + 1 := by omega
      rw [rdI_putField_other _ _ _ (Nat.ne_of_gt hj), hsub, List.getElem?_cons_succ, List.length_cons]
      exact ite_congr (propext (by omega)) (fun _ => rfl) (fun _ => rfl)

theorem rdI_putSnapshot (s : State) (fn i : Nat) (x : StatSet) {j : Nat} (hj : j < 8) :
    (s.putSnapshot fn i x).rdI fn i (j + 1) = BitVec.ofNat 64 (((statFields x)[j]?).getD 0) := by
  rw [putSnapshot_eq, rdI_foldl_putField]
  exact if_pos ⟨Nat.zero_le j, by simpa [statFields] using hj⟩

@[simp] theorem putSnapshot_stats (s : State) (fn i : Nat) (x : StatSet) : (s.putSnapshot fn i x).stats = s.stats :=
  foldl_keeps State.stats (fun t _ => wrI_stats t _ _ _ _) _ s

@[simp] theorem putSnapshot_streams (s : State) (fn i : Nat) (x : StatSet) : (s.putSnapshot fn i x).streams = s.streams :=
  foldl_keeps State.streams (fun t _ => wrI_streams t _ _ _ _) _ s

theorem statSet_setStat (s : State) (n m : Nat) (x : StatSet) : (s.setStat n x).statSet m = if m = n then x else s.statSet m := by
  simp only [setStat, statSet]
  split
  · next h => rw [h]; exact NMap.get_set_same _ _ _ _
  · next h => exact NMap.get_set_other _ _ _ h

/-- SNAPSHOT: the selected set stands in `3601` and the device time in `3600:03` (R86). -/
def statCopied (s : State) (fn : Iface) : State :=
  (s.putSnapshot (ifaceNo fn) 0x3601 (((s.statSelected fn).map s.statSet).getD StatSet.none)).wrI (ifaceNo fn) 0x3600 3
    (BitVec.ofNat 64 s.time)

/-- CLEAR: the selected set, where one is selected, is zero (R86). -/
def statCleared (s : State) (sel : Option Nat) : State := sel.elim s fun n => s.setStat n StatSet.none

/-- SNAPSHOT of the selected stream's record into `5401` (R178). -/
def streamCopied (s : State) (fn : Iface) : State :=
  s.putSnapshot (ifaceNo fn) 0x5401 (((s.streamSelected fn).map fun n => (s.stream n).stats).getD StatSet.none)

/-- CLEAR of the selected stream's record, where a stream is selected (R178). -/
def streamCleared (s : State) (sel : Option Nat) : State :=
  sel.elim s fun n => s.updStream n fun x => { x with stats := StatSet.none }

theorem statCommand_snapshot (s : State) (fn : Iface) : s.statCommand fn 1 = s.statCopied fn := by
  simp only [statCommand, statCopied]
  cases s.statSelected fn <;> simp

theorem statCommand_snapshotClear (s : State) (fn : Iface) :
    s.statCommand fn 2 = (s.statCopied fn).statCleared (s.statSelected fn) := by
  simp only [statCommand, statCopied, statCleared]
  cases s.statSelected fn <;> simp

theorem statCommand_clear (s : State) (fn : Iface) : s.statCommand fn 3 = s.statCleared (s.statSelected fn) := by
  simp only [statCommand, statCleared]
  cases s.statSelected fn <;> simp

theorem streamStatCommand_snapshot (s : State) (fn : Iface) : s.streamStatCommand fn 1 = s.streamCopied fn := by
  simp only [streamStatCommand, streamCopied]
  cases s.streamSelected fn <;> simp

theorem streamStatCommand_snapshotClear (s : State) (fn : Iface) :
    s.streamStatCommand fn 2 = (s.streamCopied fn).streamCleared (s.streamSelected fn) := by
  simp only [streamStatCommand, streamCopied, streamCleared]
  cases s.streamSelected fn <;> simp

theorem streamStatCommand_clear (s : State) (fn : Iface) : s.streamStatCommand fn 3 = s.streamCleared (s.streamSelected fn) := by
  simp only [streamStatCommand, streamCleared]
  cases s.streamSelected fn <;> simp

theorem statCopied_rdI (s : State) (fn : Iface) {j : Nat} (hj : j < 8) :
    (s.statCopied fn).rdI (ifaceNo fn) 0x3601 (j + 1) =
      BitVec.ofNat 64 (((statFields (((s.statSelected fn).map s.statSet).getD StatSet.none))[j]?).getD 0) :=
  (rdI_wrI_other _ _ (by simp only [odKey]; omega)).trans (rdI_putSnapshot _ _ _ _ hj)

theorem statCopied_time (s : State) (fn : Iface) : (s.statCopied fn).rdI (ifaceNo fn) 0x3600 3 = BitVec.ofNat 64 s.time :=
  rdI_wrI_same _ _ _ _ _

@[simp] theorem statCopied_stats (s : State) (fn : Iface) : (s.statCopied fn).stats = s.stats := by simp [statCopied]

@[simp] theorem statCopied_streams (s : State) (fn : Iface) : (s.statCopied fn).streams = s.streams := by simp [statCopied]

theorem statCopied_statSet (s : State) (fn : Iface) (m : Nat) : (s.statCopied fn).statSet m = s.statSet m := by simp [statSet]

/-- A clear moves neither the dictionary nor the streams. -/
theorem statCleared_frame (s : State) (sel : Option Nat) : (s.statCleared sel).od = s.od ∧ (s.statCleared sel).streams = s.streams := by
  cases sel <;> exact ⟨rfl, rfl⟩

theorem statCleared_statSet (s : State) (sel : Option Nat) (m : Nat) :
    (s.statCleared sel).statSet m = if sel = some m then StatSet.none else s.statSet m := by
  cases sel with
  | none => rfl
  | some n => exact (statSet_setStat s n m _).trans (ite_congr (by simp [eq_comm]) (fun _ => rfl) (fun _ => rfl))

theorem streamCopied_stream (s : State) (fn : Iface) (m : Nat) : (s.streamCopied fn).stream m = s.stream m := by
  simp [stream, streamCopied]

/-- A clear of a stream's record moves neither the dictionary nor the statistics sets. -/
theorem streamCleared_frame (s : State) (sel : Option Nat) : (s.streamCleared sel).od = s.od ∧ (s.streamCleared sel).stats = s.stats := by
  cases sel <;> exact ⟨rfl, rfl⟩

theorem streamCleared_stream (s : State) (sel : Option Nat) (m : Nat) :
    (s.streamCleared sel).stream m = if sel = some m then { s.stream m with stats := StatSet.none } else s.stream m := by
  cases sel with
  | none => rfl
  | some n =>
    rw [streamCleared, Option.elim_some, stream_updStream]
    by_cases h : m = n
    · subst h; simp
    · simp [h, Ne.symm h]

end Sys2Proof.Machine.State

namespace Sys2Proof

open Sys2Proof.Machine

theorem command_stat (s : State) (fn : Iface) (v t : Nat) : s.command fn 0x3600 2 v t = (s.statCommand fn v, .done) := by
  simp [State.command]

theorem command_streamStat (s : State) (fn : Iface) (v t : Nat) :
    s.command fn 0x5400 2 v t = (s.streamStatCommand fn v, .done) := by
  simp [State.command]

/-- A write of StatCommand that reaches its entry acts by its low byte (R86, R413). -/
theorem put_statCommand {s : State} {fn : Iface} (h : Reaches s fn 0x3600 2) (v : W64) :
    s.put fn 0x3600 2 v = answered fn (s.statCommand fn (v &&& BitVec.ofNat 64 0xFF).toNat) :=
  put_reaches h ((writeEntry_command rfl (by decide) rfl).trans (command_stat _ _ _ _))

/-- A write of StreamStatCommand that reaches its entry acts by its low byte (R178, R413). -/
theorem put_streamStatCommand {s : State} {fn : Iface} (h : Reaches s fn 0x5400 2) (v : W64) :
    s.put fn 0x5400 2 v = answered fn (s.streamStatCommand fn (v &&& BitVec.ofNat 64 0xFF).toNat) :=
  put_reaches h ((writeEntry_command rfl (by decide) rfl).trans (command_streamStat _ _ _ _))

theorem statSnapshot_leaves {s : State} {fn : Iface} (h : Reaches s fn 0x3600 2) :
    Sys2Proof.Machine.exec (.statSnapshot fn) s = .next (answered fn (s.statCopied fn)) := by
  rw [← State.statCommand_snapshot]
  exact congrArg Host.Outcome.next (put_statCommand h 1)

theorem statSnapshotClear_leaves {s : State} {fn : Iface} (h : Reaches s fn 0x3600 2) :
    Sys2Proof.Machine.exec (.statSnapshotClear fn) s = .next (answered fn ((s.statCopied fn).statCleared (s.statSelected fn))) := by
  rw [← State.statCommand_snapshotClear]
  exact congrArg Host.Outcome.next (put_statCommand h 2)

theorem statClear_leaves {s : State} {fn : Iface} (h : Reaches s fn 0x3600 2) :
    Sys2Proof.Machine.exec (.statClear fn) s = .next (answered fn (s.statCleared (s.statSelected fn))) := by
  rw [← State.statCommand_clear]
  exact congrArg Host.Outcome.next (put_statCommand h 3)

theorem streamStatSnapshot_leaves {s : State} {fn : Iface} (h : Reaches s fn 0x5400 2) :
    Sys2Proof.Machine.exec (.streamStatSnapshot fn) s = .next (answered fn (s.streamCopied fn)) := by
  rw [← State.streamStatCommand_snapshot]
  exact congrArg Host.Outcome.next (put_streamStatCommand h 1)

theorem streamStatSnapshotClear_leaves {s : State} {fn : Iface} (h : Reaches s fn 0x5400 2) :
    Sys2Proof.Machine.exec (.streamStatSnapshotClear fn) s =
      .next (answered fn ((s.streamCopied fn).streamCleared (s.streamSelected fn))) := by
  rw [← State.streamStatCommand_snapshotClear]
  exact congrArg Host.Outcome.next (put_streamStatCommand h 2)

theorem streamStatClear_leaves {s : State} {fn : Iface} (h : Reaches s fn 0x5400 2) :
    Sys2Proof.Machine.exec (.streamStatClear fn) s = .next (answered fn (s.streamCleared (s.streamSelected fn))) := by
  rw [← State.streamStatCommand_clear]
  exact congrArg Host.Outcome.next (put_streamStatCommand h 3)

/-- Settles O15: a command copies, clears, or copies and then clears, and a clear leaves the copied entries. -/
theorem statistics : Obligations.Statistics := by
  unfold Obligations.Statistics
  refine ⟨fun s fn h => ⟨⟨_, statSnapshot_leaves h, ?copy⟩, ⟨_, statSnapshotClear_leaves h, ?copyClear⟩,
      ⟨_, statClear_leaves h, ?clear⟩⟩,
    fun s fn h => ⟨⟨_, streamStatSnapshot_leaves h, ?streamCopy⟩, ⟨_, streamStatSnapshotClear_leaves h, ?streamCopyClear⟩,
      ⟨_, streamStatClear_leaves h, ?streamClear⟩⟩⟩
  case copy =>
    exact ⟨⟨fun j hj => State.statCopied_rdI s fn hj, State.statCopied_time s fn⟩, State.statCopied_stats s fn,
      State.statCopied_streams s fn⟩
  case copyClear =>
    obtain ⟨hod, hstreams⟩ := State.statCleared_frame (s.statCopied fn) (s.statSelected fn)
    refine ⟨⟨fun j hj => ?_, ?_⟩, fun m => ?_, hstreams.trans (State.statCopied_streams s fn)⟩
    · exact (State.rdI_congr hod _ _ _).trans (State.statCopied_rdI s fn hj)
    · exact (State.rdI_congr hod _ _ _).trans (State.statCopied_time s fn)
    · rw [State.statCleared_statSet, State.statCopied_statSet]
  case clear =>
    exact ⟨State.statCleared_statSet s _, State.statCleared_frame s _⟩
  case streamCopy =>
    exact ⟨fun j hj => State.rdI_putSnapshot _ _ _ _ hj, State.putSnapshot_streams _ _ _ _, State.putSnapshot_stats _ _ _ _⟩
  case streamCopyClear =>
    obtain ⟨hod, hstats⟩ := State.streamCleared_frame (s.streamCopied fn) (s.streamSelected fn)
    refine ⟨fun j hj => ?_, fun m => ?_, hstats.trans (State.putSnapshot_stats _ _ _ _)⟩
    · exact (State.rdI_congr hod _ _ _).trans (State.rdI_putSnapshot _ _ _ _ hj)
    · rw [State.streamCleared_stream, State.streamCopied_stream]
  case streamClear =>
    exact ⟨State.streamCleared_stream s _, State.streamCleared_frame s _⟩

end Sys2Proof

/-! SUPPORT. Bonded memory byte by byte: what a store, the release of a merge entry and a privileged write leave (R98 to R101, R115). -/

namespace Sys2Proof.Machine.State

/-- Bytes laid from key `a` on leave the other keys alone. -/
theorem get_putBytes_other (d : Nat → Byte) (m : NMap Byte) {a k : Nat} (bs : List Byte) (h : k < a ∨ a + bs.length ≤ k) :
    NMap.get d (putBytes d m a bs) k = NMap.get d m k := by
  induction bs generalizing m a with
  | nil => rfl
  | cons b bs ih =>
    rw [List.length_cons] at h
    rw [putBytes, ih _ (by omega), NMap.get_set_other _ _ _ (by omega)]

theorem get_putBytes_at (d : Nat → Byte) (m : NMap Byte) (a : Nat) {i : Nat} (bs : List Byte) (h : i < bs.length) :
    NMap.get d (putBytes d m a bs) (a + i) = bs[i] := by
  induction bs generalizing m a i with
  | nil => cases h
  | cons b bs ih =>
    rw [putBytes]
    cases i with
    | zero => exact (get_putBytes_other _ _ _ (.inl (Nat.lt_succ_self a))).trans (NMap.get_set_same _ _ _ _)
    | succ i =>
      rw [show a + (i + 1) = a + 1 + i by omega]
      exact ih _ _ (Nat.lt_of_succ_lt_succ h)

theorem bytesAt_getElem? (d : Nat → Byte) (m : NMap Byte) (a : Nat) {n i : Nat} (h : i < n) :
    (bytesAt d m a n)[i]? = some (NMap.get d m (a + i)) := by
  induction n generalizing a i with
  | zero => omega
  | succ n ih =>
    cases i with
    | zero => rfl
    | succ i =>
      rw [bytesAt, List.getElem?_cons_succ, ih _ (Nat.lt_of_succ_lt_succ h), show a + 1 + i = a + (i + 1) by omega]

theorem mergeLine_length (e : MergeEntry) (old : List Byte) : (mergeLine e old).length = 64 := by simp [mergeLine]

theorem mergeLine_getElem (e : MergeEntry) (old : List Byte) {i : Nat} (h : i < (mergeLine e old).length) :
    (mergeLine e old)[i] = if e.mask.getLsbD i then e.data.extractLsb' (8 * i) 8 else (old[i]?).getD 0 := by simp [mergeLine]

/-- A state without the bytes of bonded memory, their poison and the merge buffers: two states agree in it where they differ in these alone. -/
def unbonded (s : State) : State := { s with mem := { s.mem with bonded := [], poisonBonded := [], merge := [] } }

theorem bondedStore_unbonded (s : State) (c o : Nat) (bs : List Byte) : (s.bondedStore c o bs).unbonded = s.unbonded := by
  unfold bondedStore
  dsimp only
  split
  · rfl
  · split <;> rfl

theorem releaseLine_unbonded (s : State) (c l : Nat) : (s.releaseLine c l).unbonded = s.unbonded := by
  unfold releaseLine
  split
  · rfl
  · dsimp only
    split
    · rfl
    · exact bondedStore_unbonded _ _ _ _

theorem privWriteLine_unbonded (s : State) (c o : Nat) (bs : List Byte) : (s.privWriteLine c o bs).unbonded = s.unbonded :=
  (bondedStore_unbonded _ _ _ _).trans (releaseLine_unbonded _ _ _)

theorem privWriteN_unbonded (c k o : Nat) (bs : List Byte) (s : State) : (privWriteN c k o bs s).unbonded = s.unbonded := by
  induction k generalizing o bs s with
  | zero => rfl
  | succ k ih =>
    unfold privWriteN
    split
    · rfl
    · exact (ih _ _ _).trans (privWriteLine_unbonded _ _ _ _)

/-! ### Poison: a store ends that of a line that it covers whole, and brings none -/

theorem linePoisoned_setPoison_false {s : State} {c l k n : Nat} (h : s.linePoisoned k n = false) :
    (s.setPoison c l false).linePoisoned k n = false := by
  have hget : (s.setPoison c l false).linePoisoned k n =
      NMap.get (fun _ => false) (NMap.set (fun _ => false) s.mem.poisonBonded (lineKey c l) false) (lineKey k n) := rfl
  rw [hget]
  by_cases hk : lineKey k n = lineKey c l
  · rw [hk, NMap.get_set_same]
  · rw [NMap.get_set_other _ _ _ hk]
    exact h

theorem bondedStore_sound {s : State} {c o k n : Nat} {bs : List Byte} (h : s.linePoisoned k n = false) :
    (s.bondedStore c o bs).linePoisoned k n = false := by
  unfold bondedStore
  dsimp only
  split
  · exact linePoisoned_setPoison_false h
  · split <;> exact h

theorem releaseLine_sound {s : State} {c l k n : Nat} (h : s.linePoisoned k n = false) :
    (s.releaseLine c l).linePoisoned k n = false := by
  unfold releaseLine
  split
  · exact h
  · dsimp only
    split
    · exact h
    · exact bondedStore_sound h

theorem privWriteLine_sound {s : State} {c o k n : Nat} {bs : List Byte} (h : s.linePoisoned k n = false) :
    (s.privWriteLine c o bs).linePoisoned k n = false := bondedStore_sound (releaseLine_sound h)

/-! ### Merge entries -/

/-- The merge buffers without the entry of line `l` of channel `c`. -/
def dropMerge (s : State) (c l : Nat) : State :=
  s.updMem fun m => { m with merge := m.merge.filter fun x => x.channel ≠ c || x.line ≠ l }

theorem mergeOf_dropMerge (s : State) (c l k n : Nat) :
    (s.dropMerge c l).mergeOf k n = if k = c ∧ n = l then none else s.mergeOf k n := by
  have h : (s.dropMerge c l).mergeOf k n = (s.mem.merge.filter fun x => x.channel ≠ c || x.line ≠ l).find? fun e => e.channel = k && e.line = n := rfl
  rw [h, List.find?_filter]
  split
  · next hk =>
    obtain ⟨rfl, rfl⟩ := hk
    refine List.find?_eq_none.2 fun e _ => ?_
    simp only [Bool.and_eq_true, Bool.or_eq_true, decide_eq_true_eq]
    rintro ⟨hkept, hchannel, hline⟩
    exact hkept.elim (fun hne => hne hchannel) (fun hne => hne hline)
  · next hk =>
    refine congrArg (fun f => List.find? f s.mem.merge) (funext fun e => ?_)
    rw [Bool.eq_iff_iff]
    simp only [decide_eq_true_eq, Bool.and_eq_true, Bool.or_eq_true]
    refine ⟨And.right, ?_⟩
    rintro ⟨rfl, rfl⟩
    exact ⟨Decidable.not_and_iff_or_not.1 hk, rfl, rfl⟩

theorem bondedRaw_dropMerge (s : State) (c l a : Nat) : (s.dropMerge c l).bondedRaw a = s.bondedRaw a := by
  have hb : (s.dropMerge c l).mem.bondedBase = s.mem.bondedBase := Mem.bondedBase_congr rfl
  rw [bondedRaw, hb]
  rfl

theorem mergeOf_bondedStore (s : State) (c o : Nat) (bs : List Byte) (k n : Nat) : (s.bondedStore c o bs).mergeOf k n = s.mergeOf k n := by
  unfold bondedStore
  dsimp only
  split
  · rfl
  · split <;> rfl

theorem releaseLine_of_none {s : State} {c l : Nat} (h : s.mergeOf c l = none) : s.releaseLine c l = s := by rw [releaseLine, h]

/-- The entry of a line without poison goes into the line (R100). -/
theorem releaseLine_of_some {s : State} {c l : Nat} {e : MergeEntry} (h : s.mergeOf c l = some e) (hp : s.linePoisoned c l = false) :
    s.releaseLine c l = (s.dropMerge c l).bondedStore c (64 * l)
      (mergeLine e (bytesAt s.mem.bondedBase s.mem.bonded (bkey c (64 * l)) 64)) := by
  have hp' : (s.dropMerge c l).linePoisoned c l = false := hp
  unfold dropMerge at hp'
  unfold releaseLine dropMerge
  rw [h]
  dsimp only
  rw [hp', Bool.false_and]
  rfl

theorem mergeOf_releaseLine {s : State} {c l : Nat} (hp : s.linePoisoned c l = false) : (s.releaseLine c l).mergeOf c l = none := by
  cases h : s.mergeOf c l with
  | none => rw [releaseLine_of_none h, h]
  | some e => rw [releaseLine_of_some h hp, mergeOf_bondedStore, mergeOf_dropMerge, if_pos ⟨rfl, rfl⟩]

/-! ### Bytes as reads return them -/

/-- From `s` to `t` bytes were written in channel `c` from offset `o` on: they read back, and every other byte of bonded memory reads as before. -/
def Written (c o : Nat) (bs : List Byte) (s t : State) : Prop :=
  (∀ i (h : i < bs.length), t.bondedByte c (o + i) = bs[i]) ∧
  ∀ k a, a < 0x8000000 → (k = c → a < o ∨ o + bs.length ≤ a) → t.bondedByte k a = s.bondedByte k a

theorem Written.nil (c o : Nat) (s : State) : Written c o [] s s := ⟨fun _ h => absurd h (Nat.not_lt_zero _), fun _ _ _ _ => rfl⟩

theorem Written.congr_left {c o : Nat} {bs : List Byte} {s s' t : State} (h : Written c o bs s' t)
    (hs : ∀ k a, a < 0x8000000 → s'.bondedByte k a = s.bondedByte k a) : Written c o bs s t :=
  ⟨h.1, fun k a ha hk => (h.2 k a ha hk).trans (hs k a ha)⟩

/-- A write of the first `n` bytes and one of the rest write all. -/
theorem Written.take_drop {c o n : Nat} {bs : List Byte} {s t u : State} (h : Written c o (bs.take n) s t)
    (h' : Written c (o + n) (bs.drop n) t u) (hn : n ≤ bs.length) (ho : o + bs.length ≤ 0x8000000) : Written c o bs s u := by
  obtain ⟨hin, hout⟩ := h
  obtain ⟨hin', hout'⟩ := h'
  rw [List.length_take_of_le hn] at hout
  rw [List.length_drop] at hout'
  refine ⟨fun i hi => ?_, fun k a ha hk => ?_⟩
  · by_cases hx : i < n
    · rw [hout' c (o + i) (by omega) (fun _ => by omega), hin i (by rw [List.length_take_of_le hn]; exact hx), List.getElem_take]
    · have hb := hin' (i - n) (by rw [List.length_drop]; omega)
      simpa only [List.getElem_drop, Nat.add_assoc, Nat.add_sub_cancel' (Nat.le_of_not_lt hx)] using hb
  · rw [hout' k a ha (by omega), hout k a ha (by omega)]

theorem bkey_add (c o i : Nat) : bkey c (o + i) = bkey c o + i := (Nat.add_assoc _ _ _).symm

theorem bondedByte_of_none {s : State} {c o : Nat} (h : s.mergeOf c (o / 64) = none) : s.bondedByte c o = s.bondedRaw (bkey c o) := by
  rw [bondedByte, h]

theorem bondedByte_of_some {s : State} {c o : Nat} {e : MergeEntry} (h : s.mergeOf c (o / 64) = some e) :
    s.bondedByte c o = if e.mask.getLsbD (o % 64) then e.data.extractLsb' (8 * (o % 64)) 8 else s.bondedRaw (bkey c o) := by
  rw [bondedByte, h]

theorem bondedByte_congr {s t : State} {c o : Nat} (hm : t.mergeOf c (o / 64) = s.mergeOf c (o / 64))
    (hr : t.bondedRaw (bkey c o) = s.bondedRaw (bkey c o)) : t.bondedByte c o = s.bondedByte c o := by
  rw [bondedByte, hm, hr, bondedByte]

theorem bondedRaw_bondedStore {s : State} {c o : Nat} (bs : List Byte) (hp : s.linePoisoned c (o / 64) = false) (a : Nat) :
    (s.bondedStore c o bs).bondedRaw a = NMap.get s.mem.bondedBase (putBytes s.mem.bondedBase s.mem.bonded (bkey c o) bs) a := by
  unfold bondedStore
  dsimp only
  split
  · rfl
  · rw [hp]; rfl

/-- A store within a line that has neither poison nor a merge entry. -/
theorem bondedStore_written {s : State} {c o : Nat} {bs : List Byte} (hp : s.linePoisoned c (o / 64) = false)
    (hm : s.mergeOf c (o / 64) = none) (hl : o % 64 + bs.length ≤ 64) (ho : o + bs.length ≤ 0x8000000) : Written c o bs s (s.bondedStore c o bs) := by
  refine ⟨fun i hi => ?_, fun k a ha hk => ?_⟩
  · have hline : (o + i) / 64 = o / 64 := by omega
    rw [bondedByte_of_none (by rw [mergeOf_bondedStore, hline, hm]), bondedRaw_bondedStore bs hp, bkey_add]
    exact get_putBytes_at _ _ _ _ hi
  · refine bondedByte_congr (mergeOf_bondedStore ..) ?_
    rw [bondedRaw_bondedStore bs hp]
    exact get_putBytes_other _ _ _ (by unfold bkey; omega)

/-- The release of a merge entry moves no byte: a read returned the entry's bytes before (R98, R100). -/
theorem releaseLine_bondedByte {s : State} {c l : Nat} (hp : s.linePoisoned c l = false) (hl : l < 0x200000) (k a : Nat) (ha : a < 0x8000000) :
    (s.releaseLine c l).bondedByte k a = s.bondedByte k a := by
  cases h : s.mergeOf c l with
  | none => rw [releaseLine_of_none h]
  | some e =>
    have hline : 64 * l / 64 = l := by omega
    have hw := bondedStore_written (s := s.dropMerge c l) (c := c) (o := 64 * l)
      (bs := mergeLine e (bytesAt s.mem.bondedBase s.mem.bonded (bkey c (64 * l)) 64))
      (by rw [hline]; exact hp) (by rw [hline, mergeOf_dropMerge, if_pos ⟨rfl, rfl⟩]) (by rw [mergeLine_length]; omega) (by rw [mergeLine_length]; omega)
    rw [← releaseLine_of_some h hp] at hw
    obtain ⟨hin, hout⟩ := hw
    rw [mergeLine_length] at hout
    by_cases hk : k = c ∧ a / 64 = l
    · obtain ⟨rfl, rfl⟩ := hk
      have hmod : a % 64 < 64 := Nat.mod_lt _ (by decide)
      have hsplit : 64 * (a / 64) + a % 64 = a := Nat.div_add_mod a 64
      have hbyte := hin (a % 64) (by rw [mergeLine_length]; exact hmod)
      rw [hsplit, mergeLine_getElem, bytesAt_getElem? _ _ _ hmod] at hbyte
      rw [hbyte, bondedByte_of_some h, ← bkey_add, hsplit, Option.getD_some, bondedRaw]
    · rw [hout k a ha (by omega)]
      exact bondedByte_congr ((mergeOf_dropMerge ..).trans (if_neg hk)) (bondedRaw_dropMerge ..)

/-- A privileged write within a line without poison (R101). -/
theorem privWriteLine_written {s : State} {c o : Nat} {bs : List Byte} (hp : s.linePoisoned c (o / 64) = false)
    (hl : o % 64 + bs.length ≤ 64) (ho : o < 0x8000000) : Written c o bs s (s.privWriteLine c o bs) :=
  (bondedStore_written (releaseLine_sound hp) (mergeOf_releaseLine hp) hl (by omega)).congr_left (releaseLine_bondedByte hp (by omega))

theorem privWriteN_nil (c k o : Nat) (s : State) : privWriteN c k o [] s = s := by cases k <;> rfl

theorem privWriteN_written {c k o : Nat} {bs : List Byte} {s : State} (hk : o % 64 + bs.length < 64 * k)
    (ho : o + bs.length ≤ 0x8000000) (hp : ∀ i < bs.length, s.linePoisoned c ((o + i) / 64) = false) :
    Written c o bs s (privWriteN c k o bs s) := by
  induction k generalizing o bs s with
  | zero => omega
  | succ k ih =>
    cases bs with
    | nil => exact Written.nil c o s
    | cons b bs' =>
      generalize hbs : b :: bs' = bs at *
      have hpos : 0 < bs.length := by rw [← hbs]; exact Nat.succ_pos _
      have hfirst : s.linePoisoned c (o / 64) = false := hp 0 hpos
      have hne : ¬ bs.isEmpty = true := by rw [← hbs]; exact Bool.false_ne_true
      rw [privWriteN, if_neg hne]
      dsimp only
      by_cases hfit : bs.length ≤ 64 - o % 64
      · rw [List.take_of_length_le hfit, List.drop_of_length_le hfit, privWriteN_nil]
        exact privWriteLine_written hfirst (by omega) (by omega)
      · have hn : 64 - o % 64 ≤ bs.length := Nat.le_of_lt (Nat.lt_of_not_le hfit)
        have hdrop : (bs.drop (64 - o % 64)).length = bs.length - (64 - o % 64) := List.length_drop
        refine (privWriteLine_written hfirst ?_ (by omega)).take_drop (ih ?_ ?_ fun i hi => privWriteLine_sound ?_) hn ho
        · rw [List.length_take_of_le hn]; omega
        · omega
        · omega
        · rw [Nat.add_assoc]
          exact hp _ (by omega)

/-- What a privileged write to lines without poison leaves (R101). -/
theorem privWrite_written {s : State} {c o : Nat} {bs : List Byte} (ho : o + bs.length ≤ 0x8000000)
    (hp : ∀ i < bs.length, s.linePoisoned c ((o + i) / 64) = false) : Written c o bs s (s.privWrite c o bs) :=
  privWriteN_written (by omega) ho hp

theorem privWrite_unbonded (s : State) (c o : Nat) (bs : List Byte) : (s.privWrite c o bs).unbonded = s.unbonded :=
  privWriteN_unbonded _ _ _ _ _

/-- States that agree beside bonded memory agree beside the memories, and in the other memories. -/
theorem unbonded_fields {s t : State} (h : t.unbonded = s.unbonded) :
    { t with mem := s.mem } = s ∧ t.mem.tile = s.mem.tile ∧ t.mem.state = s.mem.state ∧ t.mem.host = s.mem.host ∧ t.od = s.od :=
  ⟨congrArg (fun u => { u with mem := s.mem }) h, congrArg (fun u => u.mem.tile) h, congrArg (fun u => u.mem.state) h,
    congrArg (fun u => u.mem.host) h, (congrArg State.od h :)⟩

end Sys2Proof.Machine.State

/-! SUPPORT. Patrol scrub, soft row repair and the end of a re-test: what each leaves (R118 to R120, Table 13-5). -/

namespace Sys2Proof.Machine

/-- A row as the repair records number it (R119). -/
def SoftRepair.key (r : SoftRepair) : Nat := r.channel * 16 + r.bank + 4096 * r.row

namespace State

/-- A channel that is being cleared is not scrubbed. -/
theorem scrub_clearing {s : State} {c : Nat} (h : s.clearingChannel c = true) (errs : List (ErrKind × Nat)) : s.scrub c errs = s := by
  rw [scrub, h, Bool.or_true, if_pos rfl]

/-- What a scrub of channel `c` does about an error that it met (R118). -/
def scrubErr (c : Nat) (s : State) (e : ErrKind × Nat) : State :=
  let t := (s.channelErr c e.2 e.1 true).1
  if e.1 = .uncorrectable then t.raise 0x4001 3 else t

/-- A pass handles the errors that it met, and leaves its time (R118). -/
theorem scrub_passes {s : State} {c : Nat} (ha : s.alive = true) (hp : s.channelPowered c = true) (hc : s.clearingChannel c = false)
    (errs : List (ErrKind × Nat)) :
    s.scrub c errs = (errs.foldl (scrubErr c) s).wrObj 0x4130 c (errs.foldl (scrubErr c) s).time := by
  rw [scrub, ha, hp, hc]; rfl

/-- A scrub that met one corrected error counts it (R113, R118, R119). -/
theorem scrub_corrected {s : State} {c : Nat} (ha : s.alive = true) (hp : s.channelPowered c = true) (hc : s.clearingChannel c = false)
    (o : Nat) : s.scrub c [(.corrected, o)] =
      (((s.bumpObj32 0x4110 c 1).bump64 0x9003 4 1).rowCorrected c o).wrObj 0x4130 c s.time := by
  rw [scrub_passes ha hp hc]; rfl

/-! ### Soft row repair -/

/-- The repairs that a bank of a channel has had. -/
def bankRepairs (s : State) (c bank : Nat) : List SoftRepair := s.persist.repairs.filter fun x => x.channel = c && x.bank = bank

/-- A soft spare row has taken row `r`, whose uncorrectable errors its channel no longer counts (R119, R120). -/
def rowRepaired (s : State) (r : SoftRepair) : State :=
  ({ s with persist := { s.persist with repairs := s.persist.repairs ++ [r] } }.raise 0x4001 5).updFaults fun f =>
    { f with
      channelUe := NMap.set (fun _ => []) f.channelUe r.channel
        ((NMap.get (fun _ => []) s.faults.rowUe r.key).foldl List.erase (NMap.get (fun _ => []) s.faults.channelUe r.channel))
      rowCe := NMap.set (fun _ => []) f.rowCe r.key []
      rowUe := NMap.set (fun _ => []) f.rowUe r.key [] }

/-- With soft repair on, a row that has not been repaired is repaired when it needs it and its bank has a spare row left (R119). -/
theorem repairRow_eq {s : State} {r : SoftRepair} (ha : s.alive = true) (hon : s.rdn 0x4002 3 = 1)
    (hp : s.channelPowered r.channel = true) (hr : r ∉ s.persist.repairs) : s.repairRow r.channel r.bank r.row =
      if s.rowBad r.key = false then s
      else if 4 ≤ (s.bankRepairs r.channel r.bank).length then s.raise 0x4001 6 else s.rowRepaired r := by
  have hc : s.persist.repairs.contains r = false := by simpa using hr
  unfold repairRow
  simp only [ha, hon, hp, hc, Bool.not_true, ne_eq, not_true_eq_false, decide_false, Bool.or_false, Bool.false_or, Bool.not_eq_true']
  rfl

theorem rowRepaired_facts (s : State) (r : SoftRepair) :
    (s.rowRepaired r).persist = { s.persist with repairs := s.persist.repairs ++ [r] } ∧
    (s.rowRepaired r).od = (s.raise 0x4001 5).od ∧
    NMap.get (fun _ => []) (s.rowRepaired r).faults.channelUe r.channel =
      (NMap.get (fun _ => []) s.faults.rowUe r.key).foldl List.erase (NMap.get (fun _ => []) s.faults.channelUe r.channel) ∧
    NMap.get (fun _ => []) (s.rowRepaired r).faults.rowUe r.key = [] ∧
    { s.rowRepaired r with persist := s.persist, od := s.od, faults := s.faults } = s :=
  ⟨rfl, rfl, NMap.get_set_same _ _ _ _, NMap.get_set_same (fun _ => []) s.faults.rowUe r.key [], rfl⟩

/-- A soft repair takes no byte away: the spare row takes the row's bytes and poison (R119). -/
theorem repairRow_mem (s : State) (c bank row : Nat) : (s.repairRow c bank row).mem = s.mem := by
  unfold repairRow
  dsimp only
  split
  · rfl
  · split <;> rfl

theorem wf_repairRow {s : State} (c bank row : Nat) (h : s.mem.wf) : (s.repairRow c bank row).mem.wf := by
  rw [repairRow_mem]
  exact h

/-- A re-test that passes brings the channel back with nothing of what it held; one that fails leaves the memories (Table 13-5). -/
theorem wf_retestDone {s : State} (c : Nat) (passed : Bool) (h : s.mem.wf) : (s.retestDone c passed).mem.wf := by
  unfold retestDone
  split
  · exact h
  · cases passed with
    | false => exact h
    | true => exact wf_loseUnits (s := s.updFaults fun f => { f with retest := f.retest.filter (· ≠ c) }) (fun u => u = c) h

end State
end Sys2Proof.Machine

namespace Sys2Proof

open Sys2Proof.Machine

/-- A write by the host or a control processor that lies in the channel, outside the frames of its owner, is carried out whole (R101, R194). -/
theorem barMemoryWrite_whole {s : State} {c : Fin 256} {o : Nat} {bs : List Byte} (h : s.alive = true) (ho : o + bs.length ≤ 0x8000000)
    (hf : ∀ i < bs.length, s.inFrames c.val (o + i) = false) :
    Sys2Proof.Machine.exec (.barMemoryWrite c o bs) s = .next (s.privWrite c.val o bs) := by
  have hout : ∀ x ∈ bs.zipIdx, (!s.inFrames c.val (o + x.2)) = true := by
    intro x hx
    have hi := List.snd_lt_of_mem_zipIdx hx
    rw [hf x.2 (by omega), Bool.not_false]
  have hall : (bs.zipIdx.takeWhile fun (x : Byte × Nat) => !s.inFrames c.val (o + x.2)) = bs.zipIdx := by
    have happend := List.takeWhile_append_of_pos (l₂ := []) hout
    rwa [List.append_nil, List.takeWhile_nil, List.append_nil] at happend
  show execBarMemoryWrite c o bs s = _
  unfold execBarMemoryWrite
  rw [List.take_of_length_le (by omega), hall]
  dsimp only
  rw [List.zipIdx_map_fst, if_pos h]

theorem mergeEntryTimeout_alive {s : State} (h : s.alive = true) (c : Fin 256) (l : Nat) :
    Sys2Proof.Machine.exec (.mergeEntryTimeout c l) s = .next (s.releaseLine c.val l) := congrArg Host.Outcome.next (if_pos h)

theorem clearDone_alive {s : State} (h : s.alive = true) (u : ClearUnit) :
    Sys2Proof.Machine.exec (.clearDone u) s = .next { s with mem := { s.mem with clearing := s.mem.clearing.filter (· ≠ u) } } :=
  congrArg Host.Outcome.next (if_pos h)

theorem softRowRepair_repairRow (s : State) (c : Fin 256) (bank : Fin 16) (row removed : Nat) :
    Sys2Proof.Machine.exec (.softRowRepair c bank row removed) s = .next (s.repairRow c.val bank.val row) := rfl

/-- Settles O27: released entries and written bytes read as they should, and scrub and repair leave their counts and records. -/
theorem memoryService : Obligations.MemoryService := by
  unfold Obligations.MemoryService
  refine ⟨fun s ha => ⟨clearDone_alive ha, fun c l hl hp => ?release⟩, fun s c o bs ha ho hb => ?write,
    fun s c ha hp => ⟨fun es hc => ?clearing, fun hc => ?clean, fun o hc => ?corrected, fun bank row removed hon hr => ?repair⟩⟩
  case release =>
    obtain ⟨-, -, -, -, hod⟩ := State.unbonded_fields (State.releaseLine_unbonded s c.val l)
    exact ⟨_, mergeEntryTimeout_alive ha c l, State.mergeOf_releaseLine hp, State.releaseLine_bondedByte hp hl, hod⟩
  case write =>
    obtain ⟨hin, hout⟩ := State.privWrite_written ho fun i hi => (hb i hi).1
    obtain ⟨hrest, htile, hstate, hhost, -⟩ := State.unbonded_fields (State.privWrite_unbonded s c.val o bs)
    exact ⟨_, barMemoryWrite_whole ha ho fun i hi => (hb i hi).2, hin, hout, hrest, htile, hstate, hhost⟩
  case clearing =>
    exact congrArg Host.Outcome.next (State.scrub_clearing hc es)
  case clean =>
    exact congrArg Host.Outcome.next (State.scrub_passes ha hp hc [])
  case corrected =>
    exact congrArg Host.Outcome.next (State.scrub_corrected ha hp hc o)
  case repair =>
    have heq := State.repairRow_eq (r := ⟨c.val, bank.val, row⟩) ha hon hp hr
    rw [softRowRepair_repairRow]
    refine ⟨fun hbad => ?_, fun hbad hused => ?_, fun hbad hused => ⟨_, ?_, State.rowRepaired_facts s ⟨c.val, bank.val, row⟩⟩⟩
    · exact congrArg Host.Outcome.next (heq.trans (if_pos hbad))
    · exact congrArg Host.Outcome.next (heq.trans ((if_neg (ne_false_of_eq_true hbad)).trans (if_pos hused)))
    · exact congrArg Host.Outcome.next (heq.trans ((if_neg (ne_false_of_eq_true hbad)).trans (if_neg (Nat.not_le_of_lt hused))))

/-- What a command does while a condition holds keeps the canonical form. -/
theorem completes_wf {c : Instr} {s t : State} {b : Bool} (hx : Sys2Proof.Machine.exec c s = .next (if b then t else s))
    (ht : t.mem.wf) (hs : s.mem.wf) : Completes c s fun t => t.mem.wf := by
  refine ⟨_, hx, ?_⟩
  split
  · exact ht
  · exact hs

/-- Settles O28: each of these commands is an operation on the memories that keeps their form, or changes none of them. -/
theorem memoryCanonical : Obligations.MemoryCanonical := by
  unfold Obligations.MemoryCanonical
  rintro s h c (⟨ch, o, bs, rfl⟩ | ⟨ch, l, rfl⟩ | ⟨u, rfl⟩ | ⟨ch, b, r, n, rfl⟩ | ⟨ch, passed, rfl⟩)
  · exact completes_wf rfl (State.wf_privWrite _ _ _ h) h
  · exact completes_wf rfl (State.wf_releaseLine _ _ h) h
  · refine completes_wf (b := s.alive) rfl ?_ h
    exact h
  · exact ⟨_, softRowRepair_repairRow s ch b r n, State.wf_repairRow _ _ _ h⟩
  · exact completes_wf rfl (State.wf_retestDone _ _ h) h

end Sys2Proof

/-! SUPPORT. Host reads that fail, and the losses to shared resources (R112, R313, R392, R393). -/

namespace Sys2Proof.Machine.State

/-- Which transfer reads an address follows from the transfers and from the functions' windows on the bus. -/
theorem xferReading_congr {s t : State} (hx : t.xfer = s.xfer) (hb : ∀ p : Fin 128, t.rdn 0x4016 (p.val + 1) = s.rdn 0x4016 (p.val + 1))
    (fn : Iface) (addr : Nat) : t.xferReading fn addr = s.xferReading fn addr := by
  have ha : ∀ a, t.ifaceAddr fn a = s.ifaceAddr fn a := by
    intro a
    cases fn with
    | vf p => rw [ifaceAddr, ifaceAddr, busAddr, busAddr, hb]
    | pf => rfl
    | can n => rfl
  simp only [xferReading, xferOf, hx, ha]

theorem xferReading_emit (s : State) (o : Output) (fn : Iface) (addr : Nat) : (s.emit o).xferReading fn addr = s.xferReading fn addr :=
  xferReading_congr rfl (fun _ => rfl) fn addr

/-- A failed read that a domain transfer made ends the transfer (R112, R419). -/
theorem readFails_xfer {s : State} {fn : Iface} {addr : Nat} (h : s.xferReading fn addr = true) :
    s.readFails fn addr = (s.raise 0x4001 10).cutDomain (ifaceNo fn) := by
  unfold readFails
  exact if_pos h

theorem readCompletion_ok {s : State} (ha : s.alive = true) (fn : Iface) (addr : Nat) (data : List Byte) :
    s.readCompletion fn addr .ok data = { s with mem := { s.mem with host := hostWrite s.mem.host addr data } } := by
  rw [readCompletion, ha]; rfl

theorem readCompletion_error {s : State} (ha : s.alive = true) {fn : Iface} {addr : Nat} {st : CplStatus} {name : String} (data : List Byte)
    (hst : aerOf st = some name) (h : s.xferReading fn addr = true) :
    s.readCompletion fn addr st data = ((s.emit (.aer name)).raise 0x4001 10).cutDomain (ifaceNo fn) := by
  rw [readCompletion, ha, hst]
  exact readFails_xfer ((xferReading_emit ..).trans h)

theorem readTimeout_xfer {s : State} (ha : s.alive = true) {fn : Iface} {addr : Nat} (h : s.xferReading fn addr = true) :
    s.readTimeout fn addr = (((s.raise 0x2101 2).emit (.aer "Completion Timeout")).raise 0x4001 10).cutDomain (ifaceNo fn) := by
  have hb : ∀ p : Fin 128, (s.raise 0x2101 2).rdn 0x4016 (p.val + 1) = s.rdn 0x4016 (p.val + 1) := by
    intro p
    have hkey : ∀ j < 256, odKey 0 0x4016 (p.val + 1) ≠ odKey 0 0x2101 j := fun j hj => odKey_ne hj (by omega) (.inl (by decide))
    rw [rdn, rd_raise_other s (hkey 1 (by decide)) (hkey 4 (by decide)), rdn]
  have hx : (s.raise 0x2101 2).xferReading fn addr = true := (xferReading_congr (raise_xfer s 0x2101 2) hb fn addr).trans h
  rw [readTimeout, ha]
  exact readFails_xfer ((xferReading_emit ..).trans hx)

/-- A millisecond's losses join the last 100 sums, and each is added to its counter (R313). -/
theorem slowUpdate_facts {s : State} (ha : s.alive = true) {p : Nat} (mesh cap link bedrock shift : Nat) :
    let t := s.slowUpdate p mesh cap link bedrock shift
    (t.part p).slow = ((mesh + cap + link + bedrock + shift) :: (s.part p).slow).take 100 ∧
    t.rd 0x7020 (p + 1) = s.rd 0x7020 (p + 1) + BitVec.ofNat 64 mesh ∧
    t.rd 0x7021 (p + 1) = s.rd 0x7021 (p + 1) + BitVec.ofNat 64 cap ∧
    t.rd 0x7022 (p + 1) = s.rd 0x7022 (p + 1) + BitVec.ofNat 64 link ∧
    t.rd 0x7023 (p + 1) = s.rd 0x7023 (p + 1) + BitVec.ofNat 64 bedrock ∧
    t.rd 0x7024 (p + 1) = s.rd 0x7024 (p + 1) + BitVec.ofNat 64 shift ∧ t.mem = s.mem := by
  have hupd : ∀ (u : State) (f : Part → Part) (i : Nat), (u.updPart p f).rd i (p + 1) = u.rd i (p + 1) := fun _ _ _ => rfl
  have hkey : ∀ i i' : Nat, odKey 0 i (p + 1) = odKey 0 i' (p + 1) ↔ i = i' := by
    intro i i'; simp only [odKey]; omega
  rw [slowUpdate, ha]
  simp only [Bool.not_true, Bool.false_eq_true, if_false]
  refine ⟨?_, ?_⟩
  · rw [part_updPart, if_pos rfl]
    rfl
  · simp [hupd, rd_bump64, hkey]

end Sys2Proof.Machine.State

namespace Sys2Proof

open Sys2Proof.Machine

/-- Settles O20: a completion delivers its bytes, a read that fails ends the domain transfer that made it, and losses are counted. -/
theorem hostReads : Obligations.HostReads := by
  unfold Obligations.HostReads
  intro s fn addr data ha
  refine ⟨?ok, fun st name hst hx => ?error, fun hx => ?timeout, fun p a b c e f => ⟨_, rfl, ?losses⟩⟩
  case ok => exact congrArg Host.Outcome.next (State.readCompletion_ok ha fn addr.toNat data)
  case error => exact congrArg Host.Outcome.next (State.readCompletion_error ha data hst hx)
  case timeout => exact congrArg Host.Outcome.next (State.readTimeout_xfer ha hx)
  case losses => exact State.slowUpdate_facts ha a b c e f

end Sys2Proof

/-! SUPPORT. Hints: what a queued prefetch, a pin and an unpin leave (R105). -/

namespace Sys2Proof.Machine.State

/-- From `s` to `t` nothing happened but that migrations joined those of partition p. -/
structure Queued (p : Nat) (s t : State) : Prop where
  rest : { t with parts := s.parts } = s
  part : { t.part p with migrations := (s.part p).migrations } = s.part p
  migrations : (s.part p).migrations <+: (t.part p).migrations

theorem Queued.refl (p : Nat) (s : State) : Queued p s s := ⟨rfl, rfl, List.prefix_rfl⟩

theorem Queued.trans {p : Nat} {s t u : State} (h : Queued p s t) (k : Queued p t u) : Queued p s u where
  rest := (congrArg (fun x => { x with parts := s.parts }) k.rest).trans h.rest
  part := (congrArg (fun x => { x with migrations := (s.part p).migrations }) k.part).trans h.part
  migrations := h.migrations.trans k.migrations

theorem part_appendMigrations (s : State) (p : Nat) (ms : List Migration) :
    (s.updPart p fun x => { x with migrations := x.migrations ++ ms }).part p =
      { s.part p with migrations := (s.part p).migrations ++ ms } :=
  (part_updPart s p p _).trans (if_pos rfl)

theorem queued_append (s : State) (p : Nat) (ms : List Migration) :
    Queued p s (s.updPart p fun x => { x with migrations := x.migrations ++ ms }) :=
  ⟨rfl, by rw [part_appendMigrations], by rw [part_appendMigrations]; exact List.prefix_append _ _⟩

/-- The migrations of partition p that hints have queued. -/
def hintsQueued (s : State) (p : Nat) : Nat := ((s.part p).migrations.filter Migration.hinted).length

theorem Queued.hintsQueued_le {p : Nat} {s t : State} (h : Queued p s t) : s.hintsQueued p ≤ t.hintsQueued p :=
  (h.migrations.sublist.filter _).length_le

/-- Which pages are lost follows from the bedrock alone. -/
theorem pageLost_congr {s t : State} (hb : t.bedrock = s.bedrock) (n : Nat) : (t.pageModel n).any t.isLost = (s.pageModel n).any s.isLost := by
  have hm : t.model = s.model := by funext m; rw [model, hb, model]
  have hl : t.isLost = s.isLost := by funext g; rw [isLost, hb, isLost]
  have hp : t.pageModel n = s.pageModel n := by rw [pageModel, hb, hm, pageModel]
  rw [hp, hl]

/-- What a prefetch of page `n` leaves: its frame, its place in the queue, its loss, or a full queue (R105). -/
def Settled (p n : Nat) (s : State) : Prop :=
  (s.pageFrame p n).isSome = true ∨ (∃ m ∈ (s.part p).migrations, m.page = n) ∨ (s.pageModel n).any s.isLost = true ∨
    256 ≤ s.hintsQueued p

theorem Settled.congr {p n : Nat} {s t : State} (h : Settled p n s) (hp : t.part p = s.part p) (hb : t.bedrock = s.bedrock) :
    Settled p n t := by
  unfold Settled pageFrame hintsQueued
  rw [hp, pageLost_congr hb]
  exact h

theorem Queued.settled {p n : Nat} {s t : State} (h : Queued p s t) (hs : Settled p n s) : Settled p n t := by
  have hb : t.bedrock = s.bedrock := (congrArg State.bedrock h.rest :)
  have hf : (t.part p).frames = (s.part p).frames := (congrArg Part.frames h.part :)
  unfold Settled pageFrame
  rw [hf, pageLost_congr hb]
  obtain hframe | ⟨m, hmem, hpage⟩ | hlost | hfull := hs
  · exact .inl hframe
  · exact .inr (.inl ⟨m, h.migrations.subset hmem, hpage⟩)
  · exact .inr (.inr (.inl hlost))
  · exact .inr (.inr (.inr (Nat.le_trans hfull h.hintsQueued_le)))

theorem prefetch_some {s u : State} {p n : Nat} (h : s.prefetch p n = some u) : Queued p s u ∧ Settled p n u := by
  unfold prefetch at h
  split at h
  · next hc =>
    obtain rfl := Option.some.inj h
    simp only [Bool.or_eq_true, List.any_eq_true, decide_eq_true_eq] at hc
    obtain (hframe | hqueued) | hlost := hc
    · exact ⟨.refl p s, .inl hframe⟩
    · exact ⟨.refl p s, .inr (.inl hqueued)⟩
    · exact ⟨.refl p s, .inr (.inr (.inl hlost))⟩
  · split at h
    · cases h
    · obtain rfl := Option.some.inj h
      refine ⟨queued_append s p _, .inr (.inl ⟨⟨n, false, true, none, s.time, [], false⟩, ?_, rfl⟩)⟩
      rw [part_appendMigrations]
      exact List.mem_append_right _ (List.mem_singleton_self _)

theorem prefetch_none {s : State} {p n : Nat} (h : s.prefetch p n = none) : 256 ≤ s.hintsQueued p := by
  unfold prefetch at h
  split at h
  · cases h
  · split at h
    · next hfull => exact hfull
    · cases h

/-- The next page of a hint: dropped and counted once the queue is full, else prefetched and given to `f`. -/
def hintStep (p first : Nat) (f : State → Nat → State) (x : State × Nat) (i : Nat) : State × Nat :=
  if x.2 ≠ 0 then (x.1, x.2 + 1)
  else match x.1.prefetch p (first + i) with
    | some t => (f t (first + i), 0)
    | none => (x.1, 1)

theorem hintPages_eq (s : State) (p first count : Nat) (f : State → Nat → State) : s.hintPages p first count f =
    let r := (List.range count).foldl (hintStep p first f) (s, 0)
    if r.2 = 0 then r.1 else (r.1.bump32 0x4015 (p + 1) r.2).raise 0x4001 8 := rfl

/-- Pages of a hint are dropped only while the queue is full. -/
def DropsWhenFull (p : Nat) (x : State × Nat) : Prop := x.2 ≠ 0 → 256 ≤ x.1.hintsQueued p

theorem hintStep_facts {p a i : Nat} {x : State × Nat} (h : DropsWhenFull p x) :
    Queued p x.1 (hintStep p a (fun t _ => t) x i).1 ∧ Settled p (a + i) (hintStep p a (fun t _ => t) x i).1 ∧
      DropsWhenFull p (hintStep p a (fun t _ => t) x i) := by
  unfold hintStep
  split
  · next hx => exact ⟨.refl _ _, .inr (.inr (.inr (h hx))), fun _ => h hx⟩
  · cases hp : x.1.prefetch p (a + i) with
    | some u =>
      obtain ⟨hq, hs⟩ := prefetch_some hp
      exact ⟨hq, hs, fun h0 => absurd rfl h0⟩
    | none => exact ⟨.refl _ _, .inr (.inr (.inr (prefetch_none hp))), fun _ => prefetch_none hp⟩

theorem foldl_hintStep_facts {p a : Nat} (l : List Nat) {x : State × Nat} (h : DropsWhenFull p x) :
    Queued p x.1 (l.foldl (hintStep p a fun t _ => t) x).1 ∧ ∀ i ∈ l, Settled p (a + i) (l.foldl (hintStep p a fun t _ => t) x).1 := by
  induction l generalizing x with
  | nil => exact ⟨.refl _ _, fun i hi => absurd hi List.not_mem_nil⟩
  | cons j l ih =>
    obtain ⟨hq, hs, hd⟩ := hintStep_facts (a := a) (i := j) h
    obtain ⟨hq', hs'⟩ := ih hd
    refine ⟨hq.trans hq', fun i hi => ?_⟩
    obtain rfl | hi := List.mem_cons.1 hi
    · exact hq'.settled hs
    · exact hs' i hi

/-- A prefetch hint settles each of its pages, and changes no more of its partition than the migrations (R105). -/
theorem hintPages_prefetch (s : State) (p a n : Nat) :
    let t := s.hintPages p a n fun t _ => t
    (∀ i, i < n → Settled p (a + i) t) ∧ { t.part p with migrations := (s.part p).migrations } = s.part p ∧ t.mem = s.mem := by
  obtain ⟨hq, hs⟩ := foldl_hintStep_facts (p := p) (a := a) (List.range n) (x := (s, 0)) fun h => absurd rfl h
  have hmem : ((List.range n).foldl (hintStep p a fun t _ => t) (s, 0)).1.mem = s.mem := (congrArg State.mem hq.rest :)
  rw [hintPages_eq]
  dsimp only
  split
  · exact ⟨fun i hi => hs i (List.mem_range.2 hi), hq.part, hmem⟩
  · exact ⟨fun i hi => (hs i (List.mem_range.2 hi)).congr rfl (by simp), hq.part, by simpa using hmem⟩

theorem hintPages_one {s u : State} {p a : Nat} (h : s.prefetch p a = some u) (f : State → Nat → State) :
    s.hintPages p a 1 f = f u a := by
  have hstep : hintStep p a f (s, 0) 0 = (f u a, 0) := by
    rw [hintStep, if_neg (fun h0 => h0 rfl), Nat.add_zero, h]
  rw [hintPages_eq, List.range_one, List.foldl_cons, List.foldl_nil, hstep]
  exact if_pos rfl

/-- The loaded plan that a change of plan `id` leaves. -/
theorem findPlan_updPlan (s : State) (p : Nat) (id : W64) {f : Loaded → Loaded} (hf : ∀ l, (f l).plan.planId = l.plan.planId) :
    (s.updPlan p id f).findPlan p id = (s.findPlan p id).map f := by
  have hlist : ∀ ls : List Loaded, (ls.map fun l => if l.plan.planId = id then f l else l).find? (fun l => l.plan.planId = id) =
      (ls.find? fun l => l.plan.planId = id).map f := by
    intro ls
    induction ls with
    | nil => rfl
    | cons l ls ih =>
      by_cases hl : l.plan.planId = id
      · simp [hl, hf]
      · simpa [hl] using ih
  unfold findPlan updPlan
  rw [part_updPart, if_pos rfl]
  exact hlist _

/-- A pin that would leave fewer than 16 frames unpinned is refused (R105). -/
theorem pinPage_refused {s : State} {p n : Nat} (id : W64) (h0 : s.pinCount p n = 0) (hf : s.weightFrames p < s.pinLoad p + 17) :
    pinPage id p s n = s.raise 0x4001 7 := by
  rw [pinPage, h0]
  exact if_pos (by simpa using hf)

/-- Any other pin adds one to the page's count (R105). -/
theorem pinPage_counts {s : State} {p n : Nat} {id : W64} {l : Loaded} (hl : s.findPlan p id = some l)
    (h : s.pinCount p n ≠ 0 ∨ s.pinLoad p + 17 ≤ s.weightFrames p) :
    ∃ l1, (pinPage id p s n).findPlan p id = some l1 ∧
      NMap.get (fun _ => 0) l1.pins n = NMap.get (fun _ => 0) l.pins n + 1 := by
  have hc : ¬ (s.pinCount p n = 0 && s.weightFrames p < s.pinLoad p + 1 + 16) = true := by
    simp only [Bool.and_eq_true, decide_eq_true_eq]; omega
  rw [pinPage, if_neg hc]
  refine ⟨_, (findPlan_updPlan s p id ?_).trans (congrArg (Option.map _) hl), ?_⟩
  · exact fun _ => rfl
  · exact NMap.get_set_same (fun _ => 0) l.pins n (NMap.get (fun _ => 0) l.pins n + 1)

theorem unpinPage_findPlan {s : State} {p : Nat} {id : W64} {l : Loaded} (hl : s.findPlan p id = some l) (n : Nat) :
    (unpinPage id p s n).findPlan p id =
      some { l with pins := NMap.set (fun _ => 0) l.pins n (NMap.get (fun _ => 0) l.pins n - 1) } := by
  refine (findPlan_updPlan s p id ?_).trans (congrArg (Option.map _) hl)
  exact fun _ => rfl

/-- An unpin of `n` pages from page `a` on takes one from the count of each, and of no other (R105). -/
theorem foldl_unpinPage {s : State} {p : Nat} {id : W64} {l : Loaded} (hl : s.findPlan p id = some l) (a n : Nat) :
    ∃ l1, ((List.range n).foldl (fun t i => unpinPage id p t (a + i)) s).findPlan p id = some l1 ∧
      ∀ k, NMap.get (fun _ => 0) l1.pins k =
        if a ≤ k ∧ k < a + n then NMap.get (fun _ => 0) l.pins k - 1 else NMap.get (fun _ => 0) l.pins k := by
  induction n with
  | zero => exact ⟨l, hl, fun k => (if_neg (by omega)).symm⟩
  | succ n ih =>
    obtain ⟨l1, hl1, hpins⟩ := ih
    rw [List.range_succ, List.foldl_append, List.foldl_cons, List.foldl_nil]
    refine ⟨_, unpinPage_findPlan hl1 (a + n), fun k => ?_⟩
    by_cases hk : k = a + n
    · subst hk
      rw [NMap.get_set_same, hpins, if_neg (by omega), if_pos (by omega)]
    · rw [NMap.get_set_other _ _ _ hk, hpins]
      exact ite_congr (propext (by omega)) (fun _ => rfl) (fun _ => rfl)

end Sys2Proof.Machine.State

/-! SUPPORT. Demand migrations and their completion (R104, R106, R132, R134). -/

namespace Sys2Proof.Machine.State

/-- Slot `k` of plan `id` reads page `n`, which lies in a region of the partition's plans, and no frame holds it (R104). -/
structure ReadMisses (s : State) (p : Nat) (id : W64) (k n : Nat) (l : Loaded) : Prop where
  findPlan : s.findPlan p id = some l
  serves : s.serves = true
  runs : s.planRuns p id = true
  inPlan : ∃ x ∈ s.loadedRegions p, x.1 ≤ n * 65536 ∧ n * 65536 < x.1 + x.2
  slot : k < l.active.slotCount
  frame : s.pageFrame p n = none

theorem ReadMisses.guard {s : State} {p k n : Nat} {id : W64} {l : Loaded} (h : s.ReadMisses p id k n l) :
    (!s.serves || !s.planRuns p id || !((s.loadedRegions p).any fun x => x.1 ≤ n * 65536 && n * 65536 < x.1 + x.2) ||
      l.active.slotCount ≤ k || (s.pageFrame p n).isSome) = false := by
  have hin : ((s.loadedRegions p).any fun x => x.1 ≤ n * 65536 && n * 65536 < x.1 + x.2) = true := by
    simpa using h.inPlan
  simp [h.serves, h.runs, hin, h.frame, h.slot]

/-- Frame `f` of partition p is being filled with page `n` for a read by slot `k` of plan `id`, whose migration waits (R104). -/
def demanded (s : State) (p : Nat) (id : W64) (k n f : Nat) : State :=
  (s.setFrame p f (.filling n)).updPart p fun x =>
    { x with migrations := x.migrations ++ [⟨n, true, false, some f, s.time, [⟨id, k, s.time⟩], false⟩] }

/-- A read of a lost page ends its request with WEIGHT_LOST (R134). -/
theorem demand_lost {s : State} {p k n : Nat} {id : W64} {l : Loaded} (h : s.ReadMisses p id k n l)
    (hlost : (s.pageModel n).any s.isLost = true) : s.demand p id k n = s.failPlan p id 0x21 := by
  unfold demand
  rw [h.findPlan]
  simp only [h.guard, hlost, Bool.false_eq_true, if_false, if_true]

section
variable {s : State} {p k n : Nat} {id : W64} {l : Loaded} (h : s.ReadMisses p id k n l)
  (hlost : (s.pageModel n).any s.isLost = false) (hm : ∀ m ∈ (s.part p).migrations, m.page ≠ n)
include h hlost hm

theorem demand_noFrames (hv : s.victim p = none) : s.demand p id k n = s.failPlan p id 0x25 := by
  have hfind : ((s.part p).migrations.find? fun m => m.page = n) = none := by simpa using hm
  unfold demand
  rw [h.findPlan]
  simp only [h.guard, hlost, hfind, hv, Bool.false_eq_true, if_false]

theorem demand_takes {f : Nat} (hv : s.victim p = some f) : s.demand p id k n = s.demanded p id k n f := by
  have hfind : ((s.part p).migrations.find? fun m => m.page = n) = none := by simpa using hm
  unfold demand
  rw [h.findPlan]
  simp only [h.guard, hlost, hfind, hv, Bool.false_eq_true, if_false]
  rfl

end

theorem frame_setFrame (s : State) (p f g : Nat) (u : FrameUse) : (s.setFrame p f u).frame p g = if g = f then u else s.frame p g := by
  rw [frame, setFrame, part_updPart, if_pos rfl]
  split
  · next hg => rw [hg]; exact NMap.get_set_same (fun _ => .empty) (s.part p).frames f u
  · next hg => exact NMap.get_set_other _ _ _ hg

/-- The frames of a partition stay as they are while the rest of it changes. -/
theorem frame_updPart (s : State) (p f : Nat) {g : Part → Part} (hg : ∀ x, (g x).frames = x.frames) :
    (s.updPart p g).frame p f = s.frame p f := by
  rw [frame, part_updPart, if_pos rfl, hg, frame]

theorem demanded_frame (s : State) (p : Nat) (id : W64) (k n f g : Nat) :
    (s.demanded p id k n f).frame p g = if g = f then .filling n else s.frame p g := by
  refine (frame_updPart _ p g ?_).trans (frame_setFrame s p f g _)
  exact fun _ => rfl

theorem demanded_migrations (s : State) (p : Nat) (id : W64) (k n f : Nat) : ((s.demanded p id k n f).part p).migrations =
    (s.part p).migrations ++ [⟨n, true, false, some f, s.time, [⟨id, k, s.time⟩], false⟩] := by
  rw [demanded, part_appendMigrations, setFrame, part_updPart, if_pos rfl]

/-! ### The end of a migration -/

/-- The frames and migrations of the partitions, the page reads and the streams: what the reads that go on after a migration leave alone. -/
def migrationView (s : State) : (Nat → NMap FrameUse × List Migration) × Bedrock × NMap Stream :=
  (fun q => ((s.part q).frames, (s.part q).migrations), s.bedrock, s.streams)

theorem migrationView_updPart (s : State) (p : Nat) {f : Part → Part} (hf : ∀ x, (f x).frames = x.frames ∧ (f x).migrations = x.migrations) :
    (s.updPart p f).migrationView = s.migrationView := by
  refine Prod.ext (funext fun q => ?_) rfl
  show (((s.updPart p f).part q).frames, ((s.updPart p f).part q).migrations) = ((s.part q).frames, (s.part q).migrations)
  rw [part_updPart]
  split
  · next hq => rw [(hf _).1, (hf _).2, hq]
  · rfl

theorem migrationView_updPlan (s : State) (p : Nat) (id : W64) (f : Loaded → Loaded) : (s.updPlan p id f).migrationView = s.migrationView := by
  refine migrationView_updPart s p ?_
  exact fun _ => ⟨rfl, rfl⟩

theorem migrationView_bump64 (s : State) (i j n : Nat) : (s.bump64 i j n).migrationView = s.migrationView := rfl

theorem migrationView_markCorrected (s : State) (p : Nat) (id : W64) : (s.markCorrected p id).migrationView = s.migrationView := by
  unfold markCorrected
  refine (foldl_keeps migrationView (fun u g => ?_) _ _).trans (migrationView_updPart s p ?_)
  · rfl
  · exact fun _ => ⟨rfl, rfl⟩

/-- Page `n` has been written into frame `f`, and neither its read nor its migration waits any more (R104). -/
def pageIn (s : State) (p n f : Nat) (pg : PageId) : State :=
  (((s.writeFrame p f 0 ((s.pagePlain pg).getD (List.replicate 65536 0))).setFrame p f (.page n s.time)).dropRead p pg).updPart p fun x =>
    { x with migrations := x.migrations.filter fun y => y.page ≠ n }

/-- A migration that ends at `now` is counted with its times (R104). -/
def countMigration (s : State) (now p : Nat) (m : Migration) (r : PageRead) : State :=
  let s1 := s.bump64 0x4013 (p + 1) 1
  let s2 := match m.waiters with
    | [] => s1
    | w :: _ => s1.bump64 0x4014 (p + 1) (now - w.since)
  match r.since with
  | some t => s2.bump64 0x4413 (p + 1) (now - t)
  | none => s2

/-- Tile `t` has waited with the read `w`. -/
def tileWaited (w : Waiter) (s : State) (t : Nat) : State := s.bumpObj64 0x3150 t ((s.time - w.since) * s.tileClock t)

/-- The read `w`, which waited for page `n`, goes on. -/
def readGoesOn (p n : Nat) (s : State) (w : Waiter) : State :=
  (s.arrayTiles p w.planId w.slot).foldl (tileWaited w) (s.updPlan p w.planId fun l => { l with fetched := n :: l.fetched })

/-- The requests of the plan that made the read `w` end with DONE_CORRECTED. -/
def readCorrected (p : Nat) (s : State) (w : Waiter) : State := s.markCorrected p w.planId

/-- The reads that waited for page `n` go on, those of a rebuilt page with DONE_CORRECTED (R104, R132). -/
def readsGoOn (s : State) (p n : Nat) (m : Migration) (r : PageRead) : State :=
  if r.parityFor.isSome && !r.standIn then m.waiters.foldl (readCorrected p) (m.waiters.foldl (readGoesOn p n) s)
  else m.waiters.foldl (readGoesOn p n) s

theorem migrationView_countMigration (s : State) (now p : Nat) (m : Migration) (r : PageRead) :
    (s.countMigration now p m r).migrationView = s.migrationView := by
  unfold countMigration
  cases m.waiters <;> cases r.since <;> rfl

theorem migrationView_readGoesOn (p n : Nat) (s : State) (w : Waiter) : (readGoesOn p n s w).migrationView = s.migrationView := by
  have htile : ∀ u t, (tileWaited w u t).migrationView = u.migrationView := fun u _ => migrationView_bump64 u _ _ _
  rw [readGoesOn, foldl_keeps migrationView htile, migrationView_updPlan]

theorem migrationView_readsGoOn (s : State) (p n : Nat) (m : Migration) (r : PageRead) :
    (s.readsGoOn p n m r).migrationView = s.migrationView := by
  have hon := foldl_keeps migrationView (f := readGoesOn p n) (migrationView_readGoesOn p n) m.waiters s
  have hcorrected : ∀ u w, (readCorrected p u w).migrationView = u.migrationView := fun u w => migrationView_markCorrected u p w.planId
  unfold readsGoOn
  split
  · rw [foldl_keeps migrationView hcorrected, hon]
  · exact hon

/-- The completion of a migration whose page has been read. -/
theorem migrated_eq {s : State} {p n f : Nat} {pg : PageId} {r : PageRead} {m : Migration} (hpg : s.pageModel n = some pg)
    (hr : s.findRead p pg = some r) (hm : ((s.part p).migrations.find? fun m => m.page = n) = some m) (hf : m.frame = some f)
    (ha : s.alive = true) (hready : r.ready = true) (hpow : s.powered p = true) :
    s.migrated p n = ((s.pageIn p n f pg).countMigration s.time p m r).readsGoOn p n m r := by
  unfold migrated
  simp only [hpg, hr, hm, hf, ha, hready, hpow, Bool.not_true, Bool.or_self, Bool.false_eq_true, if_false, Option.getD_some]
  rfl

theorem writeFrame_memless (s : State) (p f o : Nat) (bs : List Byte) : (s.writeFrame p f o bs).memless = s.memless :=
  privWrite_memless _ _ _ _

theorem findRead_dropRead (s : State) (p : Nat) (pg : PageId) : (s.dropRead p pg).findRead p pg = none := by
  refine List.find?_eq_none.2 fun r hr => ?_
  have hkeep := (List.mem_filter.1 hr).2
  simp only [Bool.or_eq_true, Bool.and_eq_true, decide_eq_true_eq] at hkeep ⊢
  rintro ⟨hpart, hid⟩
  exact hkeep.elim (fun hne => hne hpart) (fun hne => hne hid)

theorem pageIn_frame (s : State) (p n f : Nat) (pg : PageId) : (s.pageIn p n f pg).frame p f = .page n s.time := by
  unfold pageIn
  refine (frame_updPart _ p f ?_).trans ?_
  · exact fun _ => rfl
  · exact (frame_setFrame _ p f f _).trans (if_pos rfl)

theorem pageIn_migrations (s : State) (p n f : Nat) (pg : PageId) : ∀ m ∈ ((s.pageIn p n f pg).part p).migrations, m.page ≠ n := by
  intro m hm
  rw [pageIn, part_updPart, if_pos rfl] at hm
  simpa using (List.mem_filter.1 hm).2

theorem pageIn_findRead (s : State) (p n f : Nat) (pg : PageId) : (s.pageIn p n f pg).findRead p pg = none := findRead_dropRead _ p pg

theorem pageIn_streams (s : State) (p n f : Nat) (pg : PageId) : (s.pageIn p n f pg).streams = s.streams :=
  (congrArg State.streams (writeFrame_memless s p f 0 ((s.pagePlain pg).getD (List.replicate 65536 0))) :)

theorem pageIn_rd (s : State) (p n f : Nat) (pg : PageId) (i j : Nat) : (s.pageIn p n f pg).rd i j = s.rd i j :=
  rd_memless (writeFrame_memless s p f 0 ((s.pagePlain pg).getD (List.replicate 65536 0))) i j

/-- A migration that no read waited for adds one to the partition's migrations (R104). -/
theorem countMigration_rd (s : State) (now p : Nat) {m : Migration} (r : PageRead) (hw : m.waiters = []) :
    (s.countMigration now p m r).rd 0x4013 (p + 1) = s.rd 0x4013 (p + 1) + 1 := by
  have hcount : (s.bump64 0x4013 (p + 1) 1).rd 0x4013 (p + 1) = s.rd 0x4013 (p + 1) + 1 := rd_wr_same s _ _ _
  have hkey : odKey 0 0x4013 (p + 1) ≠ odKey 0 0x4413 (p + 1) := by simp only [odKey]; omega
  unfold countMigration
  rw [hw]
  cases r.since with
  | none => exact hcount
  | some t => exact (rd_wr_other _ _ hkey).trans hcount

theorem readsGoOn_noWaiters (s : State) (p n : Nat) {m : Migration} (r : PageRead) (hw : m.waiters = []) : s.readsGoOn p n m r = s := by
  rw [readsGoOn, hw]
  exact ite_self _

/-- Neither the count of a migration nor the reads that go on move what `pageIn` left. -/
theorem migrationView_completed (s : State) (now p n : Nat) (m : Migration) (r : PageRead) :
    ((s.countMigration now p m r).readsGoOn p n m r).migrationView = s.migrationView :=
  (migrationView_readsGoOn _ p n m r).trans (migrationView_countMigration s now p m r)

end Sys2Proof.Machine.State

namespace Sys2Proof

open Sys2Proof.Machine

theorem hintPrefetch_hinted {s : State} {p : Fin 128} {id : W64} {h a n : Nat} (hh : s.hintOf p.val id h 1 = some (a, n)) :
    Sys2Proof.Machine.exec (.hintPrefetch p id h) s = .next (s.hintPages p.val a n fun t _ => t) := by
  show execHintPrefetch p id h s = _
  rw [execHintPrefetch, hh]

theorem hintPin_hinted {s u : State} {p : Fin 128} {id : W64} {h a : Nat} (hh : s.hintOf p.val id h 2 = some (a, 1))
    (hu : s.prefetch p.val a = some u) : Sys2Proof.Machine.exec (.hintPin p id h) s = .next (State.pinPage id p.val u a) := by
  show execHintPin p id h s = _
  rw [execHintPin, hh]
  exact congrArg Host.Outcome.next (State.hintPages_one hu _)

theorem hintUnpin_hinted {s : State} {p : Fin 128} {id : W64} {h a n : Nat} (hh : s.hintOf p.val id h 3 = some (a, n)) :
    Sys2Proof.Machine.exec (.hintUnpin p id h) s = .next ((List.range n).foldl (fun t i => State.unpinPage id p.val t (a + i)) s) := by
  show execHintUnpin p id h s = _
  rw [execHintUnpin, hh]

/-- What the completion of a migration leaves (R104, R132). -/
theorem migrationComplete_facts {s : State} {p : Fin 128} {n f : Nat} {pg : PageId} {r : PageRead} {m : Migration}
    (heq : s.migrated p.val n = ((s.pageIn p.val n f pg).countMigration s.time p.val m r).readsGoOn p.val n m r) :
    Completes (.migrationComplete p n) s fun t =>
      t.frame p.val f = .page n s.time ∧ (∀ m ∈ (t.part p.val).migrations, m.page ≠ n) ∧
      (m.waiters = [] → t.rd 0x4013 (p.val + 1) = s.rd 0x4013 (p.val + 1) + 1) ∧ t.findRead p.val pg = none ∧ t.streams = s.streams := by
  refine ⟨_, congrArg Host.Outcome.next heq, ?_⟩
  have hview := State.migrationView_completed (s.pageIn p.val n f pg) s.time p.val n m r
  have hcount : m.waiters = [] → (((s.pageIn p.val n f pg).countMigration s.time p.val m r).readsGoOn p.val n m r).rd 0x4013 (p.val + 1) =
      s.rd 0x4013 (p.val + 1) + 1 := fun hw => by
    rw [State.readsGoOn_noWaiters _ _ _ _ hw, State.countMigration_rd _ _ _ _ hw, State.pageIn_rd]
  generalize ((s.pageIn p.val n f pg).countMigration s.time p.val m r).readsGoOn p.val n m r = t at hview hcount
  have hpart := congrFun (congrArg Prod.fst hview) p.val
  have hframes : (t.part p.val).frames = ((s.pageIn p.val n f pg).part p.val).frames := congrArg Prod.fst hpart
  have hmigrations : (t.part p.val).migrations = ((s.pageIn p.val n f pg).part p.val).migrations := congrArg Prod.snd hpart
  have hbedrock : t.bedrock = (s.pageIn p.val n f pg).bedrock := (congrArg (fun v => v.2.1) hview :)
  have hstreams : t.streams = (s.pageIn p.val n f pg).streams := (congrArg (fun v => v.2.2) hview :)
  refine ⟨?_, ?_, hcount, ?_, hstreams.trans (State.pageIn_streams ..)⟩
  · rw [State.frame, hframes]
    exact State.pageIn_frame ..
  · rw [hmigrations]
    exact State.pageIn_migrations s p.val n f pg
  · rw [State.findRead, hbedrock]
    exact State.pageIn_findRead ..

/-- Settles O26, by what the pages of a hint, a read that misses and the end of a migration leave. -/
theorem weightPages : Obligations.WeightPages := by
  unfold Obligations.WeightPages
  refine ⟨fun s p id h a n => ⟨fun hh => ?prefetch, fun u hh hu => ⟨fun h0 hf => ?pinRefused, fun hp l hl => ?pin⟩, fun l hh hl => ?unpin⟩,
    fun s p id k n l hl => ⟨fun hs hr hin hk hf => ⟨fun hlost => ?lost, fun hlost hm => ⟨fun hv => ?noFrames, fun f hv => ?takes⟩⟩,
      fun pg r m f hpg hr hm hf ha hready hpow => ?complete⟩⟩
  case prefetch => exact ⟨_, hintPrefetch_hinted hh, State.hintPages_prefetch s p.val a n⟩
  case pinRefused => exact (hintPin_hinted hh hu).trans (congrArg Host.Outcome.next (State.pinPage_refused id h0 hf))
  case pin => exact ⟨_, hintPin_hinted hh hu, State.pinPage_counts hl hp⟩
  case unpin => exact ⟨_, hintUnpin_hinted hh, State.foldl_unpinPage hl a n⟩
  case lost => exact congrArg Host.Outcome.next (State.demand_lost ⟨hl, hs, hr, hin, hk, hf⟩ hlost)
  case noFrames => exact congrArg Host.Outcome.next (State.demand_noFrames ⟨hl, hs, hr, hin, hk, hf⟩ hlost hm hv)
  case takes =>
    refine ⟨_, congrArg Host.Outcome.next (State.demand_takes ⟨hl, hs, hr, hin, hk, hf⟩ hlost hm hv), ?_, State.demanded_migrations ..,
      fun g hg => ?_, rfl, rfl⟩
    · exact (State.demanded_frame ..).trans (if_pos rfl)
    · exact (State.demanded_frame ..).trans (if_neg hg)
  case complete => exact migrationComplete_facts (State.migrated_eq hpg hr hm hf ha hready hpow)

end Sys2Proof
